-- ==== Sys2Proof/Word.lean ====
section
/-! DEFINITION. The machine words of the Tilend 7740 and their plainest arithmetic. -/

namespace Sys2Proof

/-- A byte (R2). -/
abbrev Byte := BitVec 8
/-- A scalar register, an address, the immediate latch (R10, R194). -/
abbrev Word := BitVec 64
/-- A vector row or a scratchpad row: 512 bytes (R114, R246). -/
abbrev Row := BitVec 4096
/-- A lane predicate: one bit for each of 512 lanes (R288). -/
abbrev PBits := BitVec 512
/-- A parcel of the stream (R9). -/
abbrev Parcel := BitVec 16
/-- A horizontal control word (R182). -/
abbrev Hcw := BitVec 256
/-- One slot of a control word (R192). -/
abbrev SlotWord := BitVec 35
/-- A micro-op of the matrix store (R204). -/
abbrev Uop := BitVec 64
/-- A 32-bit value: an fp32 code, a count, a vote. -/
abbrev Half := BitVec 32

end Sys2Proof
end

