-- ==== Sys2Proof/Syntax.lean ====
section
/-! DEFINITION. The instructions, micro-ops, events and requests of the part: one constructor of
`Instr` for each row of the opcode table. -/

namespace Sys2Proof

/-- The six slots of a control word, most significant first (R182). -/
inductive SlotId where
  | sx | sy | vx | vy | mx | cp
deriving DecidableEq, Repr

/-- The fields of one slot (R192). `twin` says that the operation is the short-immediate twin (form I)
of an entry that also has form R (R198, R199). -/
structure Fields where
  slot  : SlotId
  lmask : BitVec 5
  dst   : BitVec 7
  srca  : BitVec 7
  srcb  : BitVec 7
  bta   : Bool
  btb   : Bool
  twin  : Bool
deriving DecidableEq, Repr

/-- The two vector clusters (R91, R277). -/
inductive Cluster where
  | x | y
deriving DecidableEq, Repr

/-- What holds translations (R392, R393): a core's thread pipe, one of a core's two copy load pipes, the hub pipe, the walker of
a die (4 is die H); and another package of the pod, which acknowledges for all of its own and says whether its quota allows the
change (R443). -/
inductive CacheId where
  | thread (core : Nat) | copy (core pipe : Nat) | hub | walker (die : Nat) | member (pkg : Nat) (ok : Bool)
deriving DecidableEq, Repr

/-- A page of one plane of one address space: what pages in and out on its own (R66). `page` is the
position address of the page's first byte. -/
structure PageKey where
  asid  : Nat
  page  : Nat
  plane : Nat
deriving DecidableEq, Repr

/-- A step-deferred write on its way to the package that owns the page (R137, R138, R334). -/
structure DWrite where
  sgid   : Nat
  step   : Nat
  /-- source number of R138 -/
  source : Nat
  /-- place in the source's program order within the step -/
  order  : Nat
  /-- GTS at issue -/
  gts    : Nat
  asid   : Nat
  /-- planed virtual address -/
  va     : Word
  bytes  : List Byte
  /-- the address and the bytes of its part in each page, where it lies in more than one (R334) -/
  parts  : List (Word × Nat) := []
  /-- its tidepool entry is uncorrectable (R410) -/
  bad    : Bool := false
  /-- TINFO.SLOT of its operation (R397) -/
  slot   : Nat := 1
  /-- it is the part for a further owner of one store, which is one write (R334) -/
  more   : Bool := false
deriving DecidableEq, Repr

/-- How an Ultra Ethernet message is delivered (R373, R383). -/
inductive Delivery where
  | rod | rud | rudi | uud
deriving DecidableEq, Repr

/-- A fully delivered Ultra Ethernet message (R383). -/
structure Message where
  mode    : Delivery
  job     : Nat
  port    : Nat
  tag     : Word
  payload : List Byte
deriving DecidableEq, Repr

/-- The header of a Heresh request (R373), and how it came: by a message, whose job selects the requester's ASID, or, where
`box` is set, in an ASID's mailbox, at an offset there (R377). -/
structure ReqHead where
  magic : Nat
  ver   : Nat
  /-- LEN, and the bytes that the request really has -/
  len   : Nat
  size  : Nat := len
  /-- OP, where it names none of R374's operations -/
  otherOp : Option Nat := none
  job   : Nat
  rid   : Word
  /-- bytes 16 to 19, and the reserved bytes 20 to 23 -/
  status : Nat := 0
  spare : Nat := 0
  mode  : Delivery := .rod
  box   : Option (Nat × Nat) := none
deriving DecidableEq, Repr

/-- A signed object: its bytes, and whether the signature that travels with it verifies over their
SHA3-512 digest under the key the rule names (R369, R375). -/
structure Signed where
  bytes   : List Byte
  sigGood : Bool
deriving DecidableEq, Repr

/-- The body of a REGION request (R374, R443). -/
structure RegionReq where
  /-- the sixteen plane descriptors of the RPD (R53, R54) -/
  descs : List Word
  /-- bytes of position space -/
  size  : Nat
  /-- PSIZE of R389: 0 is 128 KiB, 1 is 2 MiB, 2 is 1 GiB -/
  psize : Nat
  sgid  : Option Nat
  /-- the permission ceiling of each plane, two bits each (R389) -/
  ceil  : BitVec 32
  /-- its first position, the same on every member of the step group; else the service chooses it (R443) -/
  lo    : Option Nat := none
  /-- page by page, the owning package and its ASID for the region; the last entry stands for the pages after it, and none for
  pages of this package (R389, R443) -/
  owners : List (Nat × Nat) := []
deriving DecidableEq, Repr

/-- What a PLANE request asks (R374). -/
inductive PlaneAction where
  | descriptor (d : Word)
  | pageOut (page : Nat)
  | pageIn (page : Nat)
  | quotas (plane pin : Nat)
deriving DecidableEq, Repr

/-- What a QUERY request names (R374). -/
inductive QueryKey where
  | launch (n : Nat)
  | trigger (i : Nat)
deriving DecidableEq, Repr

/-- The body of a trigger entry (R382). -/
structure TriggerReq where
  value : Word
  mask  : Word
  job   : Nat
  ports : BitVec 8
  cnt   : Nat
  argf  : Bool
  ringBase  : Word
  ringCount : Nat
  ringSize  : Nat
deriving DecidableEq, Repr

/-- The body of an HCONF request for one shard (R386). -/
structure HconfReq where
  shard : Nat
  aging : Nat
  /-- (queue, QUOTA, PAUSE) -/
  queues : List (Nat × Nat × Bool)
deriving DecidableEq, Repr

/-- What the boot ROM finds (R369 to R372): each copy of boot flash, and the PUF's answer. -/
structure BootInput where
  /-- the band TBAND reads at power-up: 0 C, 1 K, 2 T, 3 W -/
  band    : Nat
  /-- the identity secret that the fuzzy extractor recovers; none where it recovers none -/
  puf     : Option (BitVec 256)
  /-- cores whose repair or spare-row map cannot be applied -/
  unmappable : List Nat
  /-- this package's number, and the packages of the pod -/
  pkg     : Nat := 0
  pod     : Nat := 1
  /-- MiB of HBM that the Heresh service reserves for the record ring (R436) -/
  ringMiB : Nat := 64
deriving DecidableEq, Repr

/-- What a retest finds: rows of cores, and SRAM and HBM row repair entries (R442). -/
structure RetestMaps where
  rows   : List (Nat × List Nat)
  repair : List Byte := []
deriving DecidableEq, Repr

/-- What an uncontrolled upset hits (R408). -/
inductive Upset where
  | reg (cid code bit : Nat)
  | residue (cid code bit : Nat)
  | acc (cid : Nat) (tileY : Bool) (row bit : Nat)
  | spad (core row : Nat) (bit : Nat) (double : Bool)
  /-- an 8-byte word of a control-word entry -/
  | cwt (cid entry word : Nat) (double : Bool)
  | chan (core ch : Nat) (double : Bool)
  /-- the tidepool entry of a step group's k-th buffered write -/
  | tide (sgid k : Nat)
  | hbm (addr bit : Nat)
  | tag (sector colour : Nat)
  | misdirected (sector : Nat)
deriving DecidableEq, Repr

/-- The three copies that boot flash keeps two of (R370). -/
inductive FlashItem where
  | record | image | microcode
deriving DecidableEq, Repr

/-- One constructor for each row of the opcode table, in its order. -/
inductive Instr where
  -- parcel units (R9, R173, R174)
  | issue (prefixes : List (BitVec 14)) (index : BitVec 9) (imm : BitVec 5)
  | lbeg (k : BitVec 3)
  | lend (k : BitVec 3)
  | halt
  | nops (n : BitVec 10)
  | isync
  | bswap (k : BitVec 3)
  -- S-map (R198)
  | nop (o : Fields)
  | add (o : Fields) | sub (o : Fields) | mul (o : Fields) | mulh (o : Fields) | mulhu (o : Fields)
  | div (o : Fields) | divu (o : Fields) | rem (o : Fields) | remu (o : Fields)
  | and (o : Fields) | or (o : Fields) | xor (o : Fields)
  | shl (o : Fields) | shr (o : Fields) | sra (o : Fields) | rol (o : Fields) | ror (o : Fields)
  | min (o : Fields) | max (o : Fields) | minu (o : Fields) | maxu (o : Fields)
  | clz (o : Fields) | ctz (o : Fields) | popc (o : Fields)
  | cmp (o : Fields) | sel (o : Fields) | ldi (o : Fields) | sext (o : Fields) | zext (o : Fields)
  | aplane (o : Fields)
  | xput (o : Fields) | yput (o : Fields) | xget (o : Fields) | yget (o : Fields)
  | bset (o : Fields) | jtab (o : Fields) | call (o : Fields) | ret (o : Fields)
  | lset (o : Fields) | lstr (o : Fields)
  | cmpt (o : Fields) | cmptP (o : Fields) | cmptV (o : Fields)
  | trap (o : Fields) | brk (o : Fields) | rfe (o : Fields)
  | mtk (o : Fields) | mtkQsoft (o : Fields) | mtkQstat (o : Fields) | mtkRmode (o : Fields)
  | mtkMdepth (o : Fields) | mtkDbgctl (o : Fields) | mfk (o : Fields)
  | ld (o : Fields) | ldu (o : Fields) | st (o : Fields) | stq (o : Fields)
  | vld (o : Fields) | vst (o : Fields) | vgth (o : Fields) | vsct (o : Fields)
  | vldg (o : Fields) | vstg (o : Fields) | vstxM (o : Fields)
  | atomAdd (o : Fields) | atomAnd (o : Fields) | atomOr (o : Fields) | atomXor (o : Fields)
  | atomMin (o : Fields) | atomMax (o : Fields) | atomMinu (o : Fields) | atomMaxu (o : Fields)
  | atomSwap (o : Fields) | atomCas (o : Fields)
  | vote (o : Fields) | wait (o : Fields)
  | fence (o : Fields) | drain (o : Fields) | slack (o : Fields) | rdv (o : Fields)
  | errinj (o : Fields)
  -- V-map (R199)
  | vadd (o : Fields) | vsub (o : Fields) | vmul (o : Fields)
  | vfma (o : Fields) | vfms (o : Fields) | vfnma (o : Fields) | vfnms (o : Fields)
  | vmin (o : Fields) | vmax (o : Fields) | vabs (o : Fields) | vneg (o : Fields)
  | vcopysign (o : Fields) | vand (o : Fields) | vor (o : Fields) | vxor (o : Fields)
  | vshl (o : Fields) | vshr (o : Fields) | vsra (o : Fields)
  | vsel (o : Fields) | vcmp (o : Fields)
  | pand (o : Fields) | por (o : Fields) | pxor (o : Fields) | pnot (o : Fields)
  | pany (o : Fields) | pall (o : Fields)
  | vrsum (o : Fields) | vrmax (o : Fields) | vrmin (o : Fields)
  | vperm (o : Fields) | vrot (o : Fields) | vrotI (o : Fields) | vrotL (o : Fields)
  | vbcast (o : Fields) | vbcastI (o : Fields) | vbcastL (o : Fields) | vxfer (o : Fields)
  | vrcp (o : Fields) | vrsqrt (o : Fields) | vexp2 (o : Fields) | vlog2 (o : Fields)
  /-- `mode` is the low three bits of the opcode, 0 to 5 (R294). -/
  | vcvt (mode : BitVec 3) (o : Fields)
  | vcvtSat (mode : BitVec 3) (o : Fields)
  | vmxq (mode : BitVec 3) (o : Fields)
  | vmxd (mode : BitVec 3) (o : Fields)
  | vtype (o : Fields)
  /-- `cond` is the low two bits of the opcode: 0 lt, 1 le, 2 gt, 3 ge (R303). -/
  | qcmp (cond : BitVec 2) (o : Fields)
  | qand (o : Fields) | qor (o : Fields) | qnot (o : Fields) | qfromp (o : Fields)
  | qconst (o : Fields) | qconstL (o : Fields) | qlin (o : Fields)
  | qmov (o : Fields) | qmovCross (o : Fields) | qmovFromRow (o : Fields) | qmovToRow (o : Fields)
  /-- `k` is the q register, the low three bits of the opcode (R306). -/
  | vblendQ (k : BitVec 3) (o : Fields)
  | qcol (o : Fields) | qgcmp (o : Fields) | qgblend (o : Fields)
  -- M-map (R200)
  | mcall (o : Fields) | mcallM (o : Fields) | mset (o : Fields) | msetL (o : Fields)
  | mtile (o : Fields) | mstat (o : Fields) | mstatStatusClr (o : Fields) | mbound (o : Fields)
  -- C-map (R201)
  | cpin (o : Fields) | cpout (o : Fields) | cpacc (o : Fields) | cpfill (o : Fields)
  | chpost (o : Fields) | chsnd (o : Fields)
  | cpinReg (o : Fields) | cpoutReg (o : Fields) | cpaccReg (o : Fields) | cpfillReg (o : Fields)
  | chpostReg (o : Fields) | chsndReg (o : Fields)
  | chq (o : Fields) | chqLatch (o : Fields)
  | plnew (o : Fields) | pldel (o : Fields) | plprot (o : Fields) | plq (o : Fields) | plpin (o : Fields)
  | post (o : Fields) | tend (o : Fields) | targ (o : Fields)
  | cwtw (o : Fields) | cwtr (o : Fields) | ifence (o : Fields)
  -- micro-ops (R204, R317)
  | wld (wslot wfc sslot : BitVec 8) (srow : BitVec 7) (cks : Bool) (expswz : BitVec 8)
  | act (aslot afc : BitVec 8) (acc fresh : Bool) (row0 nr srow0 : BitVec 7) (ix : BitVec 2)
      (scslot expswz : BitVec 8)
  | drn (src : Bool) (dkind : BitVec 2) (dacc : Bool) (dslot dfc : BitVec 8) (mode : BitVec 3)
      (sat : Bool) (amax : BitVec 2) (row0 nr : BitVec 7) (ix : BitVec 2)
  | cks (write cacc : Bool) (crow : BitVec 7) (racc : Bool) (rrow : BitVec 7)
  | mlp (count : BitVec 16) (mreg : BitVec 3)
  | mnd
  | midx (ireg op : BitVec 2) (val : BitVec 16) (mreg : BitVec 3)
  | msel (k : BitVec 3) (src : Bool) (val : BitVec 8)
  | mnop
  -- events of the engines and the memory system
  | routineStart (core : Nat)
  | actRowLands (core : Nat)
  | mdepthExpiry (core : Nat)
  | fixedResultLands (cid : Nat)
  /-- `remote` carries the bytes a remote package answered, for a remote load (R88). -/
  | loadDataReturn (id : Nat) (remote : List Byte)
  | jtabHeaderReturn (id : Nat)
  | jtabEntryReturn (id : Nat)
  | sfuResult (core : Nat)
  | mstatSample (id : Nat)
  | hubCounterArrives (id : Nat)
  | storePerformsGrp (id : Nat)
  | storePerformsPkg (id : Nat)
  | waitReread (cid : Nat)
  | taskComplete (cid : Nat)
  | remoteDecrement (node : Nat) (skip : Bool)
  /-- `place` is a context number 4·core+context for a CODE node, a core for a COPY node. -/
  | dispatch (node place : Nat)
  | egressSample
  | preempt (node : Nat)
  | contextSaved (cid : Nat)
  | restoreComplete (node cid : Nat) (hbmGood flashGood : Bool)
  | watchdogExpiry (cid : Nat)
  | imageToFlash (node : Nat)
  | imageFromFlash (node : Nat)
  | copyStart (core : Nat)
  | copyRow (core : Nat)
  | copyNodeFinish (node : Nat)
  | eventNodeSend (node : Nat)
  | cwtwComplete (cid : Nat)
  | chsndDeliver (core pos : Nat)
  | postAccepted (id : Nat)
  | pseWalkComplete (cache : CacheId) (asid page : Nat)
  | invalidateAck (inv : Nat) (cache : CacheId)
  | pageInComplete (key : PageKey) (readGood : Bool)
  | pageOutComplete (key : PageKey)
  -- supersteps
  | arrivalRecord (sgid pkg : Nat) (vote : Half) (counts : List (Nat × Nat))
  | stepDecision (sgid : Nat) (rvote : Half) (excluded : List Nat) (skew : Bool)
  | deferredWriteArrives (w : DWrite)
  | stepApply (sgid : Nat)
  | applyReport (sgid pkg : Nat) (overflow : Bool)
  | stepCommit (sgid : Nat) (overflow : Bool)
  | skewExpiry (sgid : Nat)
  | packageSealed (sgid : Nat)
  -- triggers and Heresh requests
  | triggerMessage (m : Message)
  | load (h : ReqHead) (image : Signed)
  | unload (h : ReqHead) (handle : Nat)
  | region (h : ReqHead) (r : RegionReq)
  | plane (h : ReqHead) (region plane : Nat) (a : PlaneAction)
  | launch (h : ReqHead) (handle : Nat) (record : List Byte)
  | arm (h : ReqHead) (t : TriggerReq) (handle : Nat) (record : List Byte)
  | disarm (h : ReqHead) (index : Nat)
  | treset (h : ReqHead)
  | hconf (h : ReqHead) (c : HconfReq)
  | query (h : ReqHead) (k : QueryKey)
  | attest (h : ReqHead) (challenge : List Byte)
  | errbankW1c (unit : Nat) (mask : Word)
  -- power, cold operation and the fleet
  | powerUp (b : BootInput)
  | powerLoss
  | recoveryImageWrite (item : FlashItem) (copyB : Bool) (image : Signed)
  | identityRederive (puf : Option (BitVec 256))
  | cooldownRequest (levelOk : Bool)
  | warmupRequest
  /-- the reading of each of the 100 sensors in quarter kelvin, `none` for one that did not answer. -/
  | sensorSample (readings : List (Option Nat))
  | bandFall
  | clockPauseEnd
  | hbmTimingHoldEnd
  | refreshCommand (stack : Nat)
  | patrolScrubRow (stack row : Nat)
  | rateJudge (readings : List (Option Nat))
  | soakComplete
  | arraySelfTestDone (failing : List Nat)
  | parkingComplete
  | telemetryFrame (pwr vbus level pres : Half)
  | replayArm (sgid : Nat) (winners : List (Nat × Word × Nat)) (exclusions : List (Nat × List Nat))
  | drainRow (core : Nat)
  | microOpComplete (core : Nat)
  | pageOut (key : PageKey)
  | transientUpset (u : Upset)
  | bootFlashUpdate (item : FlashItem) (image : Signed)
  | repairMapRetest (maps : RetestMaps)
  | asidGrant (asid job : Nat) (loadKey : BitVec 20736) (planeQuota pinQuota : Nat) (debug : Bool)
  | asidFree (asid : Nat)
deriving DecidableEq, Repr

end Sys2Proof
end

