-- ==== Sys2Proof/WellFormed.lean ====
section
/-! DEFINITION. Which terms of `Instr` stand for words of the stream, of a control word or of the micro-op
store: the side conditions under which decoding gives back what was encoded. -/

namespace Sys2Proof

/-- The slot fields of a slot operation; none for every other row. -/
def Instr.fields? (i : Instr) : Option Fields :=
  match i with
  | .nop o => some o
  | .add o => some o
  | .sub o => some o
  | .mul o => some o
  | .mulh o => some o
  | .mulhu o => some o
  | .div o => some o
  | .divu o => some o
  | .rem o => some o
  | .remu o => some o
  | .and o => some o
  | .or o => some o
  | .xor o => some o
  | .shl o => some o
  | .shr o => some o
  | .sra o => some o
  | .rol o => some o
  | .ror o => some o
  | .min o => some o
  | .max o => some o
  | .minu o => some o
  | .maxu o => some o
  | .cmp o => some o
  | .sel o => some o
  | .ldi o => some o
  | .xput o => some o
  | .yput o => some o
  | .xget o => some o
  | .yget o => some o
  | .bset o => some o
  | .jtab o => some o
  | .lset o => some o
  | .lstr o => some o
  | .ld o => some o
  | .ldu o => some o
  | .st o => some o
  | .stq o => some o
  | .vld o => some o
  | .vst o => some o
  | .vldg o => some o
  | .vstg o => some o
  | .vstxM o => some o
  | .atomAdd o => some o
  | .atomAnd o => some o
  | .atomOr o => some o
  | .atomXor o => some o
  | .atomMin o => some o
  | .atomMax o => some o
  | .atomMinu o => some o
  | .atomMaxu o => some o
  | .atomSwap o => some o
  | .atomCas o => some o
  | .vote o => some o
  | .wait o => some o
  | .clz o => some o
  | .ctz o => some o
  | .popc o => some o
  | .call o => some o
  | .ret o => some o
  | .rfe o => some o
  | .vgth o => some o
  | .vsct o => some o
  | .aplane o => some o
  | .sext o => some o
  | .zext o => some o
  | .mfk o => some o
  | .brk o => some o
  | .trap o => some o
  | .errinj o => some o
  | .mtk o => some o
  | .mtkQsoft o => some o
  | .mtkQstat o => some o
  | .mtkRmode o => some o
  | .mtkMdepth o => some o
  | .mtkDbgctl o => some o
  | .cmpt o => some o
  | .cmptP o => some o
  | .cmptV o => some o
  | .fence o => some o
  | .drain o => some o
  | .slack o => some o
  | .rdv o => some o
  | .vadd o => some o
  | .vsub o => some o
  | .vmul o => some o
  | .vfma o => some o
  | .vfms o => some o
  | .vfnma o => some o
  | .vfnms o => some o
  | .vmin o => some o
  | .vmax o => some o
  | .vabs o => some o
  | .vneg o => some o
  | .vcopysign o => some o
  | .vand o => some o
  | .vor o => some o
  | .vxor o => some o
  | .vsel o => some o
  | .vcmp o => some o
  | .pand o => some o
  | .por o => some o
  | .pxor o => some o
  | .pnot o => some o
  | .vrsum o => some o
  | .vrmax o => some o
  | .vrmin o => some o
  | .vperm o => some o
  | .vrot o => some o
  | .vbcast o => some o
  | .vxfer o => some o
  | .vrcp o => some o
  | .vrsqrt o => some o
  | .vexp2 o => some o
  | .vlog2 o => some o
  | .pany o => some o
  | .pall o => some o
  | .qand o => some o
  | .qor o => some o
  | .qnot o => some o
  | .qfromp o => some o
  | .qcol o => some o
  | .qgcmp o => some o
  | .qgblend o => some o
  | .qmovFromRow o => some o
  | .qmovToRow o => some o
  | .vrotI o => some o
  | .vbcastI o => some o
  | .qconst o => some o
  | .vtype o => some o
  | .qlin o => some o
  | .vrotL o => some o
  | .vbcastL o => some o
  | .qconstL o => some o
  | .vshl o => some o
  | .vshr o => some o
  | .vsra o => some o
  | .qmov o => some o
  | .qmovCross o => some o
  | .mcall o => some o
  | .mset o => some o
  | .msetL o => some o
  | .mtile o => some o
  | .mbound o => some o
  | .mcallM o => some o
  | .mstat o => some o
  | .mstatStatusClr o => some o
  | .cpin o => some o
  | .cpout o => some o
  | .cpacc o => some o
  | .cpfill o => some o
  | .chpost o => some o
  | .chsnd o => some o
  | .plnew o => some o
  | .pldel o => some o
  | .plprot o => some o
  | .plq o => some o
  | .plpin o => some o
  | .post o => some o
  | .tend o => some o
  | .targ o => some o
  | .cwtw o => some o
  | .cwtr o => some o
  | .ifence o => some o
  | .cpinReg o => some o
  | .cpoutReg o => some o
  | .cpaccReg o => some o
  | .cpfillReg o => some o
  | .chpostReg o => some o
  | .chsndReg o => some o
  | .chq o => some o
  | .chqLatch o => some o
  | .vcvt _ o => some o
  | .vcvtSat _ o => some o
  | .vmxq _ o => some o
  | .vmxd _ o => some o
  | .qcmp _ o => some o
  | .vblendQ _ o => some o
  | _ => none

/-- The short field {BTB, SRCB} (R193). -/
def Fields.short (o : Fields) : BitVec 8 := BitVec.ofBool o.btb ++ o.srcb

/-- A scalar slot, with a short-immediate twin allowed or not (R198, R202). -/
def Fields.inS (o : Fields) (twins : Bool) : Bool :=
  (o.slot == .sx || o.slot == .sy) && (twins || !o.twin)

/-- A vector slot (R199, R202). -/
def Fields.inV (o : Fields) (twins : Bool) : Bool :=
  (o.slot == .vx || o.slot == .vy) && (twins || !o.twin)

/-- The matrix slot (R200). -/
def Fields.inM (o : Fields) : Bool := o.slot == .mx && !o.twin

/-- The copy slot (R201). -/
def Fields.inC (o : Fields) : Bool := o.slot == .cp && !o.twin

/-- The k-space indices that have a row of their own for `mtk`. -/
def ownMtkRow (k : BitVec 8) : Bool :=
  k == 0x08 || k == 0x0A || k == 0x01 || k == 0x30 || k == 0xD0

/-- A format of the MX class (R110). -/
def mxFormat (fc : BitVec 8) : Bool := fc == 0x06 || fc == 0x07 || fc == 0x08

/-- A slot operand that may be loaded (R316). -/
def slotOperand (so : BitVec 8) : Bool := so.toNat ≤ 191 || 0xF8 ≤ so.toNat

/-- A slot operand, or none (R316). -/
def slotOperandOrNone (so : BitVec 8) : Bool := so == 0xF0 || slotOperand so

/-- The micro-op passes the loader's checks on its own fields (R317). The loop nesting is checked over the
whole routine. -/
def Instr.uopLoadable (i : Instr) : Bool :=
  match i with
  | .wld ws fc ss _ _ _ => slotOperand ws && (if mxFormat fc then slotOperand ss else ss == 0xF0)
  | .act as fc _ _ _ _ _ _ sc _ => slotOperand as && (if mxFormat fc then slotOperand sc else sc == 0xF0)
  | .drn _ dk _ ds _ mode _ amax _ _ _ =>
    (if dk == 0 then ds == 0xF0 else slotOperandOrNone ds) && dk.toNat < 2 && mode != 5 && mode != 6 && amax != 3
  | .cks .. => true
  | .mlp .. => true
  | .mnd => true
  | .midx ireg op _ _ => ireg != 0 && op != 3
  | .msel .. => true
  | .mnop => true
  | _ => false

/-- `i` is a form the encodings have. Rows without an encoding (events and requests) are all well-formed. -/
def Instr.wellFormed (i : Instr) : Bool :=
  match i with
  | .issue pre _ _ => decide (pre.length ≤ 5)
  | .lbeg k => 1 ≤ k.toNat && k.toNat ≤ 6
  | .lend k => 1 ≤ k.toNat && k.toNat ≤ 6
  | .nop o => !o.twin
  | .add o => o.inS true
  | .sub o => o.inS true
  | .mul o => o.inS true
  | .mulh o => o.inS true
  | .mulhu o => o.inS true
  | .div o => o.inS true
  | .divu o => o.inS true
  | .rem o => o.inS true
  | .remu o => o.inS true
  | .and o => o.inS true
  | .or o => o.inS true
  | .xor o => o.inS true
  | .shl o => o.inS true
  | .shr o => o.inS true
  | .sra o => o.inS true
  | .rol o => o.inS true
  | .ror o => o.inS true
  | .min o => o.inS true
  | .max o => o.inS true
  | .minu o => o.inS true
  | .maxu o => o.inS true
  | .cmp o => o.inS true
  | .sel o => o.inS true
  | .ldi o => o.inS true
  | .xput o => o.inS true
  | .yput o => o.inS true
  | .xget o => o.inS true
  | .yget o => o.inS true
  | .bset o => o.inS true
  | .jtab o => o.inS true
  | .lset o => o.inS true
  | .lstr o => o.inS true
  | .ld o => o.inS true
  | .ldu o => o.inS true
  | .st o => o.inS true
  | .stq o => o.inS true
  | .vld o => o.inS true
  | .vst o => o.inS true
  | .vldg o => o.inS true
  | .vstg o => o.inS true
  | .vstxM o => o.inS true
  | .atomAdd o => o.inS true
  | .atomAnd o => o.inS true
  | .atomOr o => o.inS true
  | .atomXor o => o.inS true
  | .atomMin o => o.inS true
  | .atomMax o => o.inS true
  | .atomMinu o => o.inS true
  | .atomMaxu o => o.inS true
  | .atomSwap o => o.inS true
  | .atomCas o => o.inS true
  | .vote o => o.inS true
  | .wait o => o.inS true
  | .clz o => o.inS false
  | .ctz o => o.inS false
  | .popc o => o.inS false
  | .call o => o.inS false
  | .ret o => o.inS false
  | .rfe o => o.inS false
  | .vgth o => o.inS false
  | .vsct o => o.inS false
  | .aplane o => o.inS false
  | .sext o => o.inS false
  | .zext o => o.inS false
  | .mfk o => o.inS false
  | .brk o => o.inS false
  | .trap o => o.inS false
  | .errinj o => o.inS false
  | .mtk o => o.inS false && !ownMtkRow o.short
  | .mtkQsoft o => o.inS false && o.short == 0x08
  | .mtkQstat o => o.inS false && o.short == 0x0A
  | .mtkRmode o => o.inS false && o.short == 0x01
  | .mtkMdepth o => o.inS false && o.short == 0x30
  | .mtkDbgctl o => o.inS false && o.short == 0xD0
  | .cmpt o => o.inS true && (o.twin || o.dst.toNat / 16 < 6)
  | .cmptP o => o.inS false && o.dst.toNat / 16 == 6
  | .cmptV o => o.inS false && o.dst.toNat / 16 == 7
  | .fence o => o.inS true && decide (o.dst.toNat ≤ 4)
  | .drain o => o.inS true && o.dst == 5
  | .slack o => o.inS true && o.dst == 6
  | .rdv o => o.inS true && o.dst == 7
  | .vadd o => o.inV false
  | .vsub o => o.inV false
  | .vmul o => o.inV false
  | .vfma o => o.inV false
  | .vfms o => o.inV false
  | .vfnma o => o.inV false
  | .vfnms o => o.inV false
  | .vmin o => o.inV false
  | .vmax o => o.inV false
  | .vabs o => o.inV false
  | .vneg o => o.inV false
  | .vcopysign o => o.inV false
  | .vand o => o.inV false
  | .vor o => o.inV false
  | .vxor o => o.inV false
  | .vsel o => o.inV false
  | .vcmp o => o.inV false
  | .pand o => o.inV false
  | .por o => o.inV false
  | .pxor o => o.inV false
  | .pnot o => o.inV false
  | .vrsum o => o.inV false
  | .vrmax o => o.inV false
  | .vrmin o => o.inV false
  | .vperm o => o.inV false
  | .vrot o => o.inV false
  | .vbcast o => o.inV false
  | .vxfer o => o.inV false
  | .vrcp o => o.inV false
  | .vrsqrt o => o.inV false
  | .vexp2 o => o.inV false
  | .vlog2 o => o.inV false
  | .pany o => o.inV false
  | .pall o => o.inV false
  | .qand o => o.inV false
  | .qor o => o.inV false
  | .qnot o => o.inV false
  | .qfromp o => o.inV false
  | .qcol o => o.inV false
  | .qgcmp o => o.inV false
  | .qgblend o => o.inV false
  | .qmovFromRow o => o.inV false
  | .qmovToRow o => o.inV false
  | .vrotI o => o.inV false
  | .vbcastI o => o.inV false
  | .qconst o => o.inV false
  | .vtype o => o.inV false
  | .qlin o => o.inV false
  | .vrotL o => o.inV false
  | .vbcastL o => o.inV false
  | .qconstL o => o.inV false
  | .vshl o => o.inV true
  | .vshr o => o.inV true
  | .vsra o => o.inV true
  | .qmov o => o.inV false && !o.dst.getLsbD 3
  | .qmovCross o => o.inV false && o.dst.getLsbD 3
  | .qcmp _ o => o.inV false
  | .vblendQ _ o => o.inV false
  | .vcvt m o => o.inV false && decide (m.toNat < 6)
  | .vcvtSat m o => o.inV false && decide (m.toNat < 6)
  | .vmxq m o => o.inV false && decide (m.toNat < 6)
  | .vmxd m o => o.inV false && decide (m.toNat < 6)
  | .mcall o => o.inM
  | .mset o => o.inM
  | .msetL o => o.inM
  | .mtile o => o.inM
  | .mbound o => o.inM
  | .mcallM o => o.inM
  | .mstat o => o.inM && o.short != 0x40
  | .mstatStatusClr o => o.inM && o.short == 0x40
  | .cpin o => o.inC
  | .cpout o => o.inC
  | .cpacc o => o.inC
  | .cpfill o => o.inC
  | .chpost o => o.inC
  | .chsnd o => o.inC
  | .plnew o => o.inC
  | .pldel o => o.inC
  | .plprot o => o.inC
  | .plq o => o.inC
  | .plpin o => o.inC
  | .post o => o.inC
  | .tend o => o.inC
  | .targ o => o.inC
  | .cwtw o => o.inC
  | .cwtr o => o.inC
  | .ifence o => o.inC
  | .cpinReg o => o.inC
  | .cpoutReg o => o.inC
  | .cpaccReg o => o.inC
  | .cpfillReg o => o.inC
  | .chpostReg o => o.inC
  | .chsndReg o => o.inC
  | .chq o => o.inC && o.short.toNat / 8 != 1
  | .chqLatch o => o.inC && o.short.toNat / 8 == 1
  | _ => true

end Sys2Proof
end

