-- ==== Sys2Proof/Decode.lean ====
section
/-! DEFINITION. Decoding and encoding: units of the parcel stream (R9, R173, R174), slots of a control word
(R192 to R201) and micro-ops (R204, R317). Decoding is total and answers none for what the spec reserves. -/

namespace Sys2Proof

/-! ### Bit-field helpers -/

/-- Bits [lo + len - 1 : lo] of a number. -/
def field (v lo len : Nat) : Nat := v / 2 ^ lo % 2 ^ len

/-- Bit k of a number. -/
def bitAt (v k : Nat) : Bool := v / 2 ^ k % 2 == 1

/-- A number from little-endian bytes (R2). -/
def leNat (bs : List Byte) : Nat := bs.foldr (fun b acc => b.toNat + 256 * acc) 0

/-- The n little-endian bytes of a number (R2). -/
def leBytes (n v : Nat) : List Byte :=
  match n with
  | 0 => []
  | k + 1 => BitVec.ofNat 8 v :: leBytes k (v / 256)

/-- The two's-complement reading of the low w bits of a number. -/
def signedOf (w v : Nat) : Int :=
  let u := v % 2 ^ w
  if 2 ^ w ≤ 2 * u then (u : Int) - (2 ^ w : Nat) else u

/-- The 64-bit word of an integer. -/
def wordOfInt (x : Int) : Word := BitVec.ofInt 64 x

/-! ### Units of the parcel stream -/

/-- The unit at the head of a parcel list, behind the PREFIX payloads read so far, and the parcels that
follow it. None is the illegal-parcel trap of R173: a PREFIX run of six (R10), a PREFIX before a LOOP or SYS
parcel, a level code 0 or 7, a set reserved bit, a reserved SYS function; or the list ends inside the unit. -/
def decodeUnitFrom (pre : List (BitVec 14)) (ps : List Parcel) : Option (Instr × List Parcel) :=
  match ps with
  | [] => none
  | p :: rest =>
    let kind := p.extractLsb' 14 2
    if kind = 3 then some (.issue pre (p.extractLsb' 5 9) (p.extractLsb' 0 5), rest)
    else if kind = 2 then
      if pre.length < 5 then decodeUnitFrom (pre ++ [p.extractLsb' 0 14]) rest else none
    else if pre.isEmpty then
      if kind = 1 then
        let k := p.extractLsb' 10 3
        if k = 0 || k = 7 || p.extractLsb' 0 10 != 0 then none
        else if p.getLsbD 13 then some (.lend k, rest) else some (.lbeg k, rest)
      else
        let f := p.extractLsb' 10 4
        let operand := p.extractLsb' 0 10
        if f = 0 then (if operand = 0 then some (.halt, rest) else none)
        else if f = 1 then some (.nops operand, rest)
        else if f = 2 then (if operand = 0 then some (.isync, rest) else none)
        else if f = 3 then
          (if p.extractLsb' 3 7 = 0 then some (.bswap (p.extractLsb' 0 3), rest) else none)
        else none
    else none

/-- The unit at the head of a parcel list, and the parcels that follow it. -/
def decodeUnit (ps : List Parcel) : Option (Instr × List Parcel) := decodeUnitFrom [] ps

/-- The parcel of a PREFIX payload (R9). -/
def prefixParcel (x : BitVec 14) : Parcel := (2#2 ++ x : BitVec (2 + 14))

/-- The parcels of a unit (R9, R174); none for a row that is no unit. -/
def encodeUnit (i : Instr) : Option (List Parcel) :=
  match i with
  | .issue pre index imm => some (pre.map prefixParcel ++ [(3#2 ++ index ++ imm : BitVec (2 + 9 + 5))])
  | .lbeg k => some [(2#3 ++ k ++ 0#10 : BitVec (3 + 3 + 10))]
  | .lend k => some [(3#3 ++ k ++ 0#10 : BitVec (3 + 3 + 10))]
  | .halt => some [0#16]
  | .nops n => some [(1#6 ++ n : BitVec (6 + 10))]
  | .isync => some [0x0800#16]
  | .bswap k => some [(0x180#13 ++ k : BitVec (13 + 3))]
  | _ => none

/-- The parcels that a number holds, the first in its lowest bits. -/
def parcelsOf (n w : Nat) : List Parcel :=
  match n with
  | 0 => []
  | k + 1 => BitVec.ofNat 16 w :: parcelsOf k (w / 65536)

/-- The instruction read from the bits of a table word, which are the parcels of a unit with zeros behind
(the longest unit has six parcels). -/
def decodeTableWord (nbits w : Nat) : Option Instr :=
  (decodeUnit (parcelsOf 6 (w % 2 ^ nbits))).map (·.1)

/-! ### Slots of a control word -/

/-- The fields of a slot word other than its opcode (R192). -/
def unpackFields (slot : SlotId) (w : SlotWord) : Fields where
  slot := slot
  lmask := w.extractLsb' 23 5
  dst := w.extractLsb' 16 7
  srca := w.extractLsb' 9 7
  srcb := w.extractLsb' 2 7
  bta := w.getLsbD 1
  btb := w.getLsbD 0
  twin := false

/-- The opcode of a slot word (R192). -/
def slotOpcode (w : SlotWord) : Nat := (w.extractLsb' 28 7).toNat

/-- The slot word of an opcode and fields (R192). -/
def packSlot (opc : BitVec 7) (o : Fields) : SlotWord :=
  (opc ++ o.lmask ++ o.dst ++ o.srca ++ o.srcb ++ BitVec.ofBool o.bta ++ BitVec.ofBool o.btb :
    BitVec (7 + 5 + 7 + 7 + 7 + 1 + 1))

/-- The rows of `mtk`, by the k-space index in the short field (R235). -/
def decodeMtk (o : Fields) : Instr :=
  if o.short = 0x08 then .mtkQsoft o else if o.short = 0x0A then .mtkQstat o
  else if o.short = 0x01 then .mtkRmode o else if o.short = 0x30 then .mtkMdepth o
  else if o.short = 0xD0 then .mtkDbgctl o else .mtk o

/-- The rows of `cmpt`, by DST[6:4] (R231). -/
def decodeCmpt (o : Fields) : Instr :=
  if o.dst.toNat / 16 = 6 then .cmptP o else if o.dst.toNat / 16 = 7 then .cmptV o else .cmpt o

/-- The rows of `sync`, by DST (R198); 8 to 127 are reserved. -/
def decodeSync (o : Fields) : Option Instr :=
  if o.dst.toNat ≤ 4 then some (.fence o) else if o.dst = 5 then some (.drain o)
  else if o.dst = 6 then some (.slack o) else if o.dst = 7 then some (.rdv o) else none

/-- The fields of a short-immediate twin. -/
def Fields.asTwin (o : Fields) : Fields := { o with twin := true }

/-- The S-map (R198). -/
def decodeS (opc : Nat) (o : Fields) : Option Instr :=
  match opc with
  | 0x00 => some (.nop o)
  | 0x01 => some (.add o)
  | 0x02 => some (.sub o)
  | 0x03 => some (.mul o)
  | 0x04 => some (.mulh o)
  | 0x05 => some (.mulhu o)
  | 0x06 => some (.div o)
  | 0x07 => some (.divu o)
  | 0x08 => some (.rem o)
  | 0x09 => some (.remu o)
  | 0x0A => some (.and o)
  | 0x0B => some (.or o)
  | 0x0C => some (.xor o)
  | 0x0D => some (.shl o)
  | 0x0E => some (.shr o)
  | 0x0F => some (.sra o)
  | 0x10 => some (.rol o)
  | 0x11 => some (.ror o)
  | 0x12 => some (.min o)
  | 0x13 => some (.max o)
  | 0x14 => some (.minu o)
  | 0x15 => some (.maxu o)
  | 0x16 => some (.cmp o)
  | 0x17 => some (.sel o)
  | 0x18 => some (.ldi o)
  | 0x19 => some (.xput o)
  | 0x1A => some (.yput o)
  | 0x1B => some (.xget o)
  | 0x1C => some (.yget o)
  | 0x1D => some (.bset o)
  | 0x1E => some (.jtab o)
  | 0x1F => some (decodeCmpt o)
  | 0x20 => some (.lset o)
  | 0x21 => some (.lstr o)
  | 0x22 => some (.ld o)
  | 0x23 => some (.ldu o)
  | 0x24 => some (.st o)
  | 0x25 => some (.stq o)
  | 0x26 => some (.vld o)
  | 0x27 => some (.vst o)
  | 0x28 => some (.vldg o)
  | 0x29 => some (.vstg o)
  | 0x2A => some (.vstxM o)
  | 0x2B => some (.atomAdd o)
  | 0x2C => some (.atomAnd o)
  | 0x2D => some (.atomOr o)
  | 0x2E => some (.atomXor o)
  | 0x2F => some (.atomMin o)
  | 0x30 => some (.atomMax o)
  | 0x31 => some (.atomMinu o)
  | 0x32 => some (.atomMaxu o)
  | 0x33 => some (.atomSwap o)
  | 0x34 => some (.atomCas o)
  | 0x35 => some (.vote o)
  | 0x36 => some (.wait o)
  | 0x37 => some (.clz o)
  | 0x38 => some (.ctz o)
  | 0x39 => some (.popc o)
  | 0x3A => some (.call o)
  | 0x3B => some (.ret o)
  | 0x3C => some (.rfe o)
  | 0x3D => some (.vgth o)
  | 0x3E => some (.vsct o)
  | 0x3F => decodeSync o
  | 0x41 => some (.add o.asTwin)
  | 0x42 => some (.sub o.asTwin)
  | 0x43 => some (.mul o.asTwin)
  | 0x44 => some (.mulh o.asTwin)
  | 0x45 => some (.mulhu o.asTwin)
  | 0x46 => some (.div o.asTwin)
  | 0x47 => some (.divu o.asTwin)
  | 0x48 => some (.rem o.asTwin)
  | 0x49 => some (.remu o.asTwin)
  | 0x4A => some (.and o.asTwin)
  | 0x4B => some (.or o.asTwin)
  | 0x4C => some (.xor o.asTwin)
  | 0x4D => some (.shl o.asTwin)
  | 0x4E => some (.shr o.asTwin)
  | 0x4F => some (.sra o.asTwin)
  | 0x50 => some (.rol o.asTwin)
  | 0x51 => some (.ror o.asTwin)
  | 0x52 => some (.min o.asTwin)
  | 0x53 => some (.max o.asTwin)
  | 0x54 => some (.minu o.asTwin)
  | 0x55 => some (.maxu o.asTwin)
  | 0x56 => some (.cmp o.asTwin)
  | 0x57 => some (.sel o.asTwin)
  | 0x58 => some (.ldi o.asTwin)
  | 0x59 => some (.xput o.asTwin)
  | 0x5A => some (.yput o.asTwin)
  | 0x5B => some (.xget o.asTwin)
  | 0x5C => some (.yget o.asTwin)
  | 0x5D => some (.bset o.asTwin)
  | 0x5E => some (.jtab o.asTwin)
  | 0x5F => some (.cmpt o.asTwin)
  | 0x60 => some (.lset o.asTwin)
  | 0x61 => some (.lstr o.asTwin)
  | 0x62 => some (.ld o.asTwin)
  | 0x63 => some (.ldu o.asTwin)
  | 0x64 => some (.st o.asTwin)
  | 0x65 => some (.stq o.asTwin)
  | 0x66 => some (.vld o.asTwin)
  | 0x67 => some (.vst o.asTwin)
  | 0x68 => some (.vldg o.asTwin)
  | 0x69 => some (.vstg o.asTwin)
  | 0x6A => some (.vstxM o.asTwin)
  | 0x6B => some (.atomAdd o.asTwin)
  | 0x6C => some (.atomAnd o.asTwin)
  | 0x6D => some (.atomOr o.asTwin)
  | 0x6E => some (.atomXor o.asTwin)
  | 0x6F => some (.atomMin o.asTwin)
  | 0x70 => some (.atomMax o.asTwin)
  | 0x71 => some (.atomMinu o.asTwin)
  | 0x72 => some (.atomMaxu o.asTwin)
  | 0x73 => some (.atomSwap o.asTwin)
  | 0x74 => some (.atomCas o.asTwin)
  | 0x75 => some (.vote o.asTwin)
  | 0x76 => some (.wait o.asTwin)
  | 0x77 => some (.aplane o)
  | 0x78 => some (.sext o)
  | 0x79 => some (.zext o)
  | 0x7A => some (decodeMtk o)
  | 0x7B => some (.mfk o)
  | 0x7C => some (.brk o)
  | 0x7D => some (.trap o)
  | 0x7E => some (.errinj o)
  | 0x7F => decodeSync o.asTwin
  | _ => none

/-- The V-map (R199). -/
def decodeV (opc : Nat) (o : Fields) : Option Instr :=
  match opc with
  | 0x00 => some (.nop o)
  | 0x01 => some (.vadd o)
  | 0x02 => some (.vsub o)
  | 0x03 => some (.vmul o)
  | 0x04 => some (.vfma o)
  | 0x05 => some (.vfms o)
  | 0x06 => some (.vfnma o)
  | 0x07 => some (.vfnms o)
  | 0x08 => some (.vmin o)
  | 0x09 => some (.vmax o)
  | 0x0A => some (.vabs o)
  | 0x0B => some (.vneg o)
  | 0x0C => some (.vcopysign o)
  | 0x0D => some (.vand o)
  | 0x0E => some (.vor o)
  | 0x0F => some (.vxor o)
  | 0x10 => some (.vshl o)
  | 0x11 => some (.vshr o)
  | 0x12 => some (.vsra o)
  | 0x13 => some (.vsel o)
  | 0x14 => some (.vcmp o)
  | 0x15 => some (.pand o)
  | 0x16 => some (.por o)
  | 0x17 => some (.pxor o)
  | 0x18 => some (.pnot o)
  | 0x19 => some (.vrsum o)
  | 0x1A => some (.vrmax o)
  | 0x1B => some (.vrmin o)
  | 0x1C => some (.vperm o)
  | 0x1D => some (.vrot o)
  | 0x1E => some (.vbcast o)
  | 0x1F => some (.vxfer o)
  | 0x20 => some (.vrcp o)
  | 0x21 => some (.vrsqrt o)
  | 0x22 => some (.vexp2 o)
  | 0x23 => some (.vlog2 o)
  | 0x24 => some (.pany o)
  | 0x25 => some (.pall o)
  | 0x28 => some (.qcmp 0#2 o)
  | 0x29 => some (.qcmp 1#2 o)
  | 0x2A => some (.qcmp 2#2 o)
  | 0x2B => some (.qcmp 3#2 o)
  | 0x2C => some (.qand o)
  | 0x2D => some (.qor o)
  | 0x2E => some (.qnot o)
  | 0x2F => some (.qfromp o)
  | 0x30 => some (.qcol o)
  | 0x31 => some (.qgcmp o)
  | 0x32 => some (.qgblend o)
  | 0x33 => some (if o.dst.getLsbD 3 then .qmovCross o else .qmov o)
  | 0x34 => some (.qmovFromRow o)
  | 0x35 => some (.qmovToRow o)
  | 0x38 => some (.vblendQ 0#3 o)
  | 0x39 => some (.vblendQ 1#3 o)
  | 0x3A => some (.vblendQ 2#3 o)
  | 0x3B => some (.vblendQ 3#3 o)
  | 0x3C => some (.vblendQ 4#3 o)
  | 0x3D => some (.vblendQ 5#3 o)
  | 0x3E => some (.vblendQ 6#3 o)
  | 0x3F => some (.vblendQ 7#3 o)
  | 0x40 => some (.vcvt 0#3 o)
  | 0x41 => some (.vcvt 1#3 o)
  | 0x42 => some (.vcvt 2#3 o)
  | 0x43 => some (.vcvt 3#3 o)
  | 0x44 => some (.vcvt 4#3 o)
  | 0x45 => some (.vcvt 5#3 o)
  | 0x48 => some (.vcvtSat 0#3 o)
  | 0x49 => some (.vcvtSat 1#3 o)
  | 0x4A => some (.vcvtSat 2#3 o)
  | 0x4B => some (.vcvtSat 3#3 o)
  | 0x4C => some (.vcvtSat 4#3 o)
  | 0x4D => some (.vcvtSat 5#3 o)
  | 0x50 => some (.vmxq 0#3 o)
  | 0x51 => some (.vmxq 1#3 o)
  | 0x52 => some (.vmxq 2#3 o)
  | 0x53 => some (.vmxq 3#3 o)
  | 0x54 => some (.vmxq 4#3 o)
  | 0x55 => some (.vmxq 5#3 o)
  | 0x58 => some (.vmxd 0#3 o)
  | 0x59 => some (.vmxd 1#3 o)
  | 0x5A => some (.vmxd 2#3 o)
  | 0x5B => some (.vmxd 3#3 o)
  | 0x5C => some (.vmxd 4#3 o)
  | 0x5D => some (.vmxd 5#3 o)
  | 0x60 => some (.vshl o.asTwin)
  | 0x61 => some (.vshr o.asTwin)
  | 0x62 => some (.vsra o.asTwin)
  | 0x63 => some (.vrotI o)
  | 0x64 => some (.vbcastI o)
  | 0x65 => some (.qconst o)
  | 0x66 => some (.vtype o)
  | 0x67 => some (.qlin o)
  | 0x68 => some (.vrotL o)
  | 0x69 => some (.vbcastL o)
  | 0x6A => some (.qconstL o)
  | _ => none

/-- The M-map (R200). -/
def decodeM (opc : Nat) (o : Fields) : Option Instr :=
  match opc with
  | 0x00 => some (.nop o)
  | 0x01 => some (.mcall o)
  | 0x02 => some (.mset o)
  | 0x03 => some (.msetL o)
  | 0x04 => some (.mtile o)
  | 0x05 => some (if o.short = 0x40 then .mstatStatusClr o else .mstat o)
  | 0x06 => some (.mbound o)
  | 0x07 => some (.mcallM o)
  | _ => none

/-- The C-map (R201). -/
def decodeC (opc : Nat) (o : Fields) : Option Instr :=
  match opc with
  | 0x00 => some (.nop o)
  | 0x01 => some (.cpin o)
  | 0x02 => some (.cpout o)
  | 0x03 => some (.cpacc o)
  | 0x04 => some (.cpfill o)
  | 0x05 => some (.chpost o)
  | 0x06 => some (.chsnd o)
  | 0x07 => some (if o.short.toNat / 8 = 1 then .chqLatch o else .chq o)
  | 0x08 => some (.plnew o)
  | 0x09 => some (.pldel o)
  | 0x0A => some (.plprot o)
  | 0x0B => some (.plq o)
  | 0x0C => some (.plpin o)
  | 0x0D => some (.post o)
  | 0x0E => some (.tend o)
  | 0x0F => some (.targ o)
  | 0x10 => some (.cwtw o)
  | 0x11 => some (.cwtr o)
  | 0x12 => some (.ifence o)
  | 0x41 => some (.cpinReg o)
  | 0x42 => some (.cpoutReg o)
  | 0x43 => some (.cpaccReg o)
  | 0x44 => some (.cpfillReg o)
  | 0x45 => some (.chpostReg o)
  | 0x46 => some (.chsndReg o)
  | _ => none

/-- The operation of a slot word; none for a reserved opcode or a reserved `sync` function. -/
def decodeSlot (slot : SlotId) (w : SlotWord) : Option Instr :=
  match slot with
  | .sx => decodeS (slotOpcode w) (unpackFields .sx w)
  | .sy => decodeS (slotOpcode w) (unpackFields .sy w)
  | .vx => decodeV (slotOpcode w) (unpackFields .vx w)
  | .vy => decodeV (slotOpcode w) (unpackFields .vy w)
  | .mx => decodeM (slotOpcode w) (unpackFields .mx w)
  | .cp => decodeC (slotOpcode w) (unpackFields .cp w)

/-- The opcode of a form that may have a short-immediate twin (R198). -/
def twinOpcode (opc : BitVec 7) (o : Fields) : BitVec 7 := if o.twin then opc + 0x40 else opc

/-- The opcode of a slot operation in its map (R198 to R201); none for every other row. -/
def Instr.opcode? (i : Instr) : Option (BitVec 7) :=
  match i with
  | .nop _ => some 0x00
  | .add o => some (twinOpcode 0x01 o)
  | .sub o => some (twinOpcode 0x02 o)
  | .mul o => some (twinOpcode 0x03 o)
  | .mulh o => some (twinOpcode 0x04 o)
  | .mulhu o => some (twinOpcode 0x05 o)
  | .div o => some (twinOpcode 0x06 o)
  | .divu o => some (twinOpcode 0x07 o)
  | .rem o => some (twinOpcode 0x08 o)
  | .remu o => some (twinOpcode 0x09 o)
  | .and o => some (twinOpcode 0x0A o)
  | .or o => some (twinOpcode 0x0B o)
  | .xor o => some (twinOpcode 0x0C o)
  | .shl o => some (twinOpcode 0x0D o)
  | .shr o => some (twinOpcode 0x0E o)
  | .sra o => some (twinOpcode 0x0F o)
  | .rol o => some (twinOpcode 0x10 o)
  | .ror o => some (twinOpcode 0x11 o)
  | .min o => some (twinOpcode 0x12 o)
  | .max o => some (twinOpcode 0x13 o)
  | .minu o => some (twinOpcode 0x14 o)
  | .maxu o => some (twinOpcode 0x15 o)
  | .cmp o => some (twinOpcode 0x16 o)
  | .sel o => some (twinOpcode 0x17 o)
  | .ldi o => some (twinOpcode 0x18 o)
  | .xput o => some (twinOpcode 0x19 o)
  | .yput o => some (twinOpcode 0x1A o)
  | .xget o => some (twinOpcode 0x1B o)
  | .yget o => some (twinOpcode 0x1C o)
  | .bset o => some (twinOpcode 0x1D o)
  | .jtab o => some (twinOpcode 0x1E o)
  | .lset o => some (twinOpcode 0x20 o)
  | .lstr o => some (twinOpcode 0x21 o)
  | .ld o => some (twinOpcode 0x22 o)
  | .ldu o => some (twinOpcode 0x23 o)
  | .st o => some (twinOpcode 0x24 o)
  | .stq o => some (twinOpcode 0x25 o)
  | .vld o => some (twinOpcode 0x26 o)
  | .vst o => some (twinOpcode 0x27 o)
  | .vldg o => some (twinOpcode 0x28 o)
  | .vstg o => some (twinOpcode 0x29 o)
  | .vstxM o => some (twinOpcode 0x2A o)
  | .atomAdd o => some (twinOpcode 0x2B o)
  | .atomAnd o => some (twinOpcode 0x2C o)
  | .atomOr o => some (twinOpcode 0x2D o)
  | .atomXor o => some (twinOpcode 0x2E o)
  | .atomMin o => some (twinOpcode 0x2F o)
  | .atomMax o => some (twinOpcode 0x30 o)
  | .atomMinu o => some (twinOpcode 0x31 o)
  | .atomMaxu o => some (twinOpcode 0x32 o)
  | .atomSwap o => some (twinOpcode 0x33 o)
  | .atomCas o => some (twinOpcode 0x34 o)
  | .vote o => some (twinOpcode 0x35 o)
  | .wait o => some (twinOpcode 0x36 o)
  | .cmpt o => some (twinOpcode 0x1F o)
  | .fence o => some (twinOpcode 0x3F o)
  | .drain o => some (twinOpcode 0x3F o)
  | .slack o => some (twinOpcode 0x3F o)
  | .rdv o => some (twinOpcode 0x3F o)
  | .clz _ => some 0x37
  | .ctz _ => some 0x38
  | .popc _ => some 0x39
  | .call _ => some 0x3A
  | .ret _ => some 0x3B
  | .rfe _ => some 0x3C
  | .vgth _ => some 0x3D
  | .vsct _ => some 0x3E
  | .aplane _ => some 0x77
  | .sext _ => some 0x78
  | .zext _ => some 0x79
  | .mfk _ => some 0x7B
  | .brk _ => some 0x7C
  | .trap _ => some 0x7D
  | .errinj _ => some 0x7E
  | .cmptP _ => some 0x1F
  | .cmptV _ => some 0x1F
  | .mtk _ => some 0x7A
  | .mtkQsoft _ => some 0x7A
  | .mtkQstat _ => some 0x7A
  | .mtkRmode _ => some 0x7A
  | .mtkMdepth _ => some 0x7A
  | .mtkDbgctl _ => some 0x7A
  | .vadd _ => some 0x01
  | .vsub _ => some 0x02
  | .vmul _ => some 0x03
  | .vfma _ => some 0x04
  | .vfms _ => some 0x05
  | .vfnma _ => some 0x06
  | .vfnms _ => some 0x07
  | .vmin _ => some 0x08
  | .vmax _ => some 0x09
  | .vabs _ => some 0x0A
  | .vneg _ => some 0x0B
  | .vcopysign _ => some 0x0C
  | .vand _ => some 0x0D
  | .vor _ => some 0x0E
  | .vxor _ => some 0x0F
  | .vsel _ => some 0x13
  | .vcmp _ => some 0x14
  | .pand _ => some 0x15
  | .por _ => some 0x16
  | .pxor _ => some 0x17
  | .pnot _ => some 0x18
  | .vrsum _ => some 0x19
  | .vrmax _ => some 0x1A
  | .vrmin _ => some 0x1B
  | .vperm _ => some 0x1C
  | .vrot _ => some 0x1D
  | .vbcast _ => some 0x1E
  | .vxfer _ => some 0x1F
  | .vrcp _ => some 0x20
  | .vrsqrt _ => some 0x21
  | .vexp2 _ => some 0x22
  | .vlog2 _ => some 0x23
  | .pany _ => some 0x24
  | .pall _ => some 0x25
  | .qand _ => some 0x2C
  | .qor _ => some 0x2D
  | .qnot _ => some 0x2E
  | .qfromp _ => some 0x2F
  | .qcol _ => some 0x30
  | .qgcmp _ => some 0x31
  | .qgblend _ => some 0x32
  | .qmovFromRow _ => some 0x34
  | .qmovToRow _ => some 0x35
  | .vrotI _ => some 0x63
  | .vbcastI _ => some 0x64
  | .qconst _ => some 0x65
  | .vtype _ => some 0x66
  | .qlin _ => some 0x67
  | .vrotL _ => some 0x68
  | .vbcastL _ => some 0x69
  | .qconstL _ => some 0x6A
  | .vshl o => some (if o.twin then 0x60 else 0x10)
  | .vshr o => some (if o.twin then 0x61 else 0x11)
  | .vsra o => some (if o.twin then 0x62 else 0x12)
  | .qmov _ => some 0x33
  | .qmovCross _ => some 0x33
  | .qcmp c _ => some (0x28 + c.setWidth 7)
  | .vblendQ k _ => some (0x38 + k.setWidth 7)
  | .vcvt m _ => some (0x40 + m.setWidth 7)
  | .vcvtSat m _ => some (0x48 + m.setWidth 7)
  | .vmxq m _ => some (0x50 + m.setWidth 7)
  | .vmxd m _ => some (0x58 + m.setWidth 7)
  | .mcall _ => some 0x01
  | .mset _ => some 0x02
  | .msetL _ => some 0x03
  | .mtile _ => some 0x04
  | .mbound _ => some 0x06
  | .mcallM _ => some 0x07
  | .mstat _ => some 0x05
  | .mstatStatusClr _ => some 0x05
  | .cpin _ => some 0x01
  | .cpout _ => some 0x02
  | .cpacc _ => some 0x03
  | .cpfill _ => some 0x04
  | .chpost _ => some 0x05
  | .chsnd _ => some 0x06
  | .plnew _ => some 0x08
  | .pldel _ => some 0x09
  | .plprot _ => some 0x0A
  | .plq _ => some 0x0B
  | .plpin _ => some 0x0C
  | .post _ => some 0x0D
  | .tend _ => some 0x0E
  | .targ _ => some 0x0F
  | .cwtw _ => some 0x10
  | .cwtr _ => some 0x11
  | .ifence _ => some 0x12
  | .cpinReg _ => some 0x41
  | .cpoutReg _ => some 0x42
  | .cpaccReg _ => some 0x43
  | .cpfillReg _ => some 0x44
  | .chpostReg _ => some 0x45
  | .chsndReg _ => some 0x46
  | .chq _ => some 0x07
  | .chqLatch _ => some 0x07
  | _ => none

/-- The slot word of a slot operation. -/
def encodeSlot (i : Instr) : Option (SlotId × SlotWord) :=
  match i.opcode?, i.fields? with
  | some c, some o => some (o.slot, packSlot c o)
  | _, _ => none

/-! ### The control word -/

/-- The header of a control word (R183). -/
structure Header where
  shape : BitVec 4
  tests : List (BitVec 5)
  tgts  : List (BitVec 3)
  pop   : BitVec 8
  seg   : Bool
  dup   : Bool
deriving DecidableEq, Repr

/-- The header of a control word (R182, R183). -/
def headerOf (w : Hcw) : Header where
  shape := w.extractLsb' 252 4
  tests := [w.extractLsb' 247 5, w.extractLsb' 242 5, w.extractLsb' 237 5, w.extractLsb' 232 5]
  tgts := [w.extractLsb' 229 3, w.extractLsb' 226 3, w.extractLsb' 223 3, w.extractLsb' 220 3]
  pop := w.extractLsb' 212 8
  seg := w.getLsbD 211
  dup := w.getLsbD 210

/-- The slot word of a slot (R182). -/
def slotOf (w : Hcw) (slot : SlotId) : SlotWord :=
  match slot with
  | .sx => w.extractLsb' 175 35
  | .sy => w.extractLsb' 140 35
  | .vx => w.extractLsb' 105 35
  | .vy => w.extractLsb' 70 35
  | .mx => w.extractLsb' 35 35
  | .cp => w.extractLsb' 0 35

/-! ### Micro-ops -/

/-- The word of a micro-op (R204, R317); none for a row that is no micro-op. -/
def encodeUop (i : Instr) : Option Uop :=
  match i with
  | .wld wslot wfc sslot srow cks expswz =>
    some (0x01#6 ++ wslot ++ wfc ++ sslot ++ srow ++ BitVec.ofBool cks ++ expswz ++ 0#18 :
      BitVec (6 + 8 + 8 + 8 + 7 + 1 + 8 + 18))
  | .act aslot afc acc fresh row0 nr srow0 ix scslot expswz =>
    some (0x02#6 ++ aslot ++ afc ++ BitVec.ofBool acc ++ BitVec.ofBool fresh ++ row0 ++ nr ++ srow0 ++ ix
      ++ scslot ++ expswz ++ 0#1 : BitVec (6 + 8 + 8 + 1 + 1 + 7 + 7 + 7 + 2 + 8 + 8 + 1))
  | .drn src dkind dacc dslot dfc mode sat amax row0 nr ix =>
    some (0x03#6 ++ BitVec.ofBool src ++ dkind ++ BitVec.ofBool dacc ++ dslot ++ dfc ++ mode
      ++ BitVec.ofBool sat ++ amax ++ row0 ++ nr ++ ix ++ 0#16 :
      BitVec (6 + 1 + 2 + 1 + 8 + 8 + 3 + 1 + 2 + 7 + 7 + 2 + 16))
  | .cks write cacc crow racc rrow =>
    some (0x04#6 ++ 0#1 ++ BitVec.ofBool write ++ BitVec.ofBool cacc ++ crow ++ BitVec.ofBool racc ++ rrow
      ++ 0#40 : BitVec (6 + 1 + 1 + 1 + 7 + 1 + 7 + 40))
  | .mlp count mreg => some (0x05#6 ++ count ++ mreg ++ 0#39 : BitVec (6 + 16 + 3 + 39))
  | .mnd => some (0x06#6 ++ 0#58 : BitVec (6 + 58))
  | .midx ireg op val mreg => some (0x07#6 ++ ireg ++ op ++ val ++ mreg ++ 0#35 : BitVec (6 + 2 + 2 + 16 + 3 + 35))
  | .msel k src val => some (0x08#6 ++ k ++ BitVec.ofBool src ++ val ++ 0#46 : BitVec (6 + 3 + 1 + 8 + 46))
  | .mnop => some 0#64
  | _ => none

/-- The micro-op that the fields of a word name; none for a reserved code (R204). -/
def uopFields (w : Uop) : Option Instr :=
  match (w.extractLsb' 58 6).toNat with
  | 0x00 => some .mnop
  | 0x01 => some (.wld (w.extractLsb' 50 8) (w.extractLsb' 42 8) (w.extractLsb' 34 8) (w.extractLsb' 27 7)
      (w.getLsbD 26) (w.extractLsb' 18 8))
  | 0x02 => some (.act (w.extractLsb' 50 8) (w.extractLsb' 42 8) (w.getLsbD 41) (w.getLsbD 40)
      (w.extractLsb' 33 7) (w.extractLsb' 26 7) (w.extractLsb' 19 7) (w.extractLsb' 17 2)
      (w.extractLsb' 9 8) (w.extractLsb' 1 8))
  | 0x03 => some (.drn (w.getLsbD 57) (w.extractLsb' 55 2) (w.getLsbD 54) (w.extractLsb' 46 8)
      (w.extractLsb' 38 8) (w.extractLsb' 35 3) (w.getLsbD 34) (w.extractLsb' 32 2) (w.extractLsb' 25 7)
      (w.extractLsb' 18 7) (w.extractLsb' 16 2))
  | 0x04 => some (.cks (w.getLsbD 56) (w.getLsbD 55) (w.extractLsb' 48 7) (w.getLsbD 47) (w.extractLsb' 40 7))
  | 0x05 => some (.mlp (w.extractLsb' 42 16) (w.extractLsb' 39 3))
  | 0x06 => some .mnd
  | 0x07 => some (.midx (w.extractLsb' 56 2) (w.extractLsb' 54 2) (w.extractLsb' 38 16) (w.extractLsb' 35 3))
  | 0x08 => some (.msel (w.extractLsb' 55 3) (w.getLsbD 54) (w.extractLsb' 46 8))
  | _ => none

/-- The micro-op of a word; none for a reserved code or a set reserved bit (R204, R317). -/
def decodeUop (w : Uop) : Option Instr :=
  match uopFields w with
  | some i => if encodeUop i = some w then some i else none
  | none => none

/-! ### All encodings together -/

/-- The three places an instruction can be encoded in. -/
inductive Encoding where
  | unit (ps : List Parcel)
  | slot (slot : SlotId) (w : SlotWord)
  | uop (w : Uop)
deriving DecidableEq, Repr

/-- The words of an instruction; none for an event or request. -/
def encode (i : Instr) : Option Encoding :=
  match encodeUnit i, encodeSlot i, encodeUop i with
  | some ps, _, _ => some (.unit ps)
  | none, some (s, w), _ => some (.slot s w)
  | none, none, some w => some (.uop w)
  | none, none, none => none

/-- The instruction that words stand for. -/
def decode (e : Encoding) : Option Instr :=
  match e with
  | .unit ps =>
    match decodeUnit ps with
    | some (i, []) => some i
    | _ => none
  | .slot s w => decodeSlot s w
  | .uop w => decodeUop w

end Sys2Proof
end

