-- ==== Sys2Proof/Config.lean ====
section
/-! DEFINITION. What the part fixes, and the values the spec leaves open: each of those is a constant
with no body, so that nothing can rest on what it is. -/

namespace Sys2Proof.Config

/-- Cores of a module: 384 matrix cores and 16 service cores (R138). -/
def nCores : Nat := 400
/-- Matrix cores: numbers 0 to 383; service cores follow (R138). -/
def nMatrix : Nat := 384
/-- Tile slots of a core (R20). -/
def nSlots : Nat := 192
/-- Routines a core's matrix queue holds, the running one included (R43, R117). -/
def matrixQueueDepth : Nat := 4
/-- Operations a core's copy queue holds (R43). -/
def copyQueueDepth : Nat := 16
/-- Entries of a core's send-wait buffer (R150). -/
def sendWaitDepth : Nat := 8
/-- Resident nodes of one harbour shard (02, "Harbour nodes"). -/
def shardNodes : Nat := 16384
/-- Entries and data bytes of a segment store buffer (R348). -/
def segEntries : Nat := 32
def segBytes : Nat := 4096
/-- Rows of a context's undo log (R412). -/
def undoRows : Nat := 16
/-- Save areas of a die's pool. The spec gives no number (R401): DESIGN CHOICE, log 15. -/
def saveAreas : Nat := 384
/-- The PSIZE codes of R389 as bytes of position space. -/
def pageBytes (psize : Nat) : Nat :=
  if psize = 0 then 131072 else if psize = 1 then 2097152 else 1073741824

/-- A value the spec leaves open, fresh for each count (log 20). -/
opaque freeWord : Nat → Word
/-- The version of a Heresh image or of hub microcode, whose place in the bytes the spec does not give (R369, R370). -/
opaque imageVersion : List Byte → Nat
/-- Bytes of a DRAM row: patrol scrub visits rows (R427), whose size the spec does not give. -/
opaque rowBytes : Nat
/-- Which UET jobs are operator jobs (R374): the spec does not say. -/
opaque operatorJob : Nat → Bool
/-- The channel declarations of a symbol table, whose layout the spec does not give (R375): channel, entry, latch. -/
opaque symbolChannels : List Byte → List (Nat × Word × Option Nat)
/-- SHA3-512 (R371, R375, R440): named by the spec, not defined there (log 21). -/
opaque sha3_512 : List Byte → BitVec 512
/-- The public key that ML-DSA-87 KeyGen makes of a 32-byte seed: 2,592 bytes (R371, R440; log 21). -/
opaque mlDsaPublic : BitVec 256 → BitVec 20736
/-- The ML-DSA-87 signature under the key of a seed: 4,627 bytes (R440; log 21). -/
opaque mlDsaSign : BitVec 256 → List Byte → BitVec 37016

end Sys2Proof.Config
end

