-- ==== Sys2Proof/Machine/State.lean ====
section
/-! DEFINITION. The state of one Tilend 7740 module as plain data, the reasons a step can stop, and the
state after reset. -/

namespace Sys2Proof.Machine

/-- A file of registers or records by number: the entries written so far. A number that is not listed
reads as the file's own reset value, which each reader names. -/
abbrev File (α : Type) := List (Nat × α)

/-! ### Registers and results -/

/-- A scalar register: value, mod-15 residue, full mark (R23, R238). -/
structure Reg where
  val  : Word := 0
  res  : BitVec 4 := 0
  full : Bool := true
deriving DecidableEq, Repr

/-- A vector row with its full mark (R23, R114). -/
structure RowReg where
  bits : Row := 0
  full : Bool := true
deriving DecidableEq, Repr

/-- A q register: 256 lanes of 16 bits, and its lineage mask (R91, R100). -/
structure QReg where
  codes : Row := 0
  lin   : BitVec 8 := 0
deriving DecidableEq, Repr

/-- What a result in flight writes (R402 lists the classes). Scalar registers go by their R194 code. -/
inductive Dest where
  | scalar (code : Nat)
  | row (cl : Cluster) (r : Nat)
  | pred (cl : Cluster) (n : Nat)
  | qreg (cl : Cluster) (n : Nat)
  | loopCount (k : Nat)
  | stride (k j : Nat)
  | mreg (k : Nat)
  | kspace (index : Nat)
deriving DecidableEq, Repr

/-- The value of a result in flight. -/
inductive Payload where
  | word (v : Word) (res : BitVec 4)
  | row (v : Row)
  /-- the second row of a pair: one result with the row before it (R297, R402) -/
  | second (v : Row)
  /-- one lane of a row: lane, width, value (R217) -/
  | lane (i w : Nat) (v : Word)
  | pbits (v : PBits)
  /-- codes, or only a lineage mask (R302, R304) -/
  | q (codes : Option Row) (lin : BitVec 8)
  /-- register code and stride, `none` to disable (R229) -/
  | stride (v : Option (Nat × Word))
  /-- QSTAT flags to set and lineage overlaps to count (R97, R302) -/
  | qstat (flags : Word) (deps : Nat)
  /-- bits to set (R254) -/
  | orWord (v : Word)
deriving DecidableEq, Repr

/-- A fixed-latency result in flight (R208): it lands when the core's cycle count reaches `due`.
`divBad` marks a failed division check (R238, kind 5 of R408). -/
structure InFlight where
  due    : Nat
  dest   : Dest
  val    : Payload
  divBad : Bool := false
  /-- it issued while a transfer was pending, after its `call` or `ret` (R209, R226) -/
  late   : Bool := false
  /-- a variable-latency producer has taken over its destination since: it writes nothing where it lands before the producer has
  filled it (R344; log 96) -/
  under  : Bool := false
  /-- TINFO.SLOT of a division (R397) -/
  slot   : Nat := 7
deriving DecidableEq, Repr

/-- A result frozen at trap entry or pre-emption, with its remaining latency r (R399). -/
structure Frozen where
  r      : Nat
  dest   : Dest
  val    : Payload
  divBad : Bool := false
  late   : Bool := false
  under  : Bool := false
  slot   : Nat := 7
deriving DecidableEq, Repr

/-- An open loop level (R18, R19). -/
structure Loop where
  level : Nat
  count : Nat
  body  : Word
  first : Bool
deriving DecidableEq, Repr

/-- A pending transfer of a `call` or `ret` (R226); `link` is the link register's b number, none for a `ret`. -/
structure Xfer where
  target : Word
  link   : Option Nat
  value  : Word
  count  : Nat
  /-- the link value is known: the stream up to it could be followed (R224, R444) -/
  known  : Bool := true
  /-- a producer has taken over the link register since: the link is not written while the register is empty (R344; log 96) -/
  overtaken : Bool := false
deriving DecidableEq, Repr

/-- What a trap record says (R395 to R397). -/
structure TrapInfo where
  cause : Nat
  qual  : Nat := 0
  code  : Nat := 0
  addr  : Word := 0
  copy  : Bool := false
  pipe  : Bool := false
  wr    : Bool := false
  dfr   : Bool := false
  row   : Nat := 0
  slot  : Nat := 7
  plane : Nat := 0
  dcnt  : Nat := 0
  /-- the address of the `jtab` bundle, for the jump-table trap (R222) -/
  unit  : Word := 0
deriving DecidableEq, Repr

/-- The registers a checkpoint holds and a rewind restores (R412), which are also the register part of
a context image (R402). -/
structure Arch where
  /-- s, a, b and c registers by R194 code -/
  regs    : File Reg := []
  /-- p0-p15 of X at 0 to 15, of Y at 16 to 31 -/
  preds   : File PBits := []
  /-- q0-q7 of X at 0 to 7, of Y at 8 to 15 -/
  qregs   : File QReg := []
  /-- l1 to l6 -/
  lcount  : File Word := []
  /-- stride slots at 4·level + slot: register code and stride (R229) -/
  strides : File (Option (Nat × Word)) := []
  /-- open loop levels, innermost first -/
  loops   : List Loop := []
  mregs   : File Word := []
  mbound  : Nat := 4
  /-- k-space registers of the context by R235 index -/
  kspace  : File Word := [(0x02, 1), (0x03, 1), (0x07, 0x0001_0000_0000_0000)]
  /-- rdv generations issued, by rendezvous number (R253) -/
  rdvGen  : File Nat := []
deriving DecidableEq, Repr

/-! ### Memory accesses in progress -/

/-- The part of an access that lies in one page: its planed address, its bytes, and the frame address or, for a
remote slot, the owning package and the owner's ASID. -/
structure Part where
  va     : Word
  n      : Nat
  frame  : Option Nat
  remote : Option (Nat × Nat)
  key    : PageKey
deriving DecidableEq, Repr

/-- A translated access: its parts in order, and what R65 and R88 need to know of its plane. -/
structure Access where
  parts  : List Part
  colour : Nat
  /-- the plane is pod-shared: its step group -/
  shared : Option Nat
deriving DecidableEq, Repr

/-- What a store in the write buffer does to its bytes (R274 for the last two). -/
inductive StoreKind where
  | data | flip | retag
deriving DecidableEq, Repr

/-- A store that has been released into the write buffers and has not yet performed at pkg scope (R78, R79).
Each aligned 4-byte unit of an access is a store of its own, except under `.w8` and `.w16` (R83, R84). -/
structure PStore where
  id     : Nat
  cid    : Nat
  /-- place in the context's program order -/
  seq    : Nat
  addr   : Nat
  bytes  : List Byte
  colour : Nat
  kind   : StoreKind := .data
  va     : Word
  keys   : List PageKey
  /-- it has performed at grp scope -/
  grp    : Bool := false
  /-- the stores its context had read before issuing it (R79) -/
  deps   : List Nat := []
  /-- its access covers the whole 32-byte sector (R409) -/
  cover  : Bool := false
  /-- the number and the frame spans of the store it is a unit of, and whether that carries `.w8` or `.w16` (R65, R84) -/
  sid    : Nat := 0
  spans  : List (Nat × Nat) := []
  whole  : Bool := false
  /-- its store has passed its colour check (R65) -/
  checked : Bool := false
  /-- TINFO.SLOT of its operation (R397) -/
  slot   : Nat := 7
deriving DecidableEq, Repr

/-- What an outstanding load fills, or does, when its data returns. -/
inductive LoadUse where
  | scalar (code size : Nat) (signed : Bool)
  | row (cl : Cluster) (r : Nat)
  /-- operation, register, size, operand words -/
  | atom (op code size : Nat) (operand : List Word) (whole : Bool)
  /-- b number, index, table address (R221, R222) -/
  | jtabHead (b : Nat) (index table : Word)
  | jtabEntry (b : Nat) (entry : Word)
deriving DecidableEq, Repr

/-- An outstanding load, atomic or `jtab` read (R242, R344). -/
structure PLoad where
  id     : Nat
  cid    : Nat
  seq    : Nat
  va     : Word
  acc    : Access
  use    : LoadUse
  /-- the bytes, once the load has performed, and their check class: 0 clean, else the fault (R409) -/
  sample : Option (List Byte × Nat) := none
  /-- generation of the open segment it issued in (R413) -/
  gen    : Option Nat := none
  /-- an entry read waiting for a page (R222) -/
  held   : Bool := false
  /-- it sees each store whole or not at all: `.w8`, `.w16` (R83) and the reads of `jtab` (R223) -/
  whole  : Bool := false
  /-- the first unit's old bytes of an 8-byte atomic whose two units perform separately (R251) -/
  half   : Option (List Byte) := none
  /-- TINFO.SLOT of its operation, and the address of its bundle (R222, R397) -/
  slot   : Nat := 7
  pc     : Word := 0
deriving DecidableEq, Repr

/-- The other variable-latency producers (R344). -/
inductive PendKind where
  | mstat (sel : Nat)
  | hub (index : Nat)
  | query (value : Word)
  /-- a continuation record and the poster's launch -/
  | post (record : List Byte) (launch : Nat)
  | planeOp (inv : Nat)
deriving DecidableEq, Repr

structure Pending where
  id   : Nat
  cid  : Nat
  code : Nat
  kind : PendKind
  gen  : Option Nat := none
  /-- the core cycle of its issue (R314) -/
  since : Nat := 0
deriving DecidableEq, Repr

/-! ### Tiles, the matrix engine and the copy engine -/

/-- Who holds a tile (R20, R313): the thread, or one of the engines. -/
inductive Owner where
  | thread | copy | matrix | channel
deriving DecidableEq, Repr

/-- The accumulator type of R110. -/
inductive AccType where
  | none | fp32 | i32
deriving DecidableEq, Repr

/-- An accumulator tile X or Y (R114, R110, R122). -/
structure Tile where
  rows  : File RowReg := []
  owner : Owner := .thread
  atype : AccType := .none
  amax  : Half := 0
deriving DecidableEq, Repr

/-- A tile of a routine's tile set (R313). -/
inductive TileRef where
  | slot (k : Nat) | acc (y : Bool)
deriving DecidableEq, Repr

/-- A routine in the matrix queue with the copies its `mcall` took (R117, R310, R313). -/
structure Routine where
  cid   : Nat
  start : Nat
  len   : Nat
  mcopy : List Word
  mode  : Nat
  tiles : List TileRef
  /-- it waits for its segment to end (R118) -/
  waits : Bool := false
  /-- its place in the issue order of the core (R45) -/
  num   : Nat := 0
deriving DecidableEq, Repr

/-- The weights latched in the array (R318): element codes by 128·reduction index + column, scales by
128·block + column. -/
structure Weights where
  fc     : Nat
  codes  : List Nat
  scales : List Nat
  cks    : Bool
deriving DecidableEq, Repr

/-- A row that has entered the array and whose sum has not landed (R324). -/
structure RowSum where
  accY  : Bool
  row   : Nat
  op    : Nat
  fresh : Bool
  sums  : List Half
  /-- an integer sum wrapped (R113) -/
  wraps : Bool
deriving DecidableEq, Repr

/-- A drain in progress (R119, R120). -/
structure Drain where
  srcY  : Bool
  slots : Option Nat
  dstY  : Bool
  fc    : Nat
  mode  : Nat
  sat   : Bool
  track : Bool
  next  : Nat
  last  : Nat
  /-- DSEQ as it stood at the drain's start (R320) -/
  dseq  : Nat := 0
deriving DecidableEq, Repr

/-- The running routine's state (R128, R316). -/
structure Run where
  r        : Routine
  pc       : Nat
  ptrs     : File Nat
  idx      : File Int
  /-- open microcode loops, innermost first: address after the `mlp`, count left -/
  loops    : List (Nat × Nat)
  weights  : Option Weights := .none
  lastWld  : Option Nat := .none
  asum     : List Half := []
  colsum   : List Half := []
  /-- activation rows streamed since Asum was reset (R329) -/
  streamed : Nat := 0
  sums     : List RowSum := []
  drain    : Option Drain := .none
  /-- checksum rows a `cks` will write: (tile Y, row, values) -/
  cks      : List (Bool × Nat × List Half) := []
  /-- the micro-op at `pc` is still working -/
  busy     : Bool := false
  /-- half cycles the engine has worked on the routine, counted as MDEPTH counts them (R49, R431), up to the end of the
  micro-op that has come furthest -/
  depth    : Nat := 0
  /-- that count at the latest retirement, from which MDEPTH counts (R49) -/
  base     : Nat := 0
  /-- that count at the start of the latest micro-op (R324) -/
  begun    : Option Nat := .none
  /-- that count at the landing of the latest update of each row of X and of Y (R324) -/
  landX    : File Nat := []
  landY    : File Nat := []
deriving DecidableEq, Repr

/-- The copy operations of the C-map (R256). -/
inductive CopyKind where
  | cpin | cpout | cpaccIn | cpaccOut | cpfill | chsnd | cwtw | cwtr | node
deriving DecidableEq, Repr

/-- An operation of the copy queue or of the send-wait buffer. -/
structure CopyOp where
  id      : Nat
  cid     : Nat
  kind    : CopyKind
  va      : Word
  /-- control word: CCW, ACW, fill pattern, send word, CWT index or the COPY node's number -/
  word    : Word
  /-- the other word of a `chsnd` (its destination), or a COPY node's destination address -/
  word2   : Word := 0
  slot    : Nat
  nslots  : Nat
  accY    : Option Bool := .none
  /-- next row, rows in all, bytes of a row -/
  row     : Nat
  nrows   : Nat
  rowBytes : Nat
  started : Bool := false
  /-- it waits for its segment to end (R118, R152) -/
  waits   : Bool := false
  /-- held on a not-present fault (R69) -/
  held    : Option PageKey := .none
  /-- bytes read so far, for `cwtw` -/
  data    : List Byte := []
  /-- the stores written so far, placed at the flip back (R260) -/
  outs    : List (Word × List Byte × Access) := []
  seq     : Nat := 0
deriving DecidableEq, Repr

/-- The fault record of a copy load pipe (R400). -/
structure PipeRec where
  kind : CopyKind
  addr : Word
  code : Nat
  qual : Nat
  row  : Nat
deriving DecidableEq, Repr

/-- A posted slot of a channel (R148, R149). -/
structure Posted where
  slot  : Nat
  count : Nat
  ready : Bool
  /-- it waits for its poster's segment to end, and is zero-filled then (R152) -/
  waits : Bool := false
  zero  : Bool := false
deriving DecidableEq, Repr

/-- A channel of a core: its table entry, its posted list, its overrun flag, the latch that serves it
(R147 to R151). -/
structure Chan where
  entry  : Word := 0
  posted : List Posted := []
  ovr    : Bool := false
  latch  : Option Nat := .none
  /-- the table entry has a single wrong bit, or is uncorrectable (R411) -/
  one    : Bool := false
  bad    : Bool := false
deriving DecidableEq, Repr

/-- A request in the special-function unit (R293). -/
structure SfuReq where
  cid : Nat
  cl  : Cluster
  row : Nat
  val : Row
  gen : Option Nat
  /-- the core cycle in which its last lanes have entered the unit (R293) -/
  entered : Nat := 0
deriving DecidableEq, Repr

/-- A use of a scratchpad bank by an engine, from a core cycle on and before another one (R127). -/
structure BankUse where
  bank  : Nat
  first : Nat
  till  : Nat
  /-- the matrix engine's, which the copy engine gives way to -/
  matrix : Bool
deriving DecidableEq, Repr

/-- An entry of a translation cache: a page's PSE and RPD (R392). -/
structure Cached where
  cache : CacheId
  asid  : Nat
  page  : Nat
  psize : Nat
  pse   : BitVec 2048
  rpd   : BitVec 1024
deriving DecidableEq, Repr

/-- A core (R43, R45, R114, R116, R124, R147, R293). -/
structure Core where
  cycle   : Nat := 0
  running : Option Nat := .none
  /-- the context that ran last, from which R44 counts -/
  last    : Nat := 0
  spad    : File Row := []
  /-- uncorrectable 8-byte words of the scratchpad (R411) -/
  spadBad : List Nat := []
  /-- words with a single wrong bit, which the next read corrects (R411) -/
  spadOne : List Nat := []
  heads   : File Word := []
  owners  : File Owner := []
  uops    : File Uop := []
  rtab    : File (BitVec 32) := []
  mqueue  : List Routine := []
  run     : Option Run := .none
  /-- routines cut short by a pre-emption whose context has resumed; they continue before any queued one (R128) -/
  cuts    : List Run := []
  cqueue  : List CopyOp := []
  sendWait : List CopyOp := []
  pipes   : File PipeRec := []
  chans   : File Chan := []
  sfu     : List SfuReq := []
  /-- the core has asked the engine to stop at the next retirement for these victims (R128) -/
  stopFor : List Nat := []
  /-- scratchpad banks that the engines use, with the cycles (R127) -/
  banks   : List BankUse := []
  /-- slots that stay allocated to SAVED tasks of the core (R47) -/
  savedSlots : List Nat := []
  /-- routines issued so far (R45) -/
  issued  : Nat := 0
deriving DecidableEq, Repr

/-! ### Contexts and tasks -/

/-- Why a bundle blocks (R43). -/
inductive Reason where
  | scalar (code : Nat)
  | row (cl : Cluster) (r : Nat)
  | tile (t : TileRef)
  | matrixQueue
  | copyQueue
  | latch (k : Nat)
  /-- 1: every earlier store at grp, 2: at pkg -/
  | stores (scope : Nat)
  | waiting
  | rendezvous (n gen : Nat)
  | slack
  /-- no room for a node of this priority queue in its shard or its quota (R28, R386) -/
  | shardFull (queue : Nat)
  | isync
  | cwtOps
  | chanDepth (ch : Nat)
  | page (k : PageKey) (va : Word) (wr : Bool) (slot : Nat)
  | loads
  /-- its task has halted, and waits for its engine work to complete (R13) -/
  | ended
deriving DecidableEq, Repr

/-- The states of R43. -/
inductive Status where
  | free | ready | running | blocked (why : Reason) | saved
deriving DecidableEq, Repr

/-- How far a blocked `wait` or `rdv` has come (R253, R255). -/
inductive Phase where
  | none
  | waitFor (va : Word) (cond : Nat) (c : Half)
  | waitDone
  | rdvIssued (n gen : Nat)
deriving DecidableEq, Repr

/-- A row as it stood before its first write in a segment (R412). -/
inductive Undo where
  | row (cl : Cluster) (r : Nat) (old : RowReg)
  | spad (row : Nat) (old : Row)
deriving DecidableEq, Repr

/-- An open segment (R190, R348, R412, R415). -/
structure Seg where
  arch   : Arch
  pc     : Word
  stores : List PStore := []
  /-- step-deferred stores held with the others, each with its owning package (R87, R137) -/
  dwrites : List (Nat × DWrite) := []
  entries : Nat := 0
  bytes  : Nat := 0
  undo   : List Undo := []
  second : Bool := false
deriving DecidableEq, Repr

/-- How a task has ended (R13, R30, R50, R381, R405, R415). -/
inductive Ending where
  | running | ok
  | trapped (info : TrapInfo)
  | watchdog | segfail | imageLost
deriving DecidableEq, Repr

/-- The task a context holds (R26, R50, R253, R358, R380). -/
structure Task where
  launch  : Nat
  index   : Nat
  node    : Nat
  levels  : List (Nat × Nat)
  trapEntry : Word
  prio    : Nat
  wdUnits : Nat
  wdUsed  : Nat := 0
  sgid    : Option Nat := .none
  rdvInst : Option (Nat × Nat) := .none
  slots   : List Nat := []
  tend    : Half := 0
  /-- core cycle at which it was last placed, from which its watchdog use is counted -/
  placed  : Nat := 0
  /-- GTS of its last placement, and the place of that placement in the order of dispatches (R46) -/
  placedAt : Nat := 0
  order   : Nat := 0
  ending  : Ending := .running
deriving DecidableEq, Repr

/-- A hardware context (R43). -/
structure Ctx where
  status   : Status := .free
  arch     : Arch := {}
  tileX    : Tile := {}
  tileY    : Tile := {}
  imm      : Option Word := .none
  pc       : Word := 0
  npc      : Word := 0
  xfer     : Option Xfer := .none
  flight   : List InFlight := []
  frozen   : List Frozen := []
  shelf    : List Loop := []
  /-- traps to take before the next bundle that issues (R396) -/
  deferred : List TrapInfo := []
  /-- deferred store tag mismatches: the record of the first, with the count of the further ones (R65) -/
  tagFail  : Option TrapInfo := .none
  cwt      : File Hcw := []
  /-- uncorrectable 8-byte words of the table: 4·entry + word (R411) -/
  cwtBad   : List Nat := []
  /-- words with a single wrong bit, which the next read corrects (R411) -/
  cwtOne   : List Nat := []
  /-- `cwtw` operations outstanding, and whether one has failed (R271) -/
  cwtwOut  : Nat := 0
  cwtwFail : Bool := false
  cwtrOut  : Nat := 0
  seg      : Option Seg := .none
  segGen   : Nat := 0
  /-- the SEG bundle at this address opens a second attempt (R415) -/
  retry    : Option Word := .none
  phase    : Phase := .none
  /-- latch h0-h7: its channel and its ready slots (R151) -/
  latches  : File (Nat × List Nat) := []
  /-- engine status: CAUSE, IOVF, BHOLD (R132) -/
  ecause   : Nat := 0
  iovf     : Bool := false
  bhold    : Nat := 0
  /-- cycle of the latest `lset` of each level (R228) -/
  lsetAt   : File Nat := []
  seq      : Nat := 0
  /-- pending stores that this context's loads have read (R79) -/
  readFrom : List Nat := []
  /-- the dues of the results in flight count from the cycle in which the next unit is first presented (R399) -/
  rebase   : Bool := false
  /-- a `tend` has issued: the context stops as `halt` does; shelved while a handler runs (R269) -/
  tended   : Bool := false
  tendShelf : Bool := false
  /-- the trap record's address of a `jtab` bundle (R222) -/
  trapUnit : Word := 0
  /-- TLINK holds a link that was not known when the transfer was saved (R224, R444) -/
  linkOpen : Bool := false
  /-- what else the blocked bundle waits for (R43) -/
  alsoOn   : List Reason := []
  task     : Option Task := .none
deriving DecidableEq, Repr

/-! ### Address spaces -/

/-- An ASID record (R391, R70, R73, R375, R377). -/
structure AsidRec where
  granted : Bool := false
  gen     : Nat := 0
  job     : Nat := 0
  loadKey : BitVec 20736 := 0
  planeQuota : Nat := 0
  pinQuota   : Nat := 0
  debug   : Bool := false
  mailbox : Word := 0
  doorbell : Word := 0
  report  : Word := 0
  /-- requests that the service has taken from the mailbox (R377) -/
  taken   : Nat := 0
  /-- which context last stored to a 4-byte unit of the mailbox since its last request there was taken, and the units that the ringer
  of each `atom` on the doorbell had stored to by then, oldest ring first (R377) -/
  mail    : File Nat := []
  rings   : List (List Nat) := []
deriving DecidableEq, Repr

/-- A region as the Heresh service holds it; its tables lie in HBM (R53, R387 to R389). -/
structure Region where
  asid  : Nat
  lo    : Nat
  hi    : Nat
  psize : Nat
  rpd   : Nat
  sgid  : Option Nat
  ceil  : BitVec 32
  /-- page by page, the owning package and its ASID; the last entry stands for the pages after it, none for this package's -/
  owners : List (Nat × Nat) := []
  /-- it holds a loaded image (R444) -/
  code  : Bool := false
deriving DecidableEq, Repr

/-- What a pending invalidation will do at its commit point (R74, R393, R394). -/
inductive Change where
  | plnew (region plane : Nat) (desc : Word)
  | pldel (region plane : Nat)
  | plprot (region plane : Nat) (perm first count : Nat)
  | plpin (region plane : Nat) (pin : Bool)
  | paged (key : PageKey)
  | present (key : PageKey)
  | lost (key : PageKey)
  | descriptor (region plane : Nat) (desc : Word)
  | asid (asid : Nat)
  /-- nothing but the dropping of translations: of a range of pages of one ASID, of every ASID -/
  | pages (asid lo hi : Nat)
  | every
deriving DecidableEq, Repr

/-- An entry of a walker: where a table of a level lies, for the positions from a first one on (R392). -/
structure WalkEntry where
  die   : Nat
  asid  : Nat
  /-- the level of the table that the entry points at, 2 to 5 -/
  level : Nat
  first : Nat
  table : Nat
deriving DecidableEq, Repr

structure Inval where
  id      : Nat
  /-- another package started it, under its own number (R393) -/
  source  : Option (Nat × Nat) := .none
  /-- an owner's quota falls short (R443), and the status code that the owners' answers give -/
  short   : Bool := false
  /-- plane and pin quota that this package holds for a change of another package between its answer and the commit point (R443) -/
  heldPlane : Nat := 0
  heldPin : Nat := 0
  /-- PLANE requests that wait for its commit point -/
  reply   : List ReqHead := []
  change  : Change
  waiting : List CacheId
  pod     : Bool
deriving DecidableEq, Repr

/-- Check state of a 32-byte HBM sector where it is not that of a clean write (R409): a tag other than its
frame's colour, its wrong symbols as (byte, flipped bits), a misdirected write, a check word written as
uncorrectable. -/
structure Sector where
  tag    : Option Nat := .none
  wrong  : List (Nat × Byte) := []
  misdir : Bool := false
  poison : Bool := false
deriving DecidableEq, Repr

/-! ### Launches and the harbour -/

structure Level where
  dom    : Nat
  scope  : Nat
  extent : Nat
deriving DecidableEq, Repr

/-- The step section of a launch record (R134, R378). -/
structure StepSec where
  sgid    : Nat
  exclude : Bool
  skewlim : Nat
  ls0     : Half
  lsmin   : Half
  lsmax   : Half
  lswin   : Nat
deriving DecidableEq, Repr

/-- A declared tile operand: first slot and count, and what describes it: plane, format code, rows (R28, R380). -/
structure TileDecl where
  first : Nat
  count : Nat
  plane : Nat := 0
  fc    : Nat := 0
  rows  : Nat := 0
deriving DecidableEq, Repr

/-- The kind-specific part of a node (R28, R380). -/
inductive NodeKind where
  | code (entry : Word) (args : List Word) (argmap : List Nat) (tiles : List TileDecl)
      (index : Nat) (home : Option Word) (expl : Option Nat) (body : Bool)
  | copy (src dst : Word) (len mask : Nat)
  | cond (word : Word) (bitIdx : List Nat)
  | event (target tag payload : Word) (len : Nat) (record : Bool)
deriving DecidableEq, Repr

/-- A validated launch record (R378). -/
structure LaunchRec where
  levels  : List Level
  stepped : Bool
  rdvLevel : Option Nat
  classS  : Bool
  feeds   : Bool
  prio    : Nat
  queue   : Nat
  wd      : Nat
  entry   : Word
  trap    : Word
  seed    : Word
  stack   : Nat
  args    : List Word
  /-- the eight bytes of ARGMAP -/
  argmap  : List Nat
  routines : Bool
  bsucc   : List Nat
  step    : Option StepSec
  tiles   : List TileDecl
  nodes   : List (List Byte)
  /-- what the extra nodes held when the record was validated (R382) -/
  kinds   : List NodeKind := []
  /-- where the operands that every body task declares lie, and how many (R378) -/
  tilep   : Word := 0
  ntile   : Nat := 0
deriving DecidableEq, Repr

/-- A loaded kernel image (R375). -/
structure Image where
  asid    : Nat
  handle  : Nat
  debug   : Bool
  /-- base address of its code region -/
  base    : Word
  kernels : List (Word × Bool)
  /-- (kernel number, section number, image bytes) -/
  banks   : List (Nat × Nat × List Byte)
  rtab    : List (BitVec 32)
  uops    : List Uop
  chans   : List (Nat × Word × Option Nat)
  live    : Bool := true
  /-- bytes of its parcel stream -/
  size    : Nat := 0
deriving DecidableEq, Repr

/-- A successor of a node: a node of this module, every body task of a launch here, a node of another package, the body tasks
on another package of a launch that a home package has under a number. -/
inductive SuccRef where
  | node (n : Nat) | body (launch : Nat) | remote (pkg n : Nat) | podBody (pkg home num : Nat)
deriving DecidableEq, Repr

/-- What a package reports of its part of a launch (log 86): that its body tasks there have finished, all of them skipped or
not; or that some of the parts are over, with what the completion record counts (R381). -/
structure PartReport where
  body   : Bool
  skip   : Bool := false
  parts  : Nat := 0
  failed : Bool := false
  ok     : Nat := 0
  trapped : Nat := 0
  watchdog : Nat := 0
  segfail : Nat := 0
  lowest : Option (Nat × Nat) := .none
  tend   : Option (Nat × Half) := .none
deriving DecidableEq, Repr

/-- A launch and its completion record (R381). -/
structure Launch where
  num    : Nat
  asid   : Nat
  image  : Nat
  record : LaunchRec
  /-- harbour nodes of its extra nodes, in record order -/
  extra  : List Nat := []
  nextTask : Nat := 0
  /-- decrements that body tasks still wait for, whether one of those made was not a skip, and whether all of them
  were (R35, R378) -/
  bodyPreds : Nat := 0
  bodyReal : Bool := false
  bodySkip : Bool := false
  /-- body tasks of this package that have finished -/
  bodyDone : Nat := 0
  done   : Bool := false
  failed : Bool := false
  ok     : Nat := 0
  trapped : Nat := 0
  watchdog : Nat := 0
  segfail : Nat := 0
  lowest : Option (Nat × Nat) := .none
  tend   : Option (Nat × Half) := .none
  /-- the trigger that fired it, whose payload buffer it holds, and the address of that buffer (R384) -/
  trigger : Option Nat := .none
  buffer  : Option Word := .none
  /-- what its record's node indices name -/
  refs   : List SuccRef := []
  /-- the body tasks that have been placed: index, context (R27) -/
  places : List (Nat × Nat) := []
  /-- extra nodes that have their numbers and are still to be created -/
  unborn : List Nat := []
  /-- the records of nodes that came from another package, by number (R380) -/
  recs   : List (Nat × List Byte) := []
  /-- where its routine set starts in the microprogram stores (R116) -/
  ubase  : Nat := 0
  /-- it is a part of another package's launch: that package and the number there -/
  home   : Option (Nat × Nat) := .none
  /-- a part that holds nodes alone -/
  noBody : Bool := false
  /-- parts received; parts sent that are not over; packages whose body tasks have not all finished -/
  parts  : Nat := 0
  partsOut : Nat := 0
  bodyOut : Nat := 0
  /-- a body task somewhere was not skipped -/
  bodyRan : Bool := false
deriving DecidableEq, Repr

/-- `unborn`: it has its number and waits for room, or for a page of its operands, to be created (R380, R386). -/
inductive NodeState where
  | unborn | waiting | ready | running | saving | saved | loading | done
deriving DecidableEq, Repr

/-- A harbour node (R28). -/
structure Node where
  launch : Nat
  kind   : NodeKind
  classS : Bool
  prio   : Nat
  queue  : Nat
  feeds  : Bool
  wd     : Nat
  count  : Nat
  /-- some decrement was not a skip (R35) -/
  real   : Bool := false
  succs  : List SuccRef := []
  state  : NodeState := .waiting
  /-- when it entered the ready pool, and the waiting time before its first dispatch (R38, R48) -/
  entered : Nat := 0
  waited : Option Nat := .none
  place  : Nat := 0
  /-- the harbour's event in which it entered the ready pool (R37) -/
  turn   : Nat := 0
deriving DecidableEq, Repr

/-- What one package sends another of a launch: the launch's home package and number there, its ASID and image on the package
named, its record, the predecessors of its body, and nodes for that package (R24, R134, R379; log 86). -/
structure PodPart where
  home   : Nat
  num    : Nat
  asid   : Nat
  image  : Nat
  record : LaunchRec
  preds  : Nat := 0
  /-- the package takes its share of the body -/
  body   : Bool := false
  /-- the nodes for that package, and the record of each, from which its argument words and operands are read there (R380) -/
  nodes  : List Node := []
  recs   : List (List Byte) := []
  /-- the address of the payload buffer of a triggered launch (R384) -/
  buffer : Option Word := .none
deriving DecidableEq, Repr

/-- A saved context (R401 to R404). `res` says the image lies on flash only, `fcopy` that a flash copy is kept. -/
structure Saved where
  cid   : Nat
  ctx   : Ctx
  /-- routines taken from the queue, the cut-short routine, the held copy, send-wait entries (R128, R129, R152) -/
  queue : List Routine := []
  run   : Option Run := .none
  copies : List CopyOp := []
  sends : List CopyOp := []
  /-- the fault records of the held copy (R400, R402) -/
  pipes : File PipeRec := []
  res   : Bool := false
  fcopy : Bool := false
  since : Nat := 0
  /-- the address of the save area that it holds in its die's HBM (R401) -/
  area  : Option Nat := .none
  /-- the node for which its context was taken away (R47) -/
  forNode : Option Nat := .none
  /-- the harbour has chosen it to resume while its image is on flash only (R404), and the first block of that copy -/
  chosen : Bool := false
  block : Nat := 0
  /-- it changed while an HBM timing hold lasts, after which its area follows (R403, R431) -/
  late : Bool := false
deriving DecidableEq, Repr

/-! ### Supersteps, triggers, errors, cold operation -/

/-- A step group as this package holds it (R134 to R146). -/
structure StepGroup where
  sgid    : Nat
  launch  : Nat
  members : List Nat
  skewlim : Nat
  exclude : Bool
  stepno  : Half := 0
  stepstat : Word := 0
  scale   : Half := 0
  lsmin   : Half := 0
  lsmax   : Half := 0
  lswin   : Nat := 0
  clean   : Nat := 0
  skip    : Nat := 0
  /-- OR of the votes of this package's arrived tasks, and which task indices have arrived -/
  vote    : Half := 0
  arrived : List Nat := []
  /-- tasks that have ended: they count as arrived at every later step -/
  ended   : List Nat := []
  /-- deferred writes this package has sent in this step, by owning package, and in the next one -/
  sent    : List (Nat × Nat) := []
  sentNext : List (Nat × Nat) := []
  pkgArrived : Bool := false
  /-- leader: arrival records received -/
  arrivals : List (Nat × Half × List (Nat × Nat)) := []
  /-- arrival records of the next step that came before this one's commit -/
  nextArrivals : List (Nat × Half × List (Nat × Nat)) := []
  skewFrom : Option Nat := .none
  skewed  : Bool := false
  excluded : List Nat := []
  decided : Bool := false
  rvote   : Half := 0
  /-- owner: the writes of this step and of the next that have arrived; one that found the tidepool and the
  spill area full has no bytes (R140) -/
  writes  : List DWrite := []
  early   : List DWrite := []
  /-- how many writes of this step and of the next were dropped here (R140) -/
  dropped : Nat := 0
  droppedNext : Nat := 0
  /-- writes each source said it sent here -/
  stated  : List (Nat × Nat) := []
  applied : Bool := false
  /-- the values that the application has found, which memory takes at the commit: address, colour, bytes (R34, R136) -/
  pending : List (Nat × Nat × List Byte) := []
  reports : List (Nat × Bool) := []
  seals   : List Nat := []
  /-- tasks of this package, excluded from a step, whose own slack is still open (R142) -/
  sealed  : List Nat := []
  closing : Bool := false
  stcdrop : Nat := 0
  stcexcl : Nat := 0
  stcrej  : Nat := 0
  stcdel  : Nat := 0
  stcovf  : Nat := 0
  /-- the winners and exclusions of the replay, and of one that is armed for the next launch (R438) -/
  replay  : Option (List (Nat × Word × Nat) × List (Nat × List Nat)) := .none
  nextReplay : Option (List (Nat × Word × Nat) × List (Nat × List Nat)) := .none
  /-- the members whose tasks have all ended (log 101) -/
  gone    : List Nat := []
  /-- boundaries are still to come -/
  live    : Bool := true
  /-- deferred stores that this package's contexts have issued so far, which orders those of one source (R138) -/
  orders  : Nat := 0
  /-- the bytes that other packages have answered in this step: package, ASID there, address, byte (R88) -/
  answered : List (Nat × Nat × Nat × Byte) := []
deriving DecidableEq, Repr

/-- A trigger entry (R382). -/
structure Trigger where
  armed : Bool
  asid  : Nat
  req   : TriggerReq
  fired : Half := 0
  cnt   : Nat
  image : Nat
  record : LaunchRec
  /-- payload buffers in use, with the launch that uses each -/
  busy  : List (Nat × Nat) := []
deriving DecidableEq, Repr

/-- A record-ring entry (R436): 64 bytes, of which the first 24 hold SEQ, GTS, KIND and SGID and the others the payload. -/
structure RingEntry where
  seq  : Nat
  gts  : Nat
  kind : Nat
  sgid : Nat
  /-- the 40 bytes of the payload -/
  payload : List Byte
deriving DecidableEq, Repr

/-- An error bank: status word and record (R417). -/
structure Bank where
  v     : Bool := false
  uc    : Bool := false
  ovf   : Bool := false
  kind  : Nat := 0
  cecnt : Nat := 0
  uecnt : Nat := 0
  addr  : Nat := 0
  syndrome : Nat := 0
  code  : Nat := 0
  gts   : Nat := 0
  taskid : Word := 0
  source : Nat := 0
deriving DecidableEq, Repr

/-- The error banks of R417. -/
inductive BankUnit where
  | core (n : Nat) | stack (n : Nat) | walker (n : Nat) | tidepool | storage
deriving DecidableEq, Repr

/-- The cold state machine and its sensors (R421 to R432). -/
structure Cold where
  state   : Nat := 0
  band    : Nat := 3
  tmax    : Nat := 0
  bseq    : Half := 0
  failed  : List Nat := []
  reading : List (Option Nat) := []
  /-- the readings of the last 60 s as they were judged, each with its time, latest first (R424) -/
  history : List (Nat × List (Option Nat)) := []
  /-- the fastest fall and rise of a working sensor over the last 60 s, in quarter kelvin, as judged last in an excursion that was not
  planned (R424) -/
  rates   : Nat × Nat := (0, 0)
  /-- when the present band was entered, and since when the fall condition has held -/
  bandAt  : Nat := 0
  fallAt  : Option Nat := .none
  /-- since when the soak condition has held, and whether the soak is over -/
  soakAt  : Option Nat := .none
  soaked  : Bool := false
  rateHold : Bool := false
  warmReq : Bool := false
  /-- a COLD_IDLE has been reached since power-up (R425) -/
  enabled : Bool := false
  poweredCold : Bool := false
  /-- nothing issues until the clock pause ends; HBM accesses wait until the timing hold ends -/
  pause   : Bool := false
  hbmHold : Bool := false
  /-- stacks' refresh: sweep commands left, commands of the running round left -/
  sweep   : List Nat := []
  roundLeft : List Nat := []
  /-- the band whose refresh interval applies -/
  refresh : Nat := 3
  /-- next patrol row of each stack -/
  patrol  : File Nat := []
  /-- sectors whose corrected data patrol scrub is still to write back (R428) -/
  scrubs  : List Nat := []
  bandTime : File Nat := []
  lastTime : Nat := 0
deriving DecidableEq, Repr

/-- A copy of an item in boot flash (R370). -/
structure FlashCopy where
  bytes   : List Byte := []
  sigGood : Bool := false
deriving DecidableEq, Repr

/-- Boot flash, what booted, and the identity (R369 to R372). -/
structure Boot where
  recA : FlashCopy := {}
  recB : FlashCopy := {}
  imgA : FlashCopy := {}
  imgB : FlashCopy := {}
  mcA  : FlashCopy := {}
  mcB  : FlashCopy := {}
  /-- true where copy B booted -/
  recFromB : Bool := false
  imgFromB : Bool := false
  mcFromB  : Bool := false
  recovery : Bool := false
  identity : Bool := false
  /-- the identity secret (R371) -/
  secret   : BitVec 256 := 0
  /-- the row repair entries that boot applied (R372) -/
  repair   : List Byte := []
  minfw    : Nat := 0
  /-- cores cleared from the enabled-core mask -/
  masked   : List Nat := []
  /-- up to four disabled physical rows of each matrix core (R109, R372) -/
  spare    : File (List Nat) := []
  /-- rows, and repair entries, that retests found, to be applied at the next boot (R442) -/
  retested : File (List Nat) := []
  retestedHbm : List Byte := []
  /-- service cores are running the Heresh entry -/
  service  : Bool := false
deriving DecidableEq, Repr

/-- A reply of the Heresh service (R373). -/
structure Reply where
  job    : Nat
  rid    : Word
  status : Nat
  result : Word
  body   : List Byte := []
deriving DecidableEq, Repr

/-- What leaves the module. -/
inductive Outgoing where
  | decrement (pkg node : Nat) (skip : Bool)
  | write (pkg : Nat) (w : DWrite)
  | arrival (sgid leader : Nat) (vote : Half) (counts : List (Nat × Nat))
  | decision (sgid : Nat) (rvote : Half) (excluded : List Nat) (skew : Bool)
  | report (sgid : Nat) (overflow : Bool)
  | commit (sgid : Nat) (overflow : Bool)
  | sealed (sgid : Nat)
  /-- every task of the group here has ended, or one has come after all (log 101) -/
  | stepOver (sgid : Nat) (ended : Bool)
  | message (target tag : Word) (payload : List Byte)
  | invalidate (inv : Nat) (c : Change)
  /-- the answer to another package's invalidation -/
  | invalidated (pkg inv : Nat) (ok : Bool)
  | podCommit (inv : Nat) (ok : Bool)
  | rateHold (on : Bool)
  | bandReport (band state : Nat)
  | telemetry (bytes : List Byte)
  | launchPart (pkg : Nat) (p : PodPart)
  | bodyDecrement (pkg home num : Nat) (skip : Bool)
  | launchReport (home num : Nat) (r : PartReport)
  /-- a step-deferred store of another package's context has failed its colour check here (R65, R88) -/
  | storeFailed (pkg source sgid : Nat) (t : TrapInfo)
deriving DecidableEq, Repr

/-- A page-in or page-out under way (R394). -/
structure PageMove where
  key   : PageKey
  inward : Bool
  /-- the frame or the backing it moves from -/
  frame : Nat := 0
  /-- the page-out's paged PSE has passed its commit point -/
  committed : Bool := false
  /-- a PLANE request waits for it -/
  reply : Option ReqHead := .none
deriving DecidableEq, Repr

/-- A request that waits for a page, and is served again when a page has moved (R394; log 50). -/
inductive HeldReq where
  | launch (h : ReqHead) (handle : Nat) (record : List Byte)
  | arm (h : ReqHead) (t : TriggerReq) (handle : Nat) (record : List Byte)
  | plane (h : ReqHead) (region plane : Nat) (a : PlaneAction)
deriving DecidableEq, Repr

/-- One input to `step`: an event or request, or whose turn it is to move (log 1). -/
inductive Input where
  /-- the row of the opcode table that comes about next -/
  | event (i : Instr)
  /-- the running context of this core issues next -/
  | turn (core : Nat)
  /-- the matrix engine of this core goes on -/
  | engine (core : Nat)
  /-- time passes -/
  | clock (ns : Nat)
  /-- cycles pass on this core in which nothing issues -/
  | cycles (core n : Nat)
  /-- the oldest message of the outbox leaves the module -/
  | depart
  /-- another package of the pod starts an invalidation for a change, and its commit point (R393, R443) -/
  | podChange (pkg inv : Nat) (c : Change)
  | podCommit (pkg inv : Nat) (ok : Bool)
  /-- the service has translations dropped (R393) -/
  | serviceInval (c : Change)
  /-- a request that waited for a page is served again -/
  | retry (r : HeldReq)
  /-- other packages: a part of a launch, a release of its body tasks here, a report on a part of a launch of this package -/
  | podLaunch (p : PodPart)
  | podBody (home num : Nat) (skip : Bool)
  | podReport (num : Nat) (r : PartReport)
  /-- another member's tasks of a step group have all ended, or one has come after all (log 101) -/
  | podStepOver (sgid pkg : Nat) (ended : Bool)
  /-- an owner reports that a step-deferred store of a context here has failed its colour check (R65, R88) -/
  | podStoreFailed (source sgid : Nat) (t : TrapInfo)
deriving DecidableEq, Repr

/-- The state of one module. -/
structure State where
  /-- what happens next, oldest first (log 1) -/
  agenda  : List Input
  /-- the context that acts: 4·core + context -/
  cur     : Nat
  pkg     : Nat
  /-- packages of the pod (R25) -/
  podPkgs : Nat
  gts     : Nat
  nextId  : Nat
  /-- how many free values have been taken (log 20) -/
  free    : Nat
  ctxs    : File Ctx
  cores   : File Core
  mem     : List Host.Cell
  sectors : File Sector
  /-- colours of allocated frames: first byte, byte after the last, colour; newest first (R54, R65) -/
  colours : List (Nat × Nat × Nat)
  wbuf    : List PStore
  loads   : List PLoad
  pends   : List Pending
  caches  : List Cached
  walkers : List WalkEntry
  invals  : List Inval
  moves   : List PageMove
  /-- saved frames on NVMe by first block: the frame's bytes, listed where not zero -/
  nvme    : File (List (Nat × Byte))
  rootBase : Nat
  /-- next free byte of each HBM stack for the service's allocations -/
  alloc   : File Nat
  /-- the next free block of NVMe; block 0 is no one's (log 14) -/
  nextBlock : Nat
  /-- next free position address the service gives a region -/
  nextPos : Nat
  asids   : File AsidRec
  regions : File Region
  images  : File Image
  launches : File Launch
  nodes   : File Node
  saved   : File Saved
  aging   : File Nat
  quotas  : File Nat
  paused  : List Nat
  /-- the latest sample of the pod egress queue found it empty (R38) -/
  egressEmpty : Bool
  groups  : File StepGroup
  tideGiB : Nat
  spillGiB : Nat
  triggers : File Trigger
  ring    : List RingEntry
  ringSeq : Nat
  ringCap : Nat
  banks   : List (BankUnit × Bank)
  /-- ECREW ECSEGF ECTRAP ECTPUE ECNVME ECIMG at 0 to 5 (R420); NOMATCH UNREL RINGREF REFUSED at 8 to 11 (R435) -/
  counters : File Nat
  mdepth  : Nat
  cold    : Cold
  boot    : Boot
  replies : List Reply
  /-- requests that wait for a page -/
  heldReqs : List HeldReq
  /-- the harbour's events so far (R37) -/
  hseq    : Nat
  outbox  : List Outgoing
deriving DecidableEq, Repr

/-- Why the model stops. The spec gives every action of a program or of a unit an effect; what is left is
an action of something the spec says does not exist. -/
inductive Fault where
  /-- raised by `step` where the agenda names a core number of 400 or more, which R138 says no module has.
  Safe: the hardware has nothing that could act. -/
  | noSuchCore (core : Nat)
deriving DecidableEq, Repr

/-- Why the model refuses an instruction. -/
inductive Refusal where
  /-- raised by `exec` for an instruction that has no meaning yet. Safe: the model stops. -/
  | notModelled (mnemonic : String)
deriving DecidableEq, Repr

/-- The module right after reset: power applied, TBAND at its reset value (BAND 3, STATE 0: R423), nothing
booted, no task, MDEPTH 20,800 (R49), 8 GiB of tidepool and of spill area (R140), a 64 MiB record ring
(R436). What the spec gives no reset value for is named in log 12, 13 and 14. -/
def State.reset : State where
  agenda := []
  cur := 0
  pkg := 0
  podPkgs := 1
  gts := 0
  nextId := 1
  free := 0
  ctxs := []
  cores := []
  mem := []
  sectors := []
  colours := []
  wbuf := []
  loads := []
  pends := []
  caches := []
  walkers := []
  invals := []
  moves := []
  nvme := []
  rootBase := 0x1000000
  alloc := []
  nextBlock := 1
  nextPos := 0x1_0000_0000
  asids := []
  regions := []
  images := []
  launches := []
  nodes := []
  saved := []
  aging := []
  quotas := []
  paused := []
  egressEmpty := true
  groups := []
  tideGiB := 8
  spillGiB := 8
  triggers := []
  ring := []
  ringSeq := 0
  ringCap := 1048576
  banks := []
  counters := []
  mdepth := 20800
  cold := {}
  boot := {}
  replies := []
  heldReqs := []
  hseq := 0
  outbox := []

end Sys2Proof.Machine
end

