-- ==== Sys2Proof/Machine/Ops.lean ====
section
/-! DEFINITION. The named operations over registers and memory, the end of a unit, the end of a segment and
of a task, taking a trap and returning from one. -/

namespace Sys2Proof.Machine

/-! ### Files -/

/-- The entry of number k, or d where nothing has been written. -/
def fget {α : Type} (f : File α) (k : Nat) (d : α) : α :=
  match f with
  | [] => d
  | (j, v) :: t => if j = k then v else fget t k d

/-- The entry of number k. -/
def fget? {α : Type} (f : File α) (k : Nat) : Option α :=
  match f with
  | [] => none
  | (j, v) :: t => if j = k then some v else fget? t k

/-- Write the entry of number k. -/
def fset {α : Type} (f : File α) (k : Nat) (v : α) : File α :=
  match f with
  | [] => [(k, v)]
  | (j, w) :: t => if j = k then (k, v) :: t else (j, w) :: fset t k v

/-- Drop the entry of number k. -/
def fdel {α : Type} (f : File α) (k : Nat) : File α := f.filter (fun e => e.1 != k)

/-! ### Sorting -/

/-- Put an element in front of the first that it may stand before. -/
def sortInsert {α : Type} (le : α → α → Bool) (x : α) (xs : List α) : List α :=
  match xs with
  | [] => [x]
  | y :: t => if le x y then x :: y :: t else y :: sortInsert le x t

/-- The elements in rising order; those that are equal keep their order. -/
def sortBy {α : Type} (le : α → α → Bool) (xs : List α) : List α := xs.foldr (sortInsert le) []

/-! ### Contexts and cores -/

/-- The context number `cid` (4·core + context). -/
def ctxOf (s : State) (cid : Nat) : Ctx := fget s.ctxs cid {}

def setCtx (s : State) (cid : Nat) (c : Ctx) : State := { s with ctxs := fset s.ctxs cid c }

/-- The context that acts. -/
def me (s : State) : Ctx := ctxOf s s.cur

def setMe (s : State) (c : Ctx) : State := setCtx s s.cur c

def coreOf (s : State) (n : Nat) : Core := fget s.cores n {}

def setCore (s : State) (n : Nat) (k : Core) : State := { s with cores := fset s.cores n k }

/-- The core of the context that acts. -/
def myCore (s : State) : Nat := s.cur / 4

/-- Cores 384 to 399 are the service cores (R138). -/
def isService (core : Nat) : Bool := Config.nMatrix ≤ core

/-- The core group of a core: eight cores, or the sixteen service cores (R24, R76). -/
def groupOf (core : Nat) : Nat := if isService core then 48 else core / 8

/-- The die of a core: 0 to 3, and 4 for die H (R24). -/
def dieOf (core : Nat) : Nat := if isService core then 4 else core / 96

/-- The cycle in which the acting context's core issues next (R4). -/
def now (s : State) : Nat := (coreOf s (myCore s)).cycle

/-- A k-space register of a context by its index (R235). -/
def kget (c : Ctx) (index : Nat) : Word := fget c.arch.kspace index 0

def kset (c : Ctx) (index : Nat) (v : Word) : Ctx :=
  { c with arch := { c.arch with kspace := fset c.arch.kspace index v } }

/-- The ASID of a context's task (R236). -/
def asidOf (c : Ctx) : Nat := (kget c 0x12).toNat

/-- The source number of a context (R138): package, core, context. -/
def sourceOf (s : State) (cid : Nat) : Nat := s.pkg * 2048 + cid

/-- Handler mode, TCAUSE.HM (R397). -/
def inHandler (c : Ctx) : Bool := (kget c 0xC0).getLsbD 8

/-- Debug mode, DBGCTL.DM (R406). -/
def inDebug (c : Ctx) : Bool := (kget c 0xD0).getLsbD 0

/-! ### Registers -/

/-- The mod-15 residue of a value (R238). -/
def rho (v : Word) : BitVec 4 := BitVec.ofNat 4 (v.toNat % 15)

/-- A register code of R194 that always reads 0: s0 and b0. -/
def hardZero (code : Nat) : Bool := code == 0 || code == 0x50

/-- A scalar register by its R194 code (R194, R207). -/
def readReg (c : Ctx) (code : Nat) : Reg :=
  if hardZero code then {} else fget c.arch.regs code {}

/-- Write a scalar register: s0 and b0 discard the write, a c register keeps bit 0 (R194, R208). -/
def writeReg (c : Ctx) (code : Nat) (v : Word) (res : BitVec 4) : Ctx :=
  if hardZero code then c
  else
    let v' := if 0x58 ≤ code then v &&& 1 else v
    { c with arch := { c.arch with regs := fset c.arch.regs code { val := v', res := res, full := true } } }

/-- A variable-latency producer takes over a destination: results to it that are in flight or frozen, and the link of a pending
transfer, are not written before it has filled it (R344; log 96). -/
def supersede (c : Ctx) (d : Dest) : Ctx :=
  { c with
    flight := c.flight.map (fun f => if f.dest = d then { f with under := true } else f)
    frozen := c.frozen.map (fun f => if f.dest = d then { f with under := true } else f)
    xfer := c.xfer.map (fun x => if x.link.map (fun l => Dest.scalar (0x50 + l)) = some d then { x with overtaken := true } else x) }

/-- Mark a scalar register empty, for a producer that will fill it (R23, R344). -/
def emptyReg (c : Ctx) (code : Nat) : Ctx :=
  if hardZero code then c
  else supersede { c with arch := { c.arch with regs := fset c.arch.regs code { readReg c code with full := false } } } (.scalar code)

/-- The tile of a cluster: its rows are the rows of the accumulator tile (R114). -/
def tileOf (c : Ctx) (cl : Cluster) : Tile :=
  match cl with
  | .x => c.tileX
  | .y => c.tileY

def setTile (c : Ctx) (cl : Cluster) (t : Tile) : Ctx :=
  match cl with
  | .x => { c with tileX := t }
  | .y => { c with tileY := t }

def readRow (c : Ctx) (cl : Cluster) (r : Nat) : RowReg := fget (tileOf c cl).rows r {}

def putRow (c : Ctx) (cl : Cluster) (r : Nat) (v : RowReg) : Ctx :=
  setTile c cl { tileOf c cl with rows := fset (tileOf c cl).rows r v }

/-- Write a vector row and mark it full. -/
def writeRow (c : Ctx) (cl : Cluster) (r : Nat) (v : Row) : Ctx := putRow c cl r { bits := v, full := true }

/-- Mark a row empty, for a producer that will fill it (R23, R344). -/
def emptyRow (c : Ctx) (cl : Cluster) (r : Nat) : Ctx :=
  supersede (putRow c cl r { readRow c cl r with full := false }) (.row cl r)

/-- The place of a predicate or q register in its file: those of Y follow those of X. -/
def predIndex (cl : Cluster) (n : Nat) : Nat := match cl with | .x => n | .y => n + 16

def qIndex (cl : Cluster) (n : Nat) : Nat := match cl with | .x => n | .y => n + 8

def readPred (c : Ctx) (cl : Cluster) (n : Nat) : PBits := fget c.arch.preds (predIndex cl n) 0

def writePred (c : Ctx) (cl : Cluster) (n : Nat) (v : PBits) : Ctx :=
  { c with arch := { c.arch with preds := fset c.arch.preds (predIndex cl n) v } }

def readQ (c : Ctx) (cl : Cluster) (n : Nat) : QReg := fget c.arch.qregs (qIndex cl n) {}

def writeQ (c : Ctx) (cl : Cluster) (n : Nat) (v : QReg) : Ctx :=
  { c with arch := { c.arch with qregs := fset c.arch.qregs (qIndex cl n) v } }

def readM (c : Ctx) (k : Nat) : Word := fget c.arch.mregs k 0

/-- Lane i of a row, w bits wide (R277). -/
def lane (row : Row) (w i : Nat) : Nat := row.toNat / 2 ^ (w * i) % 2 ^ w

/-- A row from its lanes in ascending order, w bits each. -/
def rowOfLanes (w : Nat) (vs : List Nat) : Row :=
  BitVec.ofNat 4096 (vs.foldr (fun v acc => v % 2 ^ w + 2 ^ w * acc) 0)

/-- A row with lane i replaced. -/
def setLane (row : Row) (w i v : Nat) : Row :=
  row - BitVec.ofNat 4096 (lane row w i * 2 ^ (w * i)) + BitVec.ofNat 4096 (v % 2 ^ w * 2 ^ (w * i))

/-- The bytes of a row, byte 0 in bits [7:0] (R248). -/
def rowBytes (row : Row) : List Byte := leBytes 512 row.toNat

def rowOfBytes (bs : List Byte) : Row := BitVec.ofNat 4096 (leNat bs)

/-! ### HBM bytes -/

/-- What a byte of HBM that nothing has written reads as (log 13). -/
def unlistedByte : Byte := 0

/-- The canonical form of memory: addresses strictly rising, no entry equal to the unlisted byte. -/
def memWf (m : List Host.Cell) : Bool :=
  match m with
  | [] => true
  | [(_, b)] => b != unlistedByte
  | (a, b) :: (a', b') :: t => b != unlistedByte && decide (a < a') && memWf ((a', b') :: t)

/-- `State.mem` is in canonical form. -/
abbrev Memory.wf (m : List Host.Cell) : Prop := memWf m = true

/-- The byte at a physical address. -/
def memByte (m : List Host.Cell) (a : Nat) : Byte :=
  match m with
  | [] => unlistedByte
  | (j, b) :: t => if j = a then b else memByte t a

/-- The entries of bytes from an address on: none for the unlisted byte. -/
def memCells (a : Nat) (bs : List Byte) : List Host.Cell :=
  match bs with
  | [] => []
  | b :: t => if b = unlistedByte then memCells (a + 1) t else (a, b) :: memCells (a + 1) t

/-- Write bytes from an address on: the entries below, the new ones, the entries above. -/
def memPutAll (m : List Host.Cell) (a : Nat) (bs : List Byte) : List Host.Cell :=
  m.filter (fun e => e.1 < a) ++ memCells a bs ++ m.filter (fun e => a + bs.length ≤ e.1)

/-- Write one byte. -/
def memPut (m : List Host.Cell) (a : Nat) (b : Byte) : List Host.Cell := memPutAll m a [b]

/-- The n bytes from an address. -/
def memBytes (m : List Host.Cell) (a n : Nat) : List Byte :=
  match n with
  | 0 => []
  | k + 1 => memByte m a :: memBytes m (a + 1) k

/-- Make the bytes [lo, hi) zero. -/
def memZero (m : List Host.Cell) (lo hi : Nat) : List Host.Cell :=
  m.filter (fun e => e.1 < lo || hi ≤ e.1)

/-- A little-endian number in memory (R2). -/
def memNat (m : List Host.Cell) (a n : Nat) : Nat := leNat (memBytes m a n)

/-! ### Fixed-latency results -/

/-- The QSTAT word with flags set and lineage overlaps counted, DEPCNT in [31:16] saturating (R96). -/
def qstatAfter (q flags : Word) (deps : Nat) : Word :=
  let cnt := min (field q.toNat 16 16 + deps) 0xFFFF
  (q &&& 0xFFFF_FFFF_0000_FFFF) ||| flags ||| BitVec.ofNat 64 (cnt * 65536)

/-- QSTAT after an `mtk`: bits [2:0] clear where the value holds a 1, DEPCNT is written (R96). -/
def qstatWritten (q v : Word) : Word := (q &&& 0x7 &&& ~~~v) ||| (v &&& 0xFFFF_0000)

/-- Write a landed result to its destination (R208, R302). -/
def landValue (c : Ctx) (d : Dest) (v : Payload) : Ctx :=
  match d, v with
  | .scalar code, .word w res => writeReg c code w res
  | .row cl r, .row bits => writeRow c cl r bits
  | .row cl r, .second bits => writeRow c cl r bits
  | .row cl r, .lane i w x => writeRow c cl r (setLane (readRow c cl r).bits w i x.toNat)
  | .pred cl n, .pbits p => writePred c cl n p
  | .qreg cl n, .q codes lin =>
    writeQ c cl n { codes := codes.getD (readQ c cl n).codes, lin := lin }
  | .loopCount k, .word w _ => { c with arch := { c.arch with lcount := fset c.arch.lcount k w } }
  | .stride k j, .stride x => { c with arch := { c.arch with strides := fset c.arch.strides (4 * k + j) x } }
  | .mreg k, .word w _ => { c with arch := { c.arch with mregs := fset c.arch.mregs k w } }
  | .kspace i, .word w _ =>
    kset (if i = 0xC5 then { c with linkOpen := false } else c) i (if i = 0x0A then qstatWritten (kget c 0x0A) w else w)
  | .kspace i, .orWord w => kset c i (kget c i ||| w)
  | .kspace i, .qstat flags deps => kset c i (qstatAfter (kget c i) flags deps)
  | _, _ => c

/-- A failed division check is taken before the next bundle (R408, kind 5). -/
def divTrap (code slot : Nat) : TrapInfo := { cause := 0x15, code := 5, addr := BitVec.ofNat 64 code, slot := slot }

/-- A register or row is full; the other destinations have no full mark (R23). -/
def destFull (c : Ctx) (d : Dest) : Bool :=
  match d with
  | .scalar code => (readReg c code).full
  | .row cl r => (readRow c cl r).full
  | _ => true

/-- Land one result; one that is due before the producer that has taken over its destination fills it writes nothing (R344; log 96). -/
def landOne (c : Ctx) (f : InFlight) : Ctx :=
  let c' := if f.under && !destFull c f.dest then c else landValue c f.dest f.val
  match f.divBad, f.dest with
  | true, .scalar code => { c' with deferred := c'.deferred ++ [divTrap code f.slot] }
  | _, _ => c'

/-- The remaining latency of a result, counted from a cycle; and the result again, counted from another one (R399). -/
def toFrozen (c0 : Nat) (f : InFlight) : Frozen :=
  { r := f.due - c0, dest := f.dest, val := f.val, divBad := f.divBad, late := f.late, under := f.under, slot := f.slot }

def ofFrozen (c0 : Nat) (f : Frozen) : InFlight :=
  { due := c0 + f.r, dest := f.dest, val := f.val, divBad := f.divBad, late := f.late, under := f.under, slot := f.slot }

/-- Land every result due by cycle t, in landing order; of results that land in one cycle the one issued
later lands last (R209). -/
def landDue (c : Ctx) (t : Nat) : Ctx :=
  let due := c.flight.filter (fun f => f.due ≤ t)
  let sorted := sortBy (fun a b => decide (a.due ≤ b.due)) due
  sorted.foldl landOne { c with flight := c.flight.filter (fun f => t < f.due) }

/-- Results whose landing cycle lies before cycle t have landed (R208). -/
def landPast (c : Ctx) (t : Nat) : Ctx := if t = 0 then c else landDue c (t - 1)

/-- The q results and QSTAT notes due by cycle t have landed, and whatever was due before it (R302). -/
def landQ (c : Ctx) (t : Nat) : Ctx :=
  let isQ (f : InFlight) : Bool := f.due ≤ t && (match f.dest with | .qreg .. => true | .kspace i => i == 0x0A | _ => false)
  let c1 := landPast c t
  (c1.flight.filter isQ).foldl landOne { c1 with flight := c1.flight.filter (fun f => !isQ f) }

/-- Put a result in flight, to land n cycles after the present issue (R208). -/
def inFlightAfter (s : State) (n : Nat) (d : Dest) (v : Payload) : InFlight :=
  { due := now s + n, dest := d, val := v }

def sendResult (s : State) (f : InFlight) : State :=
  setMe s { me s with flight := (me s).flight ++ [{ f with late := (me s).xfer.isSome }] }

/-! ### Error banks -/

/-- The bank of a core (R417). -/
def bankOf (s : State) (u : BankUnit) : Bank :=
  match s.banks.find? (fun e => e.1 == u) with
  | some e => e.2
  | none => {}

def setBank (s : State) (u : BankUnit) (b : Bank) : State :=
  if s.banks.any (fun e => e.1 == u) then
    { s with banks := s.banks.map (fun e => if e.1 == u then (u, b) else e) }
  else { s with banks := s.banks ++ [(u, b)] }

/-- What a bank's record says. -/
structure ErrRecord where
  kind : Nat
  addr : Nat := 0
  code : Nat := 0
  cid  : Option Nat := none

/-- A new error in a bank (R418). The syndrome of a record is a free value: the spec gives its classes and not its numbers
(R409, R417; log 72). -/
def recordError (s : State) (u : BankUnit) (corrected : Bool) (e : ErrRecord) : State :=
  let b := bankOf s u
  let write (b : Bank) : Bank :=
    { b with
      v := true, kind := if corrected then 0 else e.kind, addr := e.addr, syndrome := (Config.freeWord s.free).toNat % 65536
      code := e.code, gts := s.gts
      taskid := match e.cid with | some c => kget (ctxOf s c) 0x10 | none => 0
      source := match e.cid with | some c => sourceOf s c | none => 0 }
  let b' :=
    if corrected then
      let b1 := { b with cecnt := min (b.cecnt + 1) 0xFFFF }
      if b.v then b1 else { write b1 with uc := false }
    else
      let b1 := { b with uecnt := min (b.uecnt + 1) 0xFFFF }
      if !b.v || !b.uc then { write b1 with uc := true } else { b1 with ovf := true }
  setBank { s with free := s.free + 1 } u b'

/-- Counters saturate at 64 bits (R420, R435). -/
def count (s : State) (k n : Nat) : State :=
  { s with counters := fset s.counters k (min (fget s.counters k 0 + n) (2 ^ 64 - 1)) }

/-! ### Step-deferred writes -/

/-- Tidepool entries of a write: one for each 16 bytes or part of them (R140). -/
def poolEntries (w : DWrite) : Nat := (w.bytes.length + 15) / 16

/-- Entries in use over the step groups. -/
def poolUsed (s : State) : Nat :=
  (s.groups.flatMap (fun e => e.2.writes ++ e.2.early)).foldl (fun n w => n + poolEntries w) 0

/-- Entries that the tidepool and the spill area hold. -/
def poolSize (s : State) : Nat := (s.tideGiB + s.spillGiB) * 2 ^ 24

/-- The package of a source number (R138). -/
def packageOf (source : Nat) : Nat := source / 2048

/-- A write reaches its owner's tidepool (R137, R140): of the present step it is kept, or discarded where its
source is excluded; of the next step it waits; it is dropped where there is no room. -/
def acceptWrite (s : State) (w : DWrite) : State :=
  match fget? s.groups w.sgid with
  | none => s
  | some g =>
    let this := w.step == g.stepno.toNat
    let following := w.step == (g.stepno + 1).toNat
    let full := decide (poolSize s < poolUsed s + poolEntries w)
    let w' := if full then { w with bytes := [] } else w
    if (!this && !following) || (this && g.decided && g.excluded.contains (packageOf w.source)) then
      { s with groups := fset s.groups w.sgid { g with stcexcl := g.stcexcl + 1 } }
    else
      let g1 := if full then { g with
          stcdrop := g.stcdrop + 1, dropped := if this then g.dropped + 1 else g.dropped
          droppedNext := if this then g.droppedNext else g.droppedNext + 1 } else g
      let g2 := if this then { g1 with writes := g1.writes ++ [w'] } else { g1 with early := g1.early ++ [w'] }
      { s with groups := fset s.groups w.sgid g2 }

/-- The index of the task of a context. -/
def taskIndex (c : Ctx) : Nat := (c.task.map (·.index)).getD 0

/-- The context of a source number (R138). -/
def cidOf (source : Nat) : Nat := source % 2048

/-- Hand a step-deferred write to the tidepool of the owning package and count it as sent in its step (R136, R137). A sealed
task's write, held in a segment until now, is discarded and counted; so is one of a step that is over (R142). The parts of one store
for several owners count as one (R334). -/
def sendDeferred (s : State) (owner : Nat) (w : DWrite) : State :=
  match fget? s.groups w.sgid with
  | none => s
  | some g =>
    let this := w.step == g.stepno.toNat
    if g.sealed.contains (taskIndex (ctxOf s (cidOf w.source))) || (!this && w.step != (g.stepno + 1).toNat) then
      { s with groups := fset s.groups w.sgid { g with stcexcl := g.stcexcl + (if w.more then 0 else 1) } }
    else
      let g1 := if this then { g with sent := fset g.sent owner (fget g.sent owner 0 + 1) }
        else { g with sentNext := fset g.sentNext owner (fget g.sentNext owner 0 + 1) }
      let s1 := { s with groups := fset s.groups w.sgid g1 }
      if owner = s.pkg then acceptWrite s1 w
      else { s1 with outbox := s1.outbox ++ [.write owner w] }

/-! ### Segments -/

/-- The results of variable-latency producers of a context no longer belong to an open segment (R413). -/
def clearGens (s : State) (cid : Nat) : State :=
  let core := coreOf s (cid / 4)
  let s1 := { s with
    loads := s.loads.map (fun l => if l.cid = cid then { l with gen := none } else l)
    pends := s.pends.map (fun p => if p.cid = cid then { p with gen := none } else p) }
  setCore s1 (cid / 4)
    { core with sfu := core.sfu.map (fun r => if r.cid = cid then { r with gen := none } else r) }

/-- A scratchpad with the 32 rows of a slot zero. -/
def zeroSlot (spad : File Row) (slot : Nat) : File Row := spad.filter (fun e => e.1 / 32 != slot)

/-- The words of scratchpad slots are freshly written. -/
def freshSlots (core : Core) (ks : List Nat) : Core :=
  { core with
    spadBad := core.spadBad.filter (fun w => !ks.contains (w / 2048))
    spadOne := core.spadOne.filter (fun w => !ks.contains (w / 2048)) }

/-- The posted slots of a channel stop waiting. -/
def releasePosted (ps : List Posted) : List Posted := ps.map (fun p => { p with waits := false, zero := false })

/-- The slots of a context's channels that are to be zero-filled when its segment ends. -/
def zeroPosted (core : Core) (ctx : Nat) : List Nat :=
  (core.chans.filter (fun e => field e.2.entry.toNat 13 2 == ctx)).flatMap
    (fun e => (e.2.posted.filter (·.zero)).map (·.slot))

/-- Engine work that waited for the segment of a context may start (R118, R152). -/
def releaseEngineWork (s : State) (cid : Nat) : State :=
  let core := freshSlots (coreOf s (cid / 4)) (zeroPosted (coreOf s (cid / 4)) (cid % 4))
  setCore s (cid / 4)
    { core with
      mqueue := core.mqueue.map (fun r => if r.cid = cid then { r with waits := false } else r)
      cqueue := core.cqueue.map (fun o => if o.cid = cid then { o with waits := false } else o)
      sendWait := core.sendWait.map (fun o => if o.cid = cid then { o with waits := false } else o)
      spad := (zeroPosted core (cid % 4)).foldl zeroSlot core.spad
      chans := core.chans.map (fun e =>
        if field e.2.entry.toNat 13 2 = cid % 4 then (e.1, { e.2 with posted := releasePosted e.2.posted }) else e) }

/-- End the acting context's open segment: its stores are released into the write buffers in program order
(R87), its step-deferred stores go to their tidepools, waiting engine work may start. -/
def endSegment (s : State) : State :=
  match (me s).seg with
  | none => s
  | some g =>
    let s1 := setMe s { me s with seg := none, retry := none }
    let s2 := { s1 with wbuf := s1.wbuf ++ g.stores }
    let s3 := g.dwrites.foldl (fun t (d : Nat × DWrite) => sendDeferred t d.1 d.2) s2
    releaseEngineWork (clearGens s3 s3.cur) s3.cur

/-- The context writes a row: its old content goes into the undo log at the first write of a segment
(R412). -/
def logRow (s : State) (cl : Cluster) (r : Nat) : State :=
  match (me s).seg with
  | none => s
  | some g =>
    if g.undo.any (fun u => match u with | .row cl' r' _ => cl' == cl && r' == r | .spad .. => false) then s
    else setMe s { me s with seg := some { g with undo := g.undo ++ [.row cl r (readRow (me s) cl r)] } }

def logSpad (s : State) (row : Nat) : State :=
  match (me s).seg with
  | none => s
  | some g =>
    if g.undo.any (fun u => match u with | .spad r' _ => r' == row | .row .. => false) then s
    else
      let old := fget (coreOf s (myCore s)).spad row 0
      setMe s { me s with seg := some { g with undo := g.undo ++ [.spad row old] } }

/-! ### The end of a task -/

/-- The acting context no longer issues: its core looks for another one, starting after it (R44). -/
def yieldCore (s : State) : State :=
  let core := coreOf s (myCore s)
  setCore s (myCore s)
    { core with
      running := if core.running = some (s.cur % 4) then none else core.running
      last := s.cur % 4 }

/-- The context stops: `halt` (R275), `tend`, a trap without a handler (R68, R398), an expiry (R50), a second
failure (R415). The task completes once its engine work is done (R13, TASK_COMPLETE). -/
def stopTask (s : State) (how : Ending) : State :=
  let c := me s
  yieldCore (setMe s { c with
    status := .blocked .ended
    task := c.task.map (fun t => { t with ending := how })
    xfer := none, imm := none
    arch := { c.arch with loops := [] } })

/-! ### Taking a trap and returning from one -/

/-- TINFO (R397). -/
def tinfoWord (t : TrapInfo) : Word :=
  BitVec.ofNat 64
    (t.qual % 16 + (if t.copy then 16 else 0) + (if t.pipe then 32 else 0) + (if t.wr then 64 else 0)
      + (if t.dfr then 128 else 0) + t.code % 256 * 2 ^ 8 + t.row % 128 * 2 ^ 16 + t.slot % 8 * 2 ^ 23
      + t.plane % 16 * 2 ^ 26 + min t.dcnt 0xFFFF * 2 ^ 32)

/-- Freeze the results in flight: r is the landing cycle less the cycle in which the next unit would have
issued (R399). -/
def freeze (c : Ctx) (c0 : Nat) : Ctx :=
  { c with
    frozen := c.flight.map (toFrozen c0)
    flight := [] }

/-- Move a pending transfer into TXFER, TLINK and TXCTL (R396, R397). -/
def saveXfer (c : Ctx) : Ctx :=
  match c.xfer with
  | none => kset (kset (kset c 0xC4 0) 0xC5 0) 0xC6 0
  | some x =>
    let ctl := x.count % 4 + (match x.link with | some l => l % 8 * 4 | none => 32)
    kset (kset (kset { c with xfer := none, linkOpen := !x.known } 0xC4 (x.target ||| 1)) 0xC5 x.value) 0xC6 (BitVec.ofNat 64 ctl)

/-- Where a trap continues: DBGENT for a breakpoint or step trap in debug mode (R406), else the launch's TRAP
entry; 0 where there is none. -/
def trapTarget (c : Ctx) (cause : Nat) : Word :=
  if inDebug c && (cause == 0x0E || cause == 0x14) && kget c 0xD1 != 0 then kget c 0xD1
  else match c.task with | some t => t.trapEntry | none => 0

/-- How many results are in flight; a row pair is one (R297, R402). -/
def flightCount (c : Ctx) : Nat := c.flight.countP (fun f => match f.val with | .second _ => false | _ => true)

/-- The trap registers after a trap (R396, R397). -/
def writeTrapRegs (c : Ctx) (t : TrapInfo) (resume : Word) : Ctx :=
  kset (kset (kset (kset (kset c 0xC0 (BitVec.ofNat 64 (t.cause % 256 + 256))) 0xC1 resume) 0xC2 t.addr) 0xC3
    (tinfoWord t)) 0xC7 (BitVec.ofNat 64 (flightCount c))

/-- A `rdv` that is waiting when a trap is taken reissues after it: its generation is taken back (R253). -/
def withdrawRdv (c : Ctx) : Ctx :=
  match c.phase with
  | .rdvIssued n gen => { c with phase := .none, arch := { c.arch with rdvGen := fset c.arch.rdvGen n (gen - 1) } }
  | _ => { c with phase := .none }

/-- Take a trap (R396). In handler mode the task ends with cause 0x16 (R398); with no handler the task ends
(R68, R233). The context has stopped: it is READY to go on in the handler (R44; log 65). -/
def takeTrap (s : State) (t : TrapInfo) (resume : Word) : State :=
  let s1 := endSegment s
  let c := { landPast (me s1) (now s1) with trapUnit := t.unit }
  if inHandler c then stopTask s1 (.trapped { t with cause := 0x16, code := t.cause })
  else if trapTarget c t.cause = 0 then stopTask s1 (.trapped t)
  else
    let c1 := freeze (writeTrapRegs c t resume) (now s1)
    let c2 := withdrawRdv (saveXfer c1)
    yieldCore (setMe s1 { c2 with
      status := .ready
      shelf := c2.arch.loops
      arch := { c2.arch with loops := [] }
      imm := none
      tended := false
      tendShelf := c2.tended
      pc := trapTarget c t.cause
      npc := trapTarget c t.cause })

/-- The registers an outstanding load fills. -/
def loadFills (u : LoadUse) : List Dest :=
  match u with
  | .scalar code size _ => if size = 16 then [.scalar code, .scalar (code + 1)] else [.scalar code]
  | .row cl r => [.row cl r]
  | .atom _ code size _ _ => if size = 16 then [.scalar code, .scalar (code + 1)] else [.scalar code]
  | .jtabHead b .. => [.scalar (0x50 + b)]
  | .jtabEntry b .. => [.scalar (0x50 + b)]

/-- A variable-latency producer of the acting context is outstanding for a destination (R344). -/
def producing (s : State) (d : Dest) : Bool :=
  s.loads.any (fun l => l.cid == s.cur && (loadFills l.use).contains d)
    || s.pends.any (fun p => p.cid == s.cur && decide (d = .scalar p.code))
    || (coreOf s (myCore s)).sfu.any (fun r => r.cid == s.cur && decide (d = .row r.cl r.row))

/-- A destination of the acting context is empty, and a producer will fill it (R344). -/
def unfilled (s : State) (d : Dest) : Bool := !destFull (me s) d && producing s d

/-- The transfer that TXFER, TLINK and TXCTL of the acting context hold (R398): a COUNT of 0 is taken as 1. The link is not written
while a producer of the handler, or of the code before it, has its register empty (R344; log 96). -/
def restoredXfer (s : State) : Option Xfer :=
  let c := me s
  if (kget c 0xC4).getLsbD 0 then
    let ctl := (kget c 0xC6).toNat
    some {
      target := kget c 0xC4 &&& ~~~(1 : Word)
      link := if bitAt ctl 5 then none else some (field ctl 2 3)
      value := kget c 0xC5
      count := if ctl % 4 = 0 then 1 else ctl % 4
      known := !c.linkOpen
      overtaken := unfilled s (.scalar (0x50 + field ctl 2 3)) }
  else none

/-- Return from a trap handler (R398): the sequencer is unshelved, the pending transfer restored, HM cleared,
execution continues at TPC, and the frozen results land at c + r (R399), each before a result of the `rfe` bundle of the same
cycle (R209). -/
def returnFromTrap (s : State) : State :=
  let c := me s
  let t := now s
  let later (f : InFlight) : InFlight := { f with late := (restoredXfer s).isSome }
  setMe s { kset c 0xC0 (kget c 0xC0 &&& ~~~(0x100 : Word)) with
    arch := { (kset c 0xC0 (kget c 0xC0 &&& ~~~(0x100 : Word))).arch with loops := c.shelf }
    shelf := []
    xfer := restoredXfer s
    pc := kget c 0xC1
    npc := kget c 0xC1
    flight := c.frozen.map (ofFrozen t) ++ c.flight.map later
    frozen := []
    linkOpen := false
    tended := c.tendShelf
    tendShelf := false }

/-! ### Blocking -/

/-- The bundle blocks, for a reason and perhaps further ones (R43): it has no effect and reissues whole; the core looks for
another context. -/
def blockOn (s : State) (why : Reason) (more : List Reason := []) : State :=
  yieldCore (setMe s { me s with status := .blocked why, alsoOn := more, imm := none })

/-! ### The end of a unit -/

/-- Cycles pass on the acting context's core. -/
def advance (s : State) (n : Nat) : State :=
  let core := coreOf s (myCore s)
  setCore s (myCore s) { core with cycle := core.cycle + n }

/-- The link of a transfer is written for cycle t: the results due by then that issued before the `call` land ahead of it, and
those of the delay region keep their order behind it (R209, R224). -/
def writeLink (c : Ctx) (t l : Nat) (v : Word) : Ctx :=
  let c1 := landPast c t
  let ahead (f : InFlight) : Bool := f.due ≤ t && !f.late && decide (f.dest = .scalar (0x50 + l))
  writeReg ((c1.flight.filter ahead).foldl landOne { c1 with flight := c1.flight.filter (fun f => !ahead f) }) (0x50 + l) v 0

/-- The results in flight are those of one stream again. -/
def clearLate (c : Ctx) : Ctx := { c with flight := c.flight.map (fun f => { f with late := false }) }

/-- Carry a pending transfer through n delay cycles up to cycle t: after the last of them fetch moves to the target and the
link register is written, with the address that then follows where it was not known before (R224, R226). -/
def stepXfer (c : Ctx) (n t : Nat) : Ctx :=
  match c.xfer with
  | none => { c with pc := c.npc }
  | some x =>
    if x.count ≤ n then
      let c1 := { c with xfer := none, pc := x.target, npc := x.target }
      clearLate (match x.link with
        | some l => if x.overtaken && !(readReg c (0x50 + l)).full then landPast c1 t else writeLink c1 t l (if x.known then x.value else c.npc)
        | none => c1)
    else { c with pc := c.npc, xfer := some { x with count := x.count - n } }

/-- The unit has issued and taken n cycles: the latch is emptied (R10), the pc moves on, a pending transfer
counts down. -/
def moveOn (s : State) (n : Nat) : State :=
  let s1 := advance s n
  setMe s1 { stepXfer (me s1) n (now s1) with imm := none, phase := .none }

/-- The step trap of debug mode (R407). -/
def stepTrapDue (c : Ctx) : Bool := (kget c 0xD0).getLsbD 1 && !inHandler c

/-- A unit without traps of its own has issued. -/
def finishUnit (s : State) (n : Nat) : State :=
  let s1 := moveOn s n
  if stepTrapDue (me s1) then takeTrap s1 { cause := 0x14 } (me s1).pc else s1

/-- A unit that stops before it issues traps with itself as the resume point (R396). -/
def trapHere (s : State) (t : TrapInfo) : State := takeTrap s t (me s).pc

/-- The matrix cores are held: not enabled yet, or parked (R369, R425, R432). -/
def engineHeld (s : State) : Bool := s.cold.state < 4 || s.cold.state = 9

end Sys2Proof.Machine
end

