-- ==== Sys2Proof/Machine/Image.lean ====
section
/-! DEFINITION. The bytes of a context image (R402; log 9 has the places inside the blocks that R402 only names), and where they lie:
in the save area that the task holds, and on flash (R401, R404). -/

namespace Sys2Proof.Machine

/-! ### CRC-32C (R181) -/

/-- One bit of CRC-32C. -/
def crcBits (c k : Nat) : Nat :=
  match k with
  | 0 => c
  | j + 1 => crcBits (if c % 2 = 1 then c / 2 ^^^ 0x82F63B78 else c / 2) j

/-- CRC-32C of bytes (R181). -/
def crc32c (bs : List Byte) : Nat := bs.foldl (fun c b => crcBits (c ^^^ b.toNat) 8) 0xFFFF_FFFF ^^^ 0xFFFF_FFFF

/-! ### The pieces of an image -/

/-- The SIZE of an image. -/
def imageSize : Nat := 278528

/-- A block of the layout: its bytes, and zeros up to its size. -/
def block (n : Nat) (bs : List Byte) : List Byte := bs.take n ++ leBytes (n - bs.length) 0

/-- Bits of a list, the first the least significant. -/
def bitsOf (bs : List Bool) : Nat := bs.foldr (fun b n => 2 * n + (if b then 1 else 0)) 0

/-- Nibbles of a list, the first the least significant. -/
def nibblesOf (ns : List Nat) : Nat := ns.foldr (fun v n => 16 * n + v) 0

/-- s, a, b, c, the residues of s and a, the full bits of s, a and b. -/
def imageRegs (c : Ctx) : List Byte :=
  let regs (k n : Nat) : List Reg := (List.range n).map (fun i => readReg c (k + i))
  let words (rs : List Reg) : List Byte := rs.flatMap (fun r => leBytes 8 r.val.toNat)
  words (regs 0 80) ++ words (regs 0x50 8) ++ leBytes 8 (bitsOf ((regs 0x58 16).map (fun r => r.val.getLsbD 0)))
    ++ leBytes 40 (nibblesOf ((regs 0 80).map (fun r => r.res.toNat))) ++ leBytes 11 (bitsOf ((regs 0 88).map (·.full)))

/-- Open levels: the iteration counters and the body starts of levels 1 to 6, the mask of those open and of those in their first
iteration. -/
def imageLoops (ls : List Loop) : List Byte :=
  let of (k : Nat) : Option Loop := ls.find? (fun l => l.level == k)
  let levels := [1, 2, 3, 4, 5, 6]
  levels.flatMap (fun k => leBytes 8 (((of k).map (·.count)).getD 0)) ++ levels.flatMap (fun k => leBytes 8 (((of k).map (·.body.toNat)).getD 0))
    ++ leBytes 1 (2 * bitsOf (levels.map (fun k => (of k).isSome))) ++ leBytes 1 (2 * bitsOf (levels.map (fun k => (of k).any (·.first))))

/-- l1 to l6, the open levels, the stride slots (value, then register code, 0 for one that is disabled), the levels a handler has
shelved. -/
def imageLevels (c : Ctx) : List Byte :=
  let slots := (List.range 24).map (fun k => fget c.arch.strides (k + 4) none)
  [1, 2, 3, 4, 5, 6].flatMap (fun k => leBytes 8 (fget c.arch.lcount k 0).toNat) ++ imageLoops c.arch.loops
    ++ slots.flatMap (fun x => leBytes 8 ((x.map (·.2.toNat)).getD 0)) ++ slots.flatMap (fun x => leBytes 1 ((x.map (·.1)).getD 0))
    ++ imageLoops c.shelf

/-- The indices of the context registers of the k-space (R235, R397), each 8 bytes of its block. -/
def imageIndices : List Nat :=
  (List.range 11).map (· + 1) ++ [0x10, 0x11, 0x12, 0x18, 0x19, 0x1A] ++ (List.range 12).map (· + 0xC0) ++ [0xD0, 0xD1]

/-- A pending transfer: target, link value, delay units left, link register, what holds of the link. -/
def imageXfer (x : Option Xfer) : List Byte :=
  match x with
  | some t => leBytes 8 t.target.toNat ++ leBytes 8 t.value.toNat ++ leBytes 1 t.count ++ leBytes 1 (t.link.getD 0)
      ++ leBytes 1 (bitsOf [true, t.link.isSome, t.known, t.overtaken])
  | none => leBytes 19 0

/-- The k-space, the 16 LIN masks, m0 to m7, the queue bound, the pending transfer, the full bits of the rows. -/
def imageKspace (c : Ctx) : List Byte :=
  imageIndices.flatMap (fun k => leBytes 8 (kget c k).toNat)
    ++ (List.range 16).flatMap (fun n => leBytes 1 (fget c.arch.qregs n {}).lin.toNat)
    ++ (List.range 8).flatMap (fun k => leBytes 8 (fget c.arch.mregs k 0).toNat) ++ leBytes 8 c.arch.mbound
    ++ block 24 (imageXfer c.xfer)
    ++ leBytes 16 (bitsOf ((List.range 128).map (fun r => (readRow c .x r).full)))
    ++ leBytes 16 (bitsOf ((List.range 128).map (fun r => (readRow c .y r).full)))

/-- A queued routine: where it starts, its length, its MODE, the tiles that it holds, its copy of m0 to m7, its place in the issue
order. -/
def imageRoutine (r : Routine) : List Byte :=
  block 104 (leBytes 2 r.start ++ leBytes 2 r.len ++ leBytes 1 r.mode
    ++ leBytes 1 (bitsOf [r.tiles.contains (.acc false), r.tiles.contains (.acc true)])
    ++ leBytes 24 (bitsOf ((List.range 192).map (fun k => r.tiles.contains (.slot k))))
    ++ (List.range 8).flatMap (fun k => leBytes 8 (r.mcopy.getD k 0).toNat) ++ leBytes 8 r.num)

/-- The routine cut short: its queue entry, its next micro-op, its last `wld`, its loop counters, its pointers and indices. -/
def imageCut (r : Option Run) : List Byte :=
  match r with
  | some x => imageRoutine x.r ++ leBytes 2 x.pc ++ leBytes 2 ((x.lastWld.map (· + 1)).getD 0) ++ leBytes 1 x.loops.length
      ++ block 36 (x.loops.flatMap (fun l => leBytes 2 l.1 ++ leBytes 4 l.2))
      ++ (List.range 8).flatMap (fun k => leBytes 2 (((fget? x.ptrs k).map (· + 1)).getD 0))
      ++ (List.range 4).flatMap (fun k => leBytes 4 ((fget x.idx k 0) % 2 ^ 32).toNat)
  | none => []

/-- The number of a kind of copy. -/
def copyCode (k : CopyKind) : Nat :=
  match k with
  | .cpin => 0 | .cpout => 1 | .cpaccIn => 2 | .cpaccOut => 3 | .cpfill => 4 | .chsnd => 5 | .cwtw => 6 | .cwtr => 7 | .node => 8

/-- A copy operation: its descriptor and its progress. -/
def imageCopy (o : CopyOp) : List Byte :=
  block 40 (leBytes 1 (copyCode o.kind) ++ leBytes 8 o.va.toNat ++ leBytes 8 o.word.toNat ++ leBytes 8 o.word2.toNat
    ++ leBytes 1 o.slot ++ leBytes 1 o.nslots ++ leBytes 2 o.row ++ leBytes 2 o.nrows ++ leBytes 2 o.rowBytes
    ++ leBytes 1 (bitsOf [o.started, o.held.isSome, o.accY.isSome, o.accY == some true]))

/-- A list of entries: how many, and each. -/
def counted {α : Type} (f : α → List Byte) (xs : List α) : List Byte := leBytes 8 xs.length ++ xs.flatMap f

/-- A load pipe's record. -/
def imagePipe (p : Option PipeRec) : List Byte :=
  match p with
  | some x => leBytes 1 1 ++ leBytes 1 (copyCode x.kind) ++ leBytes 8 x.addr.toNat ++ leBytes 1 x.code ++ leBytes 1 x.qual ++ leBytes 1 x.row
  | none => []

/-- The number of an owner and of an accumulator type. -/
def ownerCode (w : Owner) : Nat := match w with | .thread => 0 | .copy => 1 | .matrix => 2 | .channel => 3
def typeCode (t : AccType) : Nat := match t with | .none => 0 | .fp32 => 1 | .i32 => 2

/-- What the engines hold of the task: routines, the one cut short, held copies with their pipe records, head latches, send-wait
entries, owners, types and amax of X and Y, and the engine status. -/
def imageEngines (sv : Saved) : List Byte :=
  let c := sv.ctx
  block 528 (counted imageRoutine sv.queue) ++ block 256 (imageCut sv.run) ++ block 648 (counted imageCopy sv.copies)
    ++ [0, 1].flatMap (fun k => block 16 (imagePipe (fget? sv.pipes k)))
    ++ (List.range 8).flatMap (fun k =>
        let l := fget c.latches k (0, [])
        block 18 (leBytes 1 l.1 ++ leBytes 1 l.2.length ++ l.2.flatMap (leBytes 1)))
    ++ block 328 (counted imageCopy sv.sends)
    ++ [c.tileX, c.tileY].flatMap (fun t => leBytes 1 (ownerCode t.owner) ++ leBytes 1 (typeCode t.atype) ++ leBytes 2 t.amax.toNat)
    ++ leBytes 8 (c.ecause * 256 + (if c.iovf then 65536 else 0) + c.bhold % 2 ^ 32 * 2 ^ 32)

/-- The class and the code of a destination. -/
def destClass (d : Dest) : Nat × Nat :=
  let of (cl : Cluster) (n : Nat) : Nat := match cl with | .x => n | .y => n + 1
  match d with
  | .scalar code => (if code < 0x50 then 0 else if code < 0x58 then 1 else 2, code)
  | .row cl r => (of cl 3, r)
  | .pred cl n => (of cl 5, n)
  | .qreg cl n => (of cl 7, n)
  | .loopCount k => (9, k)
  | .stride k j => (9, 8 + 4 * k + j)
  | .mreg k => (10, k)
  | .kspace i => (11, i)

/-- A payload: its scalar value, residue, LIN, and the bytes of its value slot. A lane's number and width, a stride's register and
what goes into DEPCNT stand there too (log 9). -/
def payloadParts (v : Payload) : Nat × Nat × Nat × List Byte :=
  match v with
  | .word w r => (w.toNat, r.toNat, 0, [])
  | .row r => (0, 0, 0, rowBytes r)
  | .second r => (0, 0, 0, rowBytes r)
  | .lane i w v => (v.toNat, 0, 0, leBytes 2 i ++ leBytes 2 w)
  | .pbits p => (0, 0, 0, leBytes 64 p.toNat)
  | .q codes lin => (0, 0, lin.toNat, (codes.map rowBytes).getD [])
  | .stride x => ((x.map (fun e => e.2.toNat)).getD 0, 0, 0, leBytes 1 ((x.map (·.1)).getD 0))
  | .qstat flags deps => (flags.toNat, 0, 0, leBytes 2 deps)
  | .orWord w => (w.toNat, 0, 0, [])

/-- A result of a saved context that is still to be written: when, where, what, the second row of a pair, frozen by a trap, and its
destination taken over by a producer (R344). -/
structure ImageResult where
  r      : Nat
  dest   : Dest
  val    : Payload
  pair   : Option Row := none
  frozen : Bool
  under  : Bool

/-- Its descriptor, the k-th; byte 14 holds what R402 gives no place (log 9). -/
def imageDescriptor (k : Nat) (e : ImageResult) : List Byte :=
  let p := payloadParts e.val
  leBytes 8 p.1 ++ leBytes 1 (destClass e.dest).2 ++ leBytes 1 (destClass e.dest).1 ++ leBytes 1 e.r
    ++ leBytes 1 (1 + (if e.pair.isSome then 2 else 0) + (if e.frozen then 4 else 0) + 16 * p.2.1) ++ leBytes 1 k ++ leBytes 1 p.2.2.1
    ++ leBytes 1 (if e.under then 1 else 0) ++ leBytes 1 0

/-- Its value slot: the rows of a pair follow each other. -/
def imageValue (e : ImageResult) : List Byte :=
  block 1024 ((payloadParts e.val).2.2.2 ++ (match e.pair with | some r => rowBytes r | none => []))

/-- The two rows of a pair are one result (R297, R402). -/
def joinPairs (rs : List ImageResult) : List ImageResult :=
  match rs with
  | [] => []
  | e :: t =>
    match joinPairs t with
    | [] => [e]
    | x :: u => match x.val with
      | .second r => if x.pair.isNone then { e with pair := some r } :: u else e :: x :: u
      | _ => e :: x :: u

/-- The results of a saved context that are still to be written: those in flight, then those that a trap has frozen. -/
def imageResults (c : Ctx) : List ImageResult :=
  joinPairs (c.flight.map (fun f => { r := f.due, dest := f.dest, val := f.val, frozen := false, under := f.under })
    ++ c.frozen.map (fun f => { r := f.r, dest := f.dest, val := f.val, frozen := true, under := f.under }))

/-! ### The image -/

/-- The bytes from 256 on (R402). -/
def imageBody (sv : Saved) : List Byte :=
  let c := sv.ctx
  let rs := (imageResults c).zipIdx
  block 0x400 (imageRegs c) ++ block 0x200 (imageLevels c) ++ block 0x400 (imageKspace c)
    ++ block 0x800 ((List.range 32).flatMap (fun n => leBytes 64 (fget c.arch.preds n 0).toNat))
    ++ block 0x2000 ((List.range 16).flatMap (fun n => rowBytes (fget c.arch.qregs n {}).codes))
    ++ block 0x800 (imageEngines sv)
    ++ block 0x600 (rs.flatMap (fun e => imageDescriptor e.2 e.1))
    ++ block 0x1BF00 (rs.flatMap (fun e => imageValue e.1))
    ++ (List.range 512).flatMap (fun k => leBytes 32 (fget c.cwt k 0).toNat)
    ++ (List.range 128).flatMap (fun r => rowBytes (readRow c .x r).bits)
    ++ (List.range 128).flatMap (fun r => rowBytes (readRow c .y r).bits)

/-- The header, whose CRC-32C is over the bytes from 256 on. -/
def imageHeader (sv : Saved) : List Byte :=
  let c := sv.ctx
  block 256 (leBytes 2 1 ++ leBytes 2 (bitsOf [sv.res, sv.fcopy, inHandler c, inDebug c]) ++ leBytes 4 imageSize
    ++ leBytes 8 (kget c 0x10).toNat ++ leBytes 8 (kget c 0x11).toNat ++ leBytes 8 (kget c 0x12).toNat ++ leBytes 8 c.pc.toNat
    ++ leBytes 4 (crc32c (imageBody sv)) ++ leBytes 4 0 ++ leBytes 8 sv.block)

/-- The image of a saved context (R402). -/
def imageBytes (sv : Saved) : List Byte := imageHeader sv ++ imageBody sv

/-! ### Where it lies -/

/-- Where a die's pool of save areas starts: at the top of its first stack, and for die H of stack 1 (log 15). -/
def poolBase (die : Nat) : Nat := ((if die < 4 then 2 * die else 1) + 1) * 2 ^ 36 - Config.saveAreas * imageSize

/-- The first free save area of a die's pool (R401). -/
def freeArea (s : State) (die : Nat) : Option Nat :=
  ((List.range Config.saveAreas).map (fun k => poolBase die + k * imageSize)).find? (fun a => s.saved.all (fun e => e.2.area != some a))

/-- The image is written to the area that the task holds; the check bits of its sectors are clean, and what patrol scrub was to write
back to them is dropped (R428). -/
def imageToArea (s : State) (sv : Saved) : State :=
  match sv.area with
  | some a => { s with
      mem := memPutAll s.mem a (imageBytes sv)
      sectors := s.sectors.filter (fun e => e.1 < a / 32 || (a + imageSize) / 32 ≤ e.1)
      cold := { s.cold with scrubs := s.cold.scrubs.filter (fun k => k < a / 32 || (a + imageSize) / 32 ≤ k) } }
  | none => s

/-- The image is written to flash from its first block on. -/
def imageToFlash (s : State) (sv : Saved) : State :=
  { s with nvme := fset s.nvme sv.block (((imageBytes sv).zipIdx.filter (fun b => b.1 != 0)).map (fun b => (b.2, b.1))) }

/-- The flash copy goes once the task has resumed or its image is lost (R404). -/
def dropFlash (s : State) (sv : Saved) : State := if sv.fcopy then { s with nvme := fdel s.nvme sv.block } else s

/-- Something changes a saved context: its image follows (R403), after an HBM timing hold (R431). -/
def changeSaved (s : State) (n : Nat) (f : Ctx → Ctx) : State :=
  match fget? s.saved n with
  | some sv =>
    let sv1 := { sv with ctx := f sv.ctx, late := s.cold.hbmHold && sv.area.isSome }
    if sv1.late then { s with saved := fset s.saved n sv1 } else imageToArea { s with saved := fset s.saved n sv1 } sv1
  | none => s

/-- The images that changed during an HBM timing hold are written. -/
def lateImages (s : State) : State :=
  (s.saved.filter (fun e => e.2.late)).foldl (fun t e =>
    let sv := { e.2 with late := false }
    imageToArea { t with saved := fset t.saved e.1 sv } sv) s

end Sys2Proof.Machine
end

