-- ==== Sys2Proof/Machine/Flags.lean ====
section
/-! DEFINITION. The machine has no arithmetic flags: what an operation derives beside its value is the mod-15
residue (R238) and the conditions of compares (R212). -/

namespace Sys2Proof.Machine

/-- A residue from an integer. -/
def res15 (x : Int) : BitVec 4 := BitVec.ofNat 4 (x % 15).toNat

/-- A residue as an integer. -/
def rInt (r : BitVec 4) : Int := (r.toNat : Int)

/-- The sign of a two's-complement word as 0 or 1. -/
def sInt (v : Word) : Int := if v.msb then 1 else 0

/-- add: ρA + ρB − carry. -/
def resAdd (a b : Word) (ra rb : BitVec 4) : BitVec 4 :=
  res15 (rInt ra + rInt rb - (if 2 ^ 64 ≤ a.toNat + b.toNat then 1 else 0))

/-- sub: ρA − ρB + borrow. -/
def resSub (a b : Word) (ra rb : BitVec 4) : BitVec 4 :=
  res15 (rInt ra - rInt rb + (if a.toNat < b.toNat then 1 else 0))

/-- mul: ρA·ρB − ρ(high half). -/
def resMul (a b : Word) (ra rb : BitVec 4) : BitVec 4 :=
  res15 (rInt ra * rInt rb - (a.toNat * b.toNat / 2 ^ 64 % 15 : Nat))

/-- mulhu: the full product's residue less that of the low half. -/
def resMulhu (a b : Word) (ra rb : BitVec 4) : BitVec 4 :=
  res15 (rInt ra * rInt rb - (a.toNat * b.toNat % 2 ^ 64 % 15 : Nat))

/-- mulh: the same over the signed operands; a negative high half is written modulo 2^64 ≡ 1. -/
def resMulh (a b : Word) (ra rb : BitVec 4) : BitVec 4 :=
  let p := a.toInt * b.toInt
  res15 ((rInt ra - sInt a) * (rInt rb - sInt b) - p % (2 ^ 64 : Nat) % 15 + (if p < 0 then 1 else 0))

/-- shl by k: ρA·2^k − ρ(bits shifted out). -/
def resShl (a : Word) (ra : BitVec 4) (k : Nat) : BitVec 4 :=
  res15 (rInt ra * (2 ^ k : Nat) - (a.toNat * 2 ^ k / 2 ^ 64 % 15 : Nat))

/-- rol by k: ρA·2^k. -/
def resRol (ra : BitVec 4) (k : Nat) : BitVec 4 := res15 (rInt ra * (2 ^ k : Nat))

/-- aplane: ρA − A[63:60] + P. -/
def resAplane (a : Word) (ra : BitVec 4) (p : Nat) : BitVec 4 :=
  res15 (rInt ra - (field a.toNat 60 4 : Nat) + p)

/-- The division check fails: ρ(Q)·ρB + ρ(rem) differs from ρA under the operand signs (R238). -/
def divCheckBad (signed : Bool) (a b : Word) (ra rb : BitVec 4) (q r : Int) : Bool :=
  let ra' := if signed then rInt ra - sInt a else rInt ra
  let rb' := if signed then rInt rb - sInt b else rInt rb
  (q * rb' + r - ra') % 15 != 0

/-- The conditions of `cmp` and `cmpt`: 0 eq, 1 ne, 2 lt, 3 le, 4 ltu, 5 leu (R212). -/
def condHolds (cond : Nat) (a b : Word) : Bool :=
  if cond = 0 then a == b else if cond = 1 then a != b else if cond = 2 then a.slt b else if cond = 3 then a.sle b
  else if cond = 4 then a.ult b else a.ule b

end Sys2Proof.Machine
end

