-- ==== Sys2Proof/Machine/Translate.lean ====
section
/-! DEFINITION. Translation of planed addresses: the table walk, plane descriptors, the checks of R67 in
their order, and the check state of HBM sectors. -/

namespace Sys2Proof.Machine

/-! ### HBM sectors (R409) -/

/-- The colour a sector was last written with. -/
def frameColour (cs : List (Nat × Nat × Nat)) (addr : Nat) : Nat :=
  match cs with
  | [] => 0
  | (lo, hi, c) :: t => if lo ≤ addr && addr < hi then c else frameColour t addr

/-- The tag of a sector, by its number (address / 32). -/
def sectorTag (s : State) (sec : Nat) : Nat :=
  ((fget s.sectors sec {}).tag).getD (frameColour s.colours (32 * sec))

/-- The classes of a read: clean or corrected, tag mismatch, kind 6, kind 7. -/
inductive EccClass where
  | clean | corrected | tag | kind (k : Nat)
deriving DecidableEq, Repr

/-- The class of a read of a sector under the colour the access expects (R409). -/
def sectorClass (s : State) (sec colour : Nat) : EccClass :=
  let e := fget s.sectors sec {}
  let tagBad := sectorTag s sec != colour
  let wrong := e.wrong.length
  if e.poison then .kind 6
  else if e.misdir then (if wrong = 0 && !tagBad then .kind 7 else .kind 6)
  else if wrong = 0 then (if tagBad then .tag else .clean)
  else if wrong = 1 && !tagBad then .corrected
  else .kind 6

/-- The sectors that bytes [a, a + n) lie in. -/
def sectorsOf (a n : Nat) : List Nat := (List.range ((a + n - 1) / 32 - a / 32 + 1)).map (fun k => a / 32 + k)

/-- The worse of two classes. -/
def worse (a b : EccClass) : EccClass :=
  match a, b with
  | .kind k, _ => .kind k
  | _, .kind k => .kind k
  | .tag, _ => .tag
  | _, .tag => .tag
  | .corrected, _ => .corrected
  | _, b => b

/-- The class of a read of spans. -/
def spansClass (s : State) (spans : List (Nat × Nat)) (colour : Nat) : EccClass :=
  (spans.flatMap (fun p => sectorsOf p.1 p.2)).foldl (fun c sec => worse c (sectorClass s sec colour)) .clean

/-! ### Tables (R387 to R389) -/

/-- The walk's outcome: no region covers the page, an entry is invalid, or the page's PSE and RPD. -/
inductive Walk where
  | noRegion | invalid
  | found (psize : Nat) (pse : BitVec 2048) (rpd : BitVec 1024)
deriving DecidableEq, Repr

/-- The index of a level's table (R387). -/
def tableIndex (level : Nat) (pos : Nat) : Nat :=
  if level = 1 then field pos 50 10 else if level = 2 then field pos 40 10 else if level = 3 then field pos 30 10
  else if level = 4 then field pos 21 9 else field pos 17 4

/-- A class that a read goes on with. -/
def goodClass (c : EccClass) : Bool := match c with | .clean => true | .corrected => true | _ => false

/-- An entry in memory is readable; an uncorrectable one makes the walk fail (R410). -/
def tableReadable (s : State) (addr n : Nat) : Bool := goodClass (spansClass s [(addr, n)] 0)

/-- The PSE at an address, checked against the level and the ASID (R388). DESIGN CHOICE (log 11): reserved bits of a root entry, a
table entry or a PSE that are not 0 change nothing, since no rule of the chapter names the fault that R5 speaks of. -/
def readPse (s : State) (addr level asid : Nat) : Walk :=
  let pse := memNat s.mem addr 256
  let hdr := field pse 192 64
  let psize := field hdr 1 2
  let rpdAddr := field pse 128 64 / 128 * 128
  if !tableReadable s addr 256 || !tableReadable s rpdAddr 128 then .invalid
  else if !bitAt hdr 0 || psize ≠ 5 - level || field hdr 3 14 ≠ asid then .invalid
  else .found psize (BitVec.ofNat 2048 pse) (BitVec.ofNat 1024 (memNat s.mem rpdAddr 128))

/-- The walk from a table of a level on. -/
def walkFrom (s : State) (asid pos : Nat) (levels : List Nat) (table : Nat) : Walk :=
  match levels with
  | [] => .invalid
  | level :: rest =>
    let entry := table + 8 * tableIndex level pos
    let e := memNat s.mem entry 8
    if !tableReadable s entry 8 then .invalid
    else if e % 4 = 0 then .noRegion
    else if e % 4 = 1 then walkFrom s asid pos rest (e / 256 * 256)
    else if e % 4 = 2 then (if level ≤ 2 then .invalid else readPse s (e / 256 * 256) level asid)
    else .invalid

/-- The table walk of a position address (R387, R388). -/
def walk (s : State) (asid pos : Nat) : Walk :=
  let root := s.rootBase + 16 * asid
  let e := memNat s.mem root 8
  if !tableReadable s root 8 then .invalid
  else if !bitAt e 0 then .noRegion
  else walkFrom s asid pos [1, 2, 3, 4, 5] (e / 8192 * 8192)

/-- Positions that an entry of a level's table covers (R387). -/
def levelSpan (level : Nat) : Nat := if level = 1 then 2 ^ 50 else if level = 2 then 2 ^ 40 else if level = 3 then 2 ^ 30 else 2 ^ 21

/-- The walker of a cache: that of its core's die, or die H's (R392). -/
def walkerOf (c : CacheId) : Nat :=
  match c with
  | .thread n => dieOf n
  | .copy n _ => dieOf n
  | .walker d => d
  | _ => 4

/-- The deepest table that a walker knows for a position. -/
def knownTable (s : State) (die asid pos : Nat) : Option WalkEntry :=
  (s.walkers.filter (fun e => e.die == die && e.asid == asid
      && decide (pos / levelSpan (e.level - 1) * levelSpan (e.level - 1) = e.first))).foldl
    (fun b e => match b with | some x => if x.level < e.level then some e else b | none => some e) none

/-- A walk through the entries that a walker keeps (R392): from the deepest known table on, else from the root. -/
def walkVia (s : State) (die asid pos : Nat) : Walk :=
  match knownTable s die asid pos with
  | some e => walkFrom s asid pos ([2, 3, 4, 5].filter (fun l => e.level ≤ l)) e.table
  | none => walk s asid pos

/-- The page's PSE through a translation cache (R392), else by a walk. -/
def lookupPage (s : State) (cache : CacheId) (asid pos : Nat) : Walk :=
  match s.caches.find? (fun e => e.cache == cache && e.asid == asid
      && decide (pos / Config.pageBytes e.psize * Config.pageBytes e.psize = e.page)) with
  | some e => .found e.psize e.pse e.rpd
  | none => walkVia s (walkerOf cache) asid pos

/-! ### Descriptors and slots (R54, R55, R389) -/

/-- The descriptor of a plane in an RPD. -/
def descOf (rpd : BitVec 1024) (p : Nat) : Nat := field rpd.toNat (64 * p) 64

def dEn (d : Nat) : Bool := bitAt d 0
def dWidth (d : Nat) : Nat := field d 1 3
def dGran (d : Nat) : Nat := field d 4 3
def dRole (d : Nat) : Nat := field d 7 4
def dShared (d : Nat) : Bool := bitAt d 12
def dRule (d : Nat) : Nat := field d 13 3
def dRtype (d : Nat) : Nat := field d 16 3
def dColour (d : Nat) : Nat := field d 19 4
def dBack (d : Nat) : Nat := field d 23 2
def dPlace (d : Nat) : Nat := field d 25 4
def dPin (d : Nat) : Bool := bitAt d 29

/-- The element width of a plane in bits. -/
def dBits (d : Nat) : Nat := 2 ^ dWidth d

/-- The role and shape a plane must have (R56). -/
def roleOk (p d : Nat) : Bool :=
  if p = 0 then dRole d == 0 && 3 ≤ dWidth d && dWidth d ≤ 6 && dGran d == 0
  else if p ≤ 7 then dRole d == p
  else 8 ≤ dRole d

/-- A descriptor with EN = 1 is valid (R55). -/
def descValid (p d : Nat) : Bool :=
  let w := dWidth d
  let r := dRule d
  let t := dRtype d
  w ≤ 6 && dGran d ≤ 5 && r ≤ 6 && dBack d ≤ 2 && (dPlace d ≤ 1 || 8 ≤ dPlace d) && d / 2 ^ 30 == 0
    && roleOk p d && (dShared d == (r != 0))
    && (r != 1 || (1 ≤ t && t ≤ 4)) && ((r != 2 && r != 3) || t != 0)
    && ((t != 1 && t != 3 && t != 4) || w == 5) && ((t != 2 && t != 7) || w == 4)
    && ((t != 5 && t != 6) || w == 6)

/-- The slot of plane P in a PSE: 112 bits. -/
def slotBits (pse : BitVec 2048) (p : Nat) : Nat := field pse.toNat (256 + 112 * p) 112

def sFrame (x : Nat) : Nat := field x 0 42 * 64
def sState (x : Nat) : Nat := field x 42 2
def sPerm (x : Nat) : Nat := field x 44 2
def sBacking (x : Nat) : Nat := field x 48 64
def sRemotePkg (x : Nat) : Nat := field x 0 9
def sRemoteAsid (x : Nat) : Nat := field x 9 14

def pLo (pse : BitVec 2048) : Nat := field pse.toNat 0 60
def pHi (pse : BitVec 2048) : Nat := field pse.toNat 64 60
def pSgid (pse : BitVec 2048) : Option Nat :=
  if bitAt pse.toNat (192 + 23) then some (field pse.toNat (192 + 17) 6) else none
def pCeil (pse : BitVec 2048) (p : Nat) : Nat := field pse.toNat (192 + 32 + 2 * p) 2

/-- Plane 0's element width in bytes. -/
def width0 (rpd : BitVec 1024) : Nat :=
  let d := descOf rpd 0
  if 3 ≤ dWidth d && dWidth d ≤ 6 then dBits d / 8 else 1

/-- The bytes of plane P's frame for a page (R57). -/
def frameBytes (rpd : BitVec 1024) (p psize : Nat) : Nat :=
  let d := descOf rpd p
  max 64 (Config.pageBytes psize * dBits d / (8 * width0 rpd * 2 ^ dGran d))

/-- Plane P's bit offset in the page's frame of a position (PlaneByte, R57). -/
def frameBitOff (rpd : BitVec 1024) (p pos base : Nat) : Nat :=
  if p = 0 then 8 * (pos - base)
  else
    let d := descOf rpd p
    (pos / width0 rpd / 2 ^ dGran d - base / width0 rpd / 2 ^ dGran d) * dBits d

/-! ### Checks (R67) -/

/-- What an access asks. `step` is the step group of the launch and `task` the task's index, `ctx` says that a
context issues it (R134, R142); `shape` is a width and granularity that R56 requires; `dwidth` a plane width in bits that a copy
requires (R258). -/
structure AccessReq where
  cache : CacheId
  asid  : Nat
  va    : Word
  n     : Nat
  align : Nat
  write : Bool
  atomic : Bool := false
  /-- a vector access: on a plane narrower than 8 bits it need not be aligned (R83) -/
  narrow : Bool := false
  step  : Option Nat := none
  ctx   : Bool := true
  task  : Nat := 0
  shape : Option (Nat × Nat) := none
  dwidth : Option Nat := none

/-- The outcome: the access, a trap, or the pages that are not present. -/
inductive Xlate where
  | ok (a : Access)
  | trap (t : TrapInfo)
  | notPresent (k : PageKey)
deriving DecidableEq, Repr

/-- The order of R67: the first class that applies is reported. -/
def xlateRank (x : Xlate) : Nat :=
  match x with
  | .trap t => if t.cause = 6 then 0 else if t.cause = 7 then 1 else if t.cause = 8 then 2 else 3
  | .notPresent _ => 4
  | .ok _ => 5

def accTrap (r : AccessReq) (cause qual : Nat) : Xlate :=
  .trap { cause := cause, qual := qual, addr := r.va, wr := r.write, plane := field r.va.toNat 60 4 }

/-- A page's part of an access, n bytes at the byte offset in the frame: absent, protection, then not
present. -/
def checkPage (s : State) (r : AccessReq) (pse : BitVec 2048) (rpd : BitVec 1024) (first : Bool)
    (page off n : Nat) : Xlate :=
  let p := field r.va.toNat 60 4
  let d := descOf rpd p
  let x := slotBits pse p
  let key : PageKey := { asid := r.asid, page := page, plane := p }
  let needW := r.write || r.atomic
  if !dEn d then accTrap r 8 1
  else if !descValid p d then accTrap r 8 2
  else if (match r.shape with | some (w, g) => dWidth d != w || dGran d != g | none => false)
      || (match r.dwidth with | some w => dBits d != w | none => false) then accTrap r 8 3
  else if sState x = 0 || sPerm x = 3 then accTrap r 8 0
  else if sState x = 3 && !dShared d then accTrap r 8 4
  else if sPerm x = 0 || (needW && sPerm x != 2) then accTrap r 9 0
  else if dShared d && r.atomic then accTrap r 9 1
  else if dShared d && r.ctx && pSgid pse != r.step then accTrap r 9 2
  else if dShared d && r.ctx && !needW
      && (match pSgid pse with | some g => (fget? s.groups g).any (fun x => x.sealed.contains r.task) | none => false) then
    accTrap r 0x12 0
  else if sState x = 2 then .notPresent key
  else .ok {
    parts := [{
      va := if first then r.va else BitVec.ofNat 64 (p * 2 ^ 60 + page), n := n
      frame := if sState x = 1 then some (sFrame x + off) else none
      remote := if sState x = 3 then some (sRemotePkg x, sRemoteAsid x) else none
      key := key }]
    colour := dColour d
    shared := if dShared d then some ((pSgid pse).getD 64) else none }

/-- Two parts of one access: the first fault in the order of R67, else both parts. -/
def joinParts (a b : Xlate) : Xlate :=
  match a, b with
  | .ok x, .ok y => .ok { x with parts := x.parts ++ y.parts }
  | _, _ => if xlateRank b < xlateRank a then b else a

/-- The parts of an access from a position on, page by page (R60). -/
def checkPages (s : State) (r : AccessReq) (first : Bool) (fuel pos n : Nat) : Xlate :=
  match fuel with
  | 0 => accTrap r 7 0
  | k + 1 =>
    let p := field r.va.toNat 60 4
    match lookupPage s r.cache r.asid pos with
    | .noRegion => accTrap r 7 0
    | .invalid => accTrap r 8 6
    | .found psize pse rpd =>
      let size := Config.pageBytes psize
      let page := pos / size * size
      let off := frameBitOff rpd p pos page / 8
      let room := (if dEn (descOf rpd p) then frameBytes rpd p psize else size) - off
      if n ≤ room then checkPage s r pse rpd first page off n
      else joinParts (checkPage s r pse rpd first page off room) (checkPages s r false k (page + size) (n - room))

/-- The misalignment checks that need the descriptors (R58, R83, R138). They and the bounds check run before the absent fault:
where plane 0's descriptor gives no width, w0 counts as 1; where plane P has EN = 0, its own width is not checked and one element
is; an invalid descriptor is used as it stands (log 78). -/
def misaligned (r : AccessReq) (rpd : BitVec 1024) (page : Nat) : Bool :=
  let p := field r.va.toNat 60 4
  let pos := field r.va.toNat 0 60
  let d := descOf rpd p
  let bits := frameBitOff rpd p pos page
  (p != 0 && (pos % width0 rpd != 0 || (dEn d && (bits % 8 != 0 || bits / 8 % (if r.narrow && decide (dBits d < 8) then 1 else r.align) != 0))))
    || (r.write && dEn d && dShared d && dRtype d != 0
        && (bits / 8 % (dBits d / 8) != 0 || r.n % (dBits d / 8) != 0))

/-- The bounds check (R59; log 78). -/
def outOfBounds (r : AccessReq) (pse : BitVec 2048) (rpd : BitVec 1024) : Bool :=
  let p := field r.va.toNat 60 4
  let pos := field r.va.toNat 0 60
  if p = 0 then pos < pLo pse || pHi pse < pos + r.n
  else
    let d := descOf rpd p
    let w0 := width0 rpd
    let k := if dEn d then 8 * r.n / dBits d else 1
    let e := pos / w0 / 2 ^ dGran d
    let first (e : Nat) := e * 2 ^ dGran d * w0
    first e < pLo pse || pHi pse ≤ first e || pHi pse ≤ first (e + k - 1)

/-- Translate an access in full and check it in the order misalignment, bounds, absent, protection, not
present (R60, R67). -/
def translate (s : State) (r : AccessReq) : Xlate :=
  let p := field r.va.toNat 60 4
  let pos := field r.va.toNat 0 60
  if p = 0 && pos % r.align != 0 then accTrap r 6 0
  else match lookupPage s r.cache r.asid pos with
    | .noRegion => accTrap r 7 0
    | .invalid => accTrap r 8 6
    | .found psize pse rpd =>
      let size := Config.pageBytes psize
      if misaligned r rpd (pos / size * size) then accTrap r 6 0
      else if outOfBounds r pse rpd then accTrap r 7 0
      else checkPages s r true (r.n / 64 + 2) pos r.n

/-- The region of an ASID that holds a position. -/
def regionAt (s : State) (asid pos : Nat) : Option (Nat × Region) :=
  s.regions.find? (fun e => e.2.asid == asid && e.2.lo ≤ pos && pos < e.2.hi)

/-- The step group of the acting context's launch (R134). -/
def mySgid (s : State) : Option Nat := (me s).task.bind (fun t => t.sgid)

/-- A request of the acting context through its core's thread pipe, or through the hub pipe on a service core
(R392). -/
def threadReq (s : State) (va : Word) (n align : Nat) (write : Bool) : AccessReq :=
  { cache := if isService (myCore s) then .hub else .thread (myCore s), asid := asidOf (me s), va := va, n := n, align := align, write := write
    step := mySgid s, task := ((me s).task.map (·.index)).getD 0 }

/-- One access of 2 bytes of plane 0 for a fetch (R444): a region with no loaded image raises the protection
fault with qualifier 3. -/
def translateFetch (s : State) (va : Word) : Xlate :=
  let r := threadReq s (va &&& 0x0FFF_FFFF_FFFF_FFFF) 2 2 false
  let x := translate s r
  if 2 < xlateRank x && !(regionAt s r.asid (field va.toNat 0 60)).any (fun e => e.2.code) then accTrap r 9 3
  else x

end Sys2Proof.Machine
end

