-- ==== Sys2Proof/Machine/Memory.lean ====
section
/-! DEFINITION. Non-local memory: what an observer reads, the write buffers with their two stages, loads in
program order, atomic units, and step-deferred stores (R76 to R88, R409). -/

namespace Sys2Proof.Machine

/-! ### What an observer reads -/

/-- A store in the write buffer is visible to an access of a context at a place in its program order: an earlier one
of its own, or one that has performed at grp scope in the context's core group (R78.4, R79). -/
def visibleTo (cid place : Nat) (p : PStore) : Bool :=
  (p.cid == cid && decide (p.seq < place)) || (p.grp && groupOf (p.cid / 4) == groupOf (cid / 4))

/-- It stores data: an injection is a store to its sector's check state alone (R274). -/
def isData (p : PStore) : Bool := p.kind == .data

def coversByte (p : PStore) (a : Nat) : Bool := p.addr ≤ a && a < p.addr + p.bytes.length

/-- The latest store of a list that covers a byte. -/
def lastStore (ps : List PStore) (a : Nat) : Option PStore :=
  (ps.filter (fun p => coversByte p a)).getLast?

/-- The stores and injections an access sees beyond memory, in the order of their units: the write buffers' and the earlier ones
its context's open segment holds (R87). -/
def seenAll (s : State) (cid place : Nat) : List PStore :=
  s.wbuf.filter (visibleTo cid place)
    ++ (match (ctxOf s cid).seg with
      | some g => g.stores.filter (fun p => decide (p.seq < place))
      | none => [])

/-- Those of them that store data. -/
def seenStores (s : State) (cid place : Nat) : List PStore := (seenAll s cid place).filter isData

/-- The byte at a physical address as an access of a context reads it. -/
def viewByte (s : State) (cid place a : Nat) : Byte :=
  match lastStore (seenStores s cid place) a with
  | some p => p.bytes.getD (a - p.addr) 0
  | none => memByte s.mem a

/-- The n bytes from a physical address as an access of a context reads them. -/
def viewBytes (s : State) (cid place a n : Nat) : List Byte :=
  (List.range n).map (fun k => viewByte s cid place (a + k))

/-- The stores whose bytes a read takes (R79): a store of the context's own counts once it is in the write buffers, and not while
its open segment holds it (log 69). -/
def storesRead (s : State) (cid place a n : Nat) : List Nat :=
  (List.range n).filterMap (fun k => (lastStore ((s.wbuf.filter (visibleTo cid place)).filter isData) (a + k)).map (·.id))

/-- The frame spans of an access. -/
def accSpans (acc : Access) : List (Nat × Nat) := acc.parts.filterMap (fun p => p.frame.map (fun f => (f, p.n)))

/-- The bytes of an access at its place in its context's program order: a pod-shared plane gives the committed value
(R88), a remote part gives the bytes its owner answered. -/
def accBytes (s : State) (cid place : Nat) (acc : Access) (remote : List Byte) : List Byte :=
  (acc.parts.foldl (fun (st : List Byte × List Byte) p =>
    match p.frame with
    | some f =>
      (st.1 ++ (if acc.shared.isSome then memBytes s.mem f p.n else viewBytes s cid place f p.n), st.2)
    | none => (st.1 ++ (st.2.take p.n ++ List.replicate (p.n - st.2.length) 0), st.2.drop p.n)) ([], remote)).1

/-- The stores a read of an access takes bytes from. -/
def accReads (s : State) (cid place : Nat) (acc : Access) : List Nat :=
  if acc.shared.isSome then []
  else ((accSpans acc).flatMap (fun p => storesRead s cid place p.1 p.2)).eraseDups

/-- The check class of a read as a number: 0 clean, 1 tag mismatch, 6 and 7 the kinds of R408. -/
def classCode (c : EccClass) : Nat :=
  match c with
  | .clean => 0
  | .corrected => 0
  | .tag => 1
  | .kind k => k

/-- The stack whose controller a physical address belongs to: 64 GiB each from 0 on, and above them for each die the window whose
4 KiB pieces alternate between its two stacks (log 14, log 81). -/
def stackOf (addr : Nat) : Nat := if addr < 2 ^ 39 then addr / 2 ^ 36 else 2 * ((addr - 2 ^ 39) / 2 ^ 37) + addr / 4096 % 2

/-- The byte of its stack that a physical address names. -/
def stackByte (addr : Nat) : Nat :=
  if addr < 2 ^ 39 then addr % 2 ^ 36 else 2 ^ 35 + (addr - 2 ^ 39) % 2 ^ 37 / 8192 * 4096 + addr % 4096

/-- Record in a bank what the read of a sector found (R409, R410, R418). -/
def recordSector (u : BankUnit) (colour : Nat) (cid : Option Nat) (s : State) (sec : Nat) : State :=
  match sectorClass s sec colour with
  | .clean => s
  | .corrected => recordError s u true { kind := 0, addr := 32 * sec, cid := cid }
  | .tag => recordError s u false { kind := 11, addr := 32 * sec, cid := cid }
  | .kind k => recordError s u false { kind := k, addr := 32 * sec, cid := cid }

/-- The sectors of spans. -/
def spanSectors (spans : List (Nat × Nat)) : List Nat := (spans.flatMap (fun p => sectorsOf p.1 p.2)).eraseDups

/-- Record what a read of spans found, sector by sector, in the banks of their stacks. -/
def recordRead (s : State) (spans : List (Nat × Nat)) (colour : Nat) (cid : Option Nat) : State :=
  if s.sectors.isEmpty && s.colours.isEmpty && colour = 0 then s
  else (spanSectors spans).foldl (fun t k => recordSector (.stack (stackOf (32 * k))) colour cid t k) s

/-- Flip bits of a byte of a sector without its check bits. -/
def flipByte (e : Sector) (k : Nat) (m : Byte) : Sector :=
  let old := ((e.wrong.find? (fun w => w.1 == k)).map (·.2)).getD 0
  let rest := e.wrong.filter (fun w => w.1 != k)
  { e with wrong := if old ^^^ m = 0 then rest else (k, old ^^^ m) :: rest }

/-- What a store does to its sector's check state (R409): clean or corrected data is merged and written back
clean, uncorrectable data leaves the sector uncorrectable unless the store covers it all. -/
def sectorAfterStore (s : State) (sec : Nat) (p : PStore) : Sector :=
  let e := fget s.sectors sec {}
  match sectorClass s sec p.colour with
  | .kind _ => if p.cover then { tag := some p.colour, wrong := [], misdir := false, poison := false } else { e with poison := true }
  | .tag => e
  | _ => { e with wrong := [], misdir := false }

/-- The check state of a store's sector after it (R274, R409). -/
def putSector (s : State) (p : PStore) : State :=
  let sec := p.addr / 32
  match p.kind with
  | .data => if (fget? s.sectors sec).isSome then { s with sectors := fset s.sectors sec (sectorAfterStore s sec p) } else s
  | .flip => { s with sectors := fset s.sectors sec (flipByte (fget s.sectors sec {}) (p.addr % 32) (p.bytes.headD 0)) }
  | .retag => { s with sectors := fset s.sectors sec { fget s.sectors sec {} with tag := some ((p.bytes.headD 0).toNat % 16) } }

/-- The sectors as an access of a context sees them: an injection counts as a store to its sector (R78.4, R274). -/
def seenSectors (s : State) (cid place : Nat) : State :=
  let ps := seenAll s cid place
  if ps.all isData then s else ps.foldl putSector s

/-- The check class of a read of a context, and the records of what it found (R409, R410). -/
def readClass (s : State) (cid place : Nat) (acc : Access) : Nat :=
  classCode (spansClass (seenSectors s cid place) (accSpans acc) acc.colour)

def recordSeen (s : State) (cid place : Nat) (acc : Access) : State :=
  if (seenAll s cid place).all isData then recordRead s (accSpans acc) acc.colour (some cid)
  else { recordRead (seenSectors s cid place) (accSpans acc) acc.colour (some cid) with sectors := s.sectors }

/-- The table entries that a walk reads, as spans (R387, R388). -/
def walkSpans (s : State) (pos : Nat) (levels : List Nat) (table : Nat) : List (Nat × Nat) :=
  match levels with
  | [] => []
  | level :: rest =>
    let entry := table + 8 * tableIndex level pos
    let e := memNat s.mem entry 8
    (entry, 8) :: (if !tableReadable s entry 8 then [] else if e % 4 = 1 then walkSpans s pos rest (e / 256 * 256)
      else if e % 4 = 2 then
        let pse := e / 256 * 256
        [(pse, 256), (field (memNat s.mem pse 256) 128 64 / 128 * 128, 128)]
      else [])

/-- A walk of the tables records what its reads found in its die's walker bank (R409, R410, R417). -/
def noteWalk (s : State) (die asid pos : Nat) : State :=
  if s.sectors.isEmpty then s
  else
    let root := s.rootBase + 16 * asid
    let spans := match knownTable s die asid pos with
      | some e => walkSpans s pos ([2, 3, 4, 5].filter (fun l => e.level ≤ l)) e.table
      | none => (root, 8) :: walkSpans s pos [1, 2, 3, 4, 5] (memNat s.mem root 8 / 8192 * 8192)
    (spanSectors spans).foldl (recordSector (.walker die) 0 none) s

/-- A cache holds the entry of a page. -/
def inCache (s : State) (cache : CacheId) (asid pos : Nat) : Bool :=
  s.caches.any (fun e => e.cache == cache && e.asid == asid && decide (pos / Config.pageBytes e.psize * Config.pageBytes e.psize = e.page))

/-- An access of a pipe has trapped: the walk that it needed records what its reads found. A walk that failed on them has raised the
absent fault with qualifier 6, and may be that of the second page of an access; for the other faults of an access, and for the trap of
a `wait` on a pod-shared unit, the first page is walked where the pipe's cache does not hold it; an address of plane 0 that is not
aligned traps before any walk (R67, R392, R409, R410). -/
def noteFailed (s : State) (cache : CacheId) (asid : Nat) (t : TrapInfo) : State :=
  let pos := field t.addr.toNat 0 60
  if t.cause = 8 ∧ t.qual = 6 then
    noteWalk s (walkerOf cache) asid (if walkVia s (walkerOf cache) asid pos = .invalid then pos else pos + 511)
  else if t.cause = 7 ∨ t.cause = 8 ∨ t.cause = 9 ∨ t.cause = 0x12 ∨ (t.cause = 6 ∧ field t.addr.toNat 60 4 ≠ 0) ∨ (t.cause = 3 ∧ t.qual = 1) then
    if inCache s cache asid pos then s else noteWalk s (walkerOf cache) asid pos
  else s

/-- The walks that an access of a core's pipe needed: those of its pages that the pipe's cache does not hold. -/
def noteWalks (s : State) (cache : CacheId) (core : Nat) (acc : Access) : State :=
  if s.sectors.isEmpty then s
  else (acc.parts.filter (fun p => !inCache s cache p.key.asid p.key.page)).foldl
    (fun t p => noteWalk t (dieOf core) p.key.asid p.key.page) s

/-- The pipe of a core's thread accesses (R392). -/
def threadPipe (core : Nat) : CacheId := if isService core then .hub else .thread core

/-- The walks that an access through the hub's pipe needed (R409, R410). -/
def noteHubWalks (s : State) (acc : Access) : State := noteWalks s .hub Config.nMatrix acc

/-- The load is one of a jump table. -/
def isTable (u : LoadUse) : Bool := match u with | .jtabHead .. => true | .jtabEntry .. => true | _ => false

/-! ### Issuing stores -/

/-- Cut bytes from an address on into their aligned 4-byte units (R83). -/
def unitChunks (fuel a : Nat) (bs : List Byte) : List (Nat × List Byte) :=
  match fuel, bs with
  | 0, _ => []
  | _, [] => []
  | k + 1, b :: t => (a, (b :: t).take (4 - a % 4)) :: unitChunks k (a + (4 - a % 4)) ((b :: t).drop (4 - a % 4))

/-- Pair each part of an access with its bytes. -/
def splitParts (parts : List Part) (bs : List Byte) : List (Part × List Byte) :=
  match parts with
  | [] => []
  | p :: t => (p, bs.take p.n) :: splitParts t (bs.drop p.n)

/-- The chunks that perform on their own: each aligned unit (R83, R84). -/
def storeChunks (acc : Access) (bs : List Byte) : List (Nat × List Byte × PageKey × Bool) :=
  (splitParts acc.parts bs).flatMap (fun (p, b) =>
    match p.frame with
    | none => []
    | some f => (unitChunks b.length f b).map (fun (a, c) => (a, c, p.key, decide (f ≤ a / 32 * 32 ∧ a / 32 * 32 + 32 ≤ f + p.n))))

/-- The units of a store, in ascending address order. -/
def mkStores (s : State) (cid : Nat) (kind : StoreKind) (whole : Bool) (acc : Access) (va : Word)
    (bs : List Byte) (slot : Nat) : List PStore :=
  let c := ctxOf s cid
  let deps := c.readFrom.filter (fun i => s.wbuf.any (fun p => p.id == i))
  (storeChunks acc bs).zipIdx.map (fun ((a, b, key, cover), k) =>
    { id := s.nextId + k, cid := cid, seq := c.seq, addr := a, bytes := b, colour := acc.colour, kind := kind
      va := va, keys := [key], deps := deps, cover := cover, sid := s.nextId, spans := accSpans acc, whole := whole
      slot := slot })

/-- The owner of a part: its package, and the ASID there. -/
def partOwner (s : State) (cid : Nat) (p : Part) : Nat × Nat :=
  match p.remote with | some o => o | none => (s.pkg, asidOf (ctxOf s cid))

/-- The step that a deferred write of a context belongs to: a write placed after its context has arrived at a boundary belongs to
the next step (R85, R137; log 87). -/
def writeStep (g : StepGroup) (c : Ctx) : Nat := (if g.arrived.contains (taskIndex c) then g.stepno + 1 else g.stepno).toNat

/-- A step-deferred store: one write for each owner of its pages, tagged with its step and place (R88, R137, R138, R334). -/
def mkDeferred (s : State) (cid sgid : Nat) (acc : Access) (bs : List Byte) (slot : Nat) : List (Nat × DWrite) :=
  let c := ctxOf s cid
  let ps := splitParts acc.parts bs
  let owners := (ps.map (fun q => partOwner s cid q.1)).eraseDups
  owners.zipIdx.map (fun (o, k) =>
    let mine := ps.filter (fun q => partOwner s cid q.1 == o)
    (o.1, { sgid := sgid, step := (fget? s.groups sgid).elim 0 (fun g => writeStep g c), source := sourceOf s cid
            order := (fget? s.groups sgid).elim 0 (·.orders), gts := s.gts, asid := o.2, va := (mine.map (·.1.va)).headD 0, bytes := mine.flatMap (·.2)
            parts := if mine.length ≤ 1 then [] else mine.map (fun q => (q.1.va, q.2.length))
            slot := slot, more := decide (0 < k) }))

/-- The place of the next access in a context's program order. -/
def bumpSeq (s : State) (cid : Nat) : State :=
  setCtx s cid { ctxOf s cid with seq := (ctxOf s cid).seq + 1 }

/-- A store of a context: into the open segment's buffer, else into the write buffers (R87); on a pod-shared
plane a step-deferred write, which a sealed package discards and counts (R88, R142). The slot is that of the
operation: SY, or 7 for an engine (R397). -/
def issueStore (s : State) (cid : Nat) (kind : StoreKind) (whole : Bool) (acc : Access) (va : Word)
    (bs : List Byte) (slot : Nat := 1) : State :=
  let s := noteWalks s (threadPipe (cid / 4)) (cid / 4) acc
  match acc.shared with
  | some sgid =>
    let ws := mkDeferred s cid sgid acc bs slot
    match fget? s.groups sgid with
    | none => s
    | some g =>
      if g.sealed.contains (((ctxOf s cid).task.map (·.index)).getD 0) then { s with groups := fset s.groups sgid { g with stcexcl := g.stcexcl + 1 } }
      else
        let s1 := { s with groups := fset s.groups sgid { g with orders := g.orders + 1 } }
        match (ctxOf s1 cid).seg with
        | some sg => setCtx s1 cid { ctxOf s1 cid with seg := some { sg with dwrites := sg.dwrites ++ ws } }
        | none => ws.foldl (fun t (d : Nat × DWrite) => sendDeferred t d.1 d.2) s1
  | none =>
    let ps := mkStores s cid kind whole acc va bs slot
    let s1 := { bumpSeq s cid with nextId := s.nextId + ps.length }
    match (ctxOf s1 cid).seg with
    | some sg => setCtx s1 cid { ctxOf s1 cid with seg := some { sg with stores := sg.stores ++ ps } }
    | none => { s1 with wbuf := s1.wbuf ++ ps }

/-- The open segment's buffer takes entries and bytes (R348). -/
def chargeSegment (s : State) (entries bytes : Nat) : State :=
  match (me s).seg with
  | none => s
  | some g => setMe s { me s with seg := some { g with entries := g.entries + entries, bytes := g.bytes + bytes } }

/-- A store of that many entries and bytes would overflow the open segment's buffer (R348). -/
def segOverflow (c : Ctx) (entries bytes : Nat) : Bool :=
  match c.seg with
  | none => false
  | some g => Config.segEntries < g.entries + entries || Config.segBytes < g.bytes + bytes

/-! ### Performing stores -/

/-- Two stores share an aligned 4-byte unit. -/
def sameUnit (p q : PStore) : Bool :=
  p.addr / 4 ≤ (q.addr + q.bytes.length - 1) / 4 && q.addr / 4 ≤ (p.addr + p.bytes.length - 1) / 4

/-- For `errinj` stores the order is that of the 32-byte sector (R274). -/
def ordered (p q : PStore) : Bool :=
  if p.kind == .data && q.kind == .data then sameUnit p q else p.addr / 32 == q.addr / 32

/-- The access has no remote part. -/
def isLocal (acc : Access) : Bool := acc.parts.all (fun p => p.remote.isNone)

/-- The bytes of an access that another package answers. -/
def remoteCount (acc : Access) : Nat := (acc.parts.filter (fun p => p.remote.isSome)).foldl (fun n p => n + p.n) 0

/-- The remote bytes of an access: package, ASID there, address. -/
def remoteKeys (acc : Access) : List (Nat × Nat × Nat) :=
  acc.parts.flatMap (fun p => match p.remote with
    | some (pkg, a) => (List.range p.n).map (fun i => (pkg, a, p.va.toNat + i))
    | none => [])

/-- Free bytes for what a remote package answers (log 20). -/
def takeFree (s : State) (n : Nat) : State × List Byte :=
  let k := (n + 7) / 8
  ({ s with free := s.free + k }, ((List.range k).flatMap (fun i => leBytes 8 (Config.freeWord (s.free + i)).toNat)).take n)

/-- The aligned 4-byte units of spans, by number. -/
def spanUnits (spans : List (Nat × Nat)) : List Nat :=
  (spans.flatMap (fun p => (List.range ((p.1 + p.2 + 3) / 4 - p.1 / 4)).map (fun k => p.1 / 4 + k))).eraseDups

/-- Units of one store. -/
def sameStore (p q : PStore) : Bool := p.sid == q.sid && p.cid == q.cid && p.kind == q.kind

/-- Two stores with `.w8` or `.w16` that share a unit: one of them performs as a whole before the other (R78.5, R83). -/
def wholeOverlap (p q : PStore) : Bool :=
  p.whole && q.whole && !sameStore p q && (spanUnits p.spans).any (spanUnits q.spans).contains

/-- Some units of a store have performed at a scope and others have not: at grp, or at pkg. -/
def partDone (s : State) (grp : Bool) (q : PStore) : Bool :=
  let us := s.wbuf.filter (sameStore q)
  let short := decide (us.length < (spanUnits q.spans).length)
  if grp then us.any (fun u => !u.grp) && (short || us.any (·.grp)) else short

/-- A data store that its own core group sees and the other observers do not: in a unit of spans, of which it covers only a part. Another
group's observers could see a later write of the unit without it, and its own group's it without that write; so what else writes the unit
performs after it (R78.5). -/
def halfSeen (s : State) (spans : List (Nat × Nat)) : Bool :=
  s.wbuf.any (fun q => isData q && q.grp && decide (q.bytes.length < 4) && (spanUnits spans).contains (q.addr / 4))

/-- A store of another group to a unit, on its way with other bytes of the unit than this one: they perform one after the other, so that
all observers agree on their order (R78.5). -/
def rivalOnWay (s : State) (p : PStore) : Bool :=
  isData p && s.wbuf.any (fun q => isData q && groupOf (q.cid / 4) != groupOf (p.cid / 4) && (q.grp || (q.whole && partDone s true q))
    && sameUnit p q && (q.addr != p.addr || q.bytes.length != p.bytes.length))

/-- A unit of a store may perform at grp scope by itself: no other group's store to some bytes of it is on its way, every earlier
load of its context has returned (R78.2), remote ones apart (R88), its context's earlier stores to its units have performed (R78.5),
and the stores its context had read are visible to the group (R79). -/
def grpReady (s : State) (p : PStore) : Bool :=
  !p.grp && !rivalOnWay s p
    && !s.loads.any (fun l => l.cid == p.cid && decide (l.seq < p.seq) && (isLocal l.acc || isTable l.use))
    && !s.wbuf.any (fun q => q.cid == p.cid && !q.grp && ordered p q
        && (decide (q.seq < p.seq) || (q.seq == p.seq && decide (q.id < p.id))))
    && p.deps.all (fun d => s.wbuf.all (fun q => q.id != d || q.grp))

/-- A unit may perform at grp scope: with `.w8` or `.w16` all of its store may, and no other such store of the group that shares a
unit is on its way (R83). -/
def mayPerformGrp (s : State) (p : PStore) : Bool :=
  grpReady s p && (!p.whole
    || ((s.wbuf.filter (fun q => sameStore p q && !q.grp)).all (grpReady s)
      && !s.wbuf.any (fun q => wholeOverlap p q && groupOf (p.cid / 4) == groupOf (q.cid / 4) && partDone s true q)))

/-- A unit may perform at pkg scope by itself: it has performed at grp, the stores its context had read have performed
(R79), and so have the earlier ones of its group to its units (R78.5). -/
def pkgReady (s : State) (p : PStore) : Bool :=
  p.grp
    && p.deps.all (fun d => s.wbuf.all (fun q => q.id != d))
    && (s.wbuf.takeWhile (fun q => q.id != p.id)).all
        (fun q => !(q.grp && groupOf (q.cid / 4) == groupOf (p.cid / 4) && ordered p q))

/-- A unit may perform at pkg scope: with `.w8` or `.w16` all of its store may, and no other such store that shares a unit is on
its way (R83). -/
def mayPerformPkg (s : State) (p : PStore) : Bool :=
  pkgReady s p && (!p.whole
    || ((s.wbuf.filter (sameStore p)).all (pkgReady s) && !s.wbuf.any (fun q => wholeOverlap p q && partDone s false q)))

/-- What is left of the bytes that other packages have answered in the step: of these keys, what each had answered
before, else what is given; the bytes and the new record (R88). -/
def answerBytes (seen : List (Nat × Nat × Nat × Byte)) (keys : List (Nat × Nat × Nat)) (given : List Byte) :
    List Byte × List (Nat × Nat × Nat × Byte) :=
  match keys, given with
  | [], _ => ([], seen)
  | _, [] => ([], seen)
  | k :: ks, b :: bs =>
    match seen.find? (fun e => decide ((e.1, e.2.1, e.2.2.1) = k)) with
    | some e =>
      let r := answerBytes seen ks bs
      (e.2.2.2 :: r.1, r.2)
    | none =>
      let r := answerBytes (seen ++ [(k.1, k.2.1, k.2.2, b)]) ks bs
      (b :: r.1, r.2)

/-- What the other packages answer to a read: the bytes that are given, free values where they are too few (log 20); a byte that
has been answered in this step is answered so again (R88). -/
def answers (s : State) (acc : Access) (remote : List Byte) : State × List Byte :=
  if remoteCount acc = 0 then (s, [])
  else
    let r := if remote.length < remoteCount acc then takeFree s (remoteCount acc) else (s, remote)
    match acc.shared.bind (fun g => fget? r.1.groups g) with
    | none => r
    | some g =>
      let x := answerBytes g.answered (remoteKeys acc) r.2
      ({ r.1 with groups := fset r.1.groups g.sgid { g with answered := x.2 } }, x.1)

/-- The record of a store that fails its colour check (R65, R397). -/
def tagTrap (p : PStore) : TrapInfo :=
  { cause := 0x0A, addr := p.va, plane := field p.va.toNat 60 4, wr := true, dfr := true, slot := p.slot }

/-- The first failing deferred store of a context is kept, later ones are counted (R65). -/
def withTagFail (c : Ctx) (t : TrapInfo) : Ctx :=
  { c with tagFail := match c.tagFail with | none => some t | some u => some { u with dcnt := u.dcnt + 1 } }

def noteTagFail (s : State) (p : PStore) : State := setCtx s p.cid (withTagFail (ctxOf s p.cid) (tagTrap p))

/-- Some sector of a store has another tag than its colour: the store fails its check (R65, R409). -/
def failsCheck (s : State) (p : PStore) : Bool :=
  p.kind == .data && !p.checked && (spanSectors p.spans).any (fun k => sectorClass s k p.colour == .tag)

/-- A unit of a store reaches its first stage. The store is checked before the first of them does; one that fails is not
performed (R65). -/
def performGrp (s : State) (p : PStore) : State :=
  if failsCheck s p then
    noteTagFail (recordRead { s with wbuf := s.wbuf.filter (fun q => !sameStore p q) } p.spans p.colour (some p.cid)) p
  else
    let rest := s.wbuf.filter (fun q => q.id != p.id)
    { s with wbuf := rest.filter (·.grp) ++ { p with grp := true, checked := true }
        :: (rest.filter (fun q => !q.grp)).map (fun q => if sameStore p q then { q with checked := true } else q) }

/-- A store's first unit in a sector: none of the store's other units there has performed. -/
def firstInSector (s : State) (p : PStore) : Bool :=
  let sec := p.addr / 32
  let units := (p.spans.map (fun q => (min (q.1 + q.2) (32 * sec + 32) + 3) / 4 - max q.1 (32 * sec) / 4)).foldl (· + ·) 0
  decide (units ≤ (s.wbuf.filter (fun q => sameStore p q && q.addr / 32 == sec)).length)

/-- A write to a sector performs: a patrol write-back that is still to come is dropped (R428). -/
def dropScrub (s : State) (sec : Nat) : State := { s with cold := { s.cold with scrubs := s.cold.scrubs.filter (fun k => k != sec) } }

/-- A store reaches memory. The read of its merge is recorded (R409), but for an atomic, whose own read was (it passes no stage in
the write buffers); a sector that has been given another tag since fails the check (R65). -/
def performPkg (s : State) (p : PStore) : State :=
  let s0 := { s with wbuf := s.wbuf.filter (fun q => q.id != p.id) }
  let sec := p.addr / 32
  match p.kind with
  | .data =>
    if sectorClass s sec p.colour = .tag then
      noteTagFail (recordSector (.stack (stackOf p.addr)) p.colour (some p.cid) { s with wbuf := s.wbuf.filter (fun q => !sameStore p q) } sec) p
    else
      let s1 := putSector (if p.cover || !p.grp || !firstInSector s p then s0 else recordSector (.stack (stackOf p.addr)) p.colour none s0 sec) p
      { dropScrub s1 sec with mem := memPutAll s1.mem p.addr p.bytes }
  | _ => putSector (dropScrub s0 sec) p

/-- Requests that wait are served again. -/
def retryHeld (s : State) : State :=
  { s with agenda := s.heldReqs.map Input.retry ++ s.agenda, heldReqs := [] }

/-- A context's stores still short of a scope: 1 grp, 2 die and pkg (R79, R80). -/
def storesShort (s : State) (cid scope : Nat) : Bool :=
  s.wbuf.any (fun p => p.cid == cid && (decide (2 ≤ scope) || !p.grp))

/-! ### Loads -/

/-- An outstanding load of the acting context (R242, R344): of SY, or of SX for `jtab`. -/
def issueLoad (s : State) (va : Word) (acc : Access) (use : LoadUse) (whole : Bool := false) : State :=
  let c := me s
  let l : PLoad :=
    { id := s.nextId, cid := s.cur, seq := c.seq, va := va, acc := acc, use := use
      gen := if c.seg.isSome then some c.segGen else none
      whole := whole || isTable use, slot := if isTable use then 0 else 1, pc := c.pc }
  { bumpSeq (noteWalks s (threadPipe (myCore s)) (myCore s) acc) s.cur with nextId := s.nextId + 1, loads := s.loads ++ [l] }

/-- The load is an atomic. -/
def isAtom (l : PLoad) : Bool := match l.use with | .atom .. => true | _ => false

/-- Note the stores that a context has read (R79). -/
def noteReads (s : State) (cid : Nat) (ids : List Nat) : State :=
  let c := ctxOf s cid
  let live := c.readFrom.filter (fun i => s.wbuf.any (fun p => p.id == i))
  if cid < 4 * Config.nCores then setCtx s cid { c with readFrom := (live ++ ids).eraseDups } else s

/-- The later stores of a load's context that were issued before it performed follow the stores it has read (R79). -/
def orderAfter (s : State) (l : PLoad) (ids : List Nat) : State :=
  let f (p : PStore) : PStore := if p.cid = l.cid ∧ l.seq < p.seq then { p with deps := p.deps ++ ids } else p
  let c := ctxOf s l.cid
  if ids.isEmpty then s
  else setCtx { s with wbuf := s.wbuf.map f } l.cid
    { c with seg := c.seg.map (fun g => { g with stores := g.stores.map f }) }

/-- A load performs: it takes its bytes as its context sees them now. -/
def sampleLoad (s : State) (l : PLoad) (remote : List Byte) : State :=
  if l.sample.isSome then s
  else
    let cls := readClass s l.cid l.seq l.acc
    let bytes := accBytes s l.cid l.seq l.acc remote
    let ids := accReads s l.cid l.seq l.acc
    let s1 := recordSeen (orderAfter (noteReads s l.cid ids) l ids) l.cid l.seq l.acc
    { s1 with loads := s1.loads.map (fun m => if m.id = l.id then { m with sample := some (bytes, cls) } else m) }

/-- Loads perform in program order (R78.1): the earlier ones of the context that have not performed do so
first. A load of a remote page is not ordered against anything (R88). -/
def earlierLoads (s : State) (l : PLoad) : List PLoad :=
  s.loads.filter (fun m => m.cid == l.cid && decide (m.seq < l.seq) && m.sample.isNone
    && isLocal m.acc && isLocal l.acc)

/-- A store of another context is visible to this one in some of the units that the load reads and not yet in others:
of the stores that a load which sees them whole must not meet so (R83, R84, R223), of another suffix too (log 7). -/
def torn (s : State) (l : PLoad) : Bool :=
  let mine := spanUnits (accSpans l.acc)
  let hidden (p q : PStore) : Bool := sameStore p q && !(q.grp && groupOf (q.cid / 4) == groupOf (l.cid / 4))
  l.whole && s.wbuf.any (fun p => p.cid != l.cid && p.kind == .data && (p.whole || isTable l.use)
    && (let n := ((s.wbuf.filter (hidden p)).filter (fun q => mine.contains (q.addr / 4))).length
        0 < n && decide (n < ((spanUnits p.spans).filter mine.contains).length)))

/-- The header read of a `jtab`. -/
def isHeader (u : LoadUse) : Bool := match u with | .jtabHead .. => true | _ => false

/-- The header of an earlier `jtab` of the context has not returned: its entry read comes before this load (R78.1, R223). -/
def headAhead (s : State) (l : PLoad) : Bool :=
  isLocal l.acc && s.loads.any (fun m => m.cid == l.cid && decide (m.seq < l.seq) && isHeader m.use)

/-- No earlier atomic of the context is still outstanding, no earlier `jtab` has still a read to come, and no load that sees
stores whole meets one in part. -/
def loadMayReturn (s : State) (l : PLoad) : Bool :=
  !l.held && !torn s l && !headAhead s l && (earlierLoads s l).all (fun m => !isAtom m && !m.held && !torn s m)

/-- An atomic may perform: every earlier load of its context has returned (R78.2), the stores to its units that its context sees and
those to a part of them that another group sees have performed at pkg scope (R78.5, R78.6), its context's earlier injections into
its sector have (R274), and so have the stores it has read (R79; log 69). -/
def atomMayPerform (s : State) (l : PLoad) : Bool :=
  !s.loads.any (fun m => m.cid == l.cid && decide (m.seq < l.seq) && isLocal m.acc)
    && (accSpans l.acc).all (fun (a, n) =>
      s.wbuf.all (fun p => !(visibleTo l.cid l.seq p && isData p
        && decide (p.addr / 4 ≤ (a + n - 1) / 4 ∧ a / 4 ≤ (p.addr + p.bytes.length - 1) / 4))
        && !(p.kind != .data && p.cid == l.cid && decide (p.seq < l.seq) && p.addr / 32 == a / 32)))
    && !halfSeen s (accSpans l.acc)
    && (ctxOf s l.cid).readFrom.all (fun i => s.wbuf.all (fun p => p.id != i))

/-- Perform a load and, before it, the earlier ones. -/
def performInOrder (s : State) (l : PLoad) (remote : List Byte) : State :=
  let s1 := (earlierLoads s l).foldl (fun t m => sampleLoad t m []) s
  sampleLoad s1 l remote

/-! ### Waiting on a unit (R255) -/

/-- The conditions of `wait`: 0 eq, 1 ne, 2 geu, 3 any. -/
def waitHolds (cond : Nat) (w c : Half) : Bool :=
  if cond = 0 then w == c else if cond = 1 then w != c else if cond = 2 then c.ule w else w &&& c != 0

/-- The unit as a context reads it now, every earlier access of the context before it; what another package answers
is a free value, the same within a step (R88; log 20). -/
def waitUnit (s : State) (cid : Nat) (acc : Access) : Half :=
  BitVec.ofNat 32 (leNat (accBytes s cid (ctxOf s cid).seq acc (answers s acc []).2))

/-- The translation of a waiting context's unit, made anew at each read (R74, R393). -/
def waitXlate (s : State) (cid : Nat) (va : Word) : Xlate := translate s (threadReq { s with cur := cid } va 4 4 false)

/-- A waiting context reads its unit again: the wait is over when the condition holds; where the unit no longer translates,
or the read fails its check, the bundle is presented again (R65, R68, R74, R410). -/
def rereadWait (s : State) (cid : Nat) : State :=
  let c := ctxOf s cid
  match c.phase with
  | .waitFor va cond v =>
    match waitXlate s cid va with
    | .ok acc =>
      let s1 := recordSeen (noteWalks s (threadPipe (cid / 4)) (cid / 4) acc) cid c.seq acc
      if s.cold.hbmHold then s
      else if readClass s cid c.seq acc ≠ 0 then setCtx s cid { c with phase := .none }
      else if waitHolds cond (waitUnit s cid acc) v then
        noteReads (setCtx (answers s1 acc []).1 cid { c with phase := .waitDone }) cid (accReads s cid c.seq acc)
      else s1
    | _ => setCtx s cid { c with phase := .none }
  | _ => s

/-- A unit of n bytes at an address was written at pkg scope: the contexts that wait on it read it again. -/
def wakeWaiters (s : State) (addr n : Nat) : State :=
  (s.ctxs.filter (fun e => match e.2.phase with
    | .waitFor va _ _ =>
      (match waitXlate s e.1 va with
        | .ok acc => (accSpans acc).any (fun p => p.1 / 4 ≤ (addr + n - 1) / 4 && addr / 4 ≤ (p.1 + p.2 - 1) / 4)
        | _ => true)
    | _ => false)).foldl (fun t e => rereadWait t e.1) s

end Sys2Proof.Machine
end

