-- ==== Sys2Proof/Machine/Operands.lean ====
section
/-! DEFINITION. Operands of every form (R193 to R197), what a live operation plans before its bundle issues,
and the checks every operation shares (R195, R202, R203, R209, R279, R344). -/

namespace Sys2Proof.Machine

/-! ### Sources -/

/-- A source operand: value, residue, whether it is full, its BT bit, and what a block on it waits for. -/
structure Src where
  v    : Word
  res  : BitVec 4
  full : Bool := true
  bt   : Bool := false
  why  : Reason := .waiting

/-- The residue an operand carries: s and a registers carry their own, the rest have that of their value
(R238). -/
def carried (code : Nat) (r : Reg) : BitVec 4 := if code < 0x50 then r.res else rho r.val

/-- A scalar source (R194, R207); none for a reserved code. -/
def scalarSrc (s : State) (code : Nat) (bt : Bool) : Option Src :=
  if code < 0x68 then
    let r := readReg (me s) code
    some { v := r.val, res := carried code r, full := r.full, bt := bt, why := .scalar code }
  else if code = 0x68 then
    let v := ((me s).imm).getD 0
    some { v := v, res := rho v }
  else none

/-- A value in the stream or the control word: never empty. -/
def immSrc (v : Word) : Src := { v := v, res := rho v }

/-- The short field sign-extended (R193, form I). -/
def shortSext (o : Fields) : Word := o.short.signExtend 64

/-- The short field as an 8-bit code (R193, form K). -/
def shortK (o : Fields) : Nat := o.short.toNat

/-- Source A. -/
def srcA (s : State) (o : Fields) : Option Src := scalarSrc s o.srca.toNat o.bta

/-- Source B: the short field of a twin, else a scalar operand. -/
def srcB (s : State) (o : Fields) : Option Src :=
  if o.twin then some (immSrc (shortSext o)) else scalarSrc s o.srcb.toNat o.btb

/-- A scalar read through DST: it has no BT bit (R195). -/
def srcD (s : State) (code : Nat) : Src :=
  let r := readReg (me s) code
  { v := r.val, res := carried code r, full := r.full, why := .scalar code }

/-- A row source (R279). -/
def rowFull (s : State) (cl : Cluster) (r : Nat) : Bool := (readRow (me s) cl r).full

/-! ### Plans -/

/-- What happens after the bundle (R224, R233, R234, R269). -/
inductive Post where
  | none
  | xfer (x : Xfer)
  | trap (t : TrapInfo)
  | rfe
  | tend (status : Half)
deriving DecidableEq, Repr

/-- A stop of step 8 of R203: a precise trap, or a page that is not present (R68). -/
inductive Stop where
  | trap (t : TrapInfo)
  | page (k : PageKey) (va : Word) (wr : Bool)
deriving DecidableEq, Repr

/-- What one live operation does, worked out from the state before its bundle (R82). The fields follow the
steps of R203. -/
structure Plan where
  /-- step 4: it raises the illegal-operation trap, with this qualifier -/
  illegal : Option Nat := .none
  /-- step 5: an empty source with its BT bit at 1 -/
  emptyTrap : Bool := false
  /-- step 6: residue mismatches, as kind and register code (R239) -/
  errs : List (Nat × Nat) := []
  /-- step 6: a `cmpt` that fires, with its code (R232) -/
  fire : Option Nat := .none
  /-- step 7 -/
  blocks : List Reason := []
  /-- deferred store faults are taken here once nothing blocks (R65, R81) -/
  takesTag : Bool := false
  /-- step 8 -/
  stop : Option Stop := .none
  /-- step 9: the first uncorrectable word of the scratchpad that it reads -/
  spadBad : Option Nat := .none
  /-- scratchpad banks that it touches (R127) -/
  banks : List Nat := []
  /-- what it writes, for the double-write rules -/
  dests : List Dest := []
  /-- it ends an open segment (R87) -/
  endsSeg : Bool := false
  /-- entries and bytes of the segment store buffer (R348) -/
  segEntries : Nat := 0
  segBytes : Nat := 0
  /-- scratchpad rows written (R412) -/
  spadWrites : List Nat := []
  /-- it takes a DRAW value (R168) -/
  draws : Bool := false
  /-- the last wait of step 7, of a `slack`, `rdv` or `post`: what the attempt does, and what it waits for -/
  gate : State → Option (State × Reason) := fun _ => .none
  /-- the read of a `wait`, after steps 8 and 9 -/
  await : State → Option (State × Reason) := fun _ => .none
  /-- the effect of issuing -/
  effect : State → State := id
  /-- its effect lands after its bundle (R274) -/
  last : Bool := false
  post : Post := .none
  /-- the q-dependence trap is due after the bundle (R100) -/
  qdep : Bool := false

/-- An operation that raises the illegal-operation trap. -/
def illegalPlan : Plan := { illegal := some 0 }

/-- Some empty source traps. -/
def anyEmptyTrap (srcs : List Src) : Bool := srcs.any (fun x => !x.full && x.bt)

/-- The empty sources that block. -/
def emptyWaits (srcs : List Src) : List Reason := srcs.filterMap (fun x => if x.full then none else some x.why)

def allFull (srcs : List Src) : Bool := srcs.all (·.full)

/-! ### Destinations -/

/-- The accumulator tile of a cluster, as a tile of a routine. -/
def accRef (cl : Cluster) : TileRef := .acc (cl == .y)

/-- The tile of a cluster is owned by an engine (R20). -/
def tileTaken (s : State) (cl : Cluster) : Bool := (tileOf (me s) cl).owner != .thread

/-- A write waits for an empty destination that a producer will still fill, and for its tile (R279, R344). -/
def destWaits (s : State) (d : Dest) : List Reason :=
  match d with
  | .scalar code => if unfilled s d then [.scalar code] else []
  | .row cl r =>
    (if tileTaken s cl then [.tile (accRef cl)] else [])
      ++ (if !rowFull s cl r && producing s d then [.row cl r] else [])
  | _ => []

/-- A scalar destination: any s, a, b or c register (R194). -/
def scalarDest (code : Nat) : Bool := code < 0x68

/-- A read of vector rows: an empty row traps or blocks, and so does an engine-owned tile (R20, R23, R279). -/
structure RowUse where
  cl : Cluster
  r  : Nat
  bt : Bool := false

/-- An empty source row with its BT bit at 1 (R195). -/
def rowTraps (s : State) (us : List RowUse) : Bool := us.any (fun u => !rowFull s u.cl u.r && u.bt)

/-- Some source row lies in an engine-owned tile, with its BT bit at 1: the operation traps (R20). -/
def tileTraps (s : State) (us : List RowUse) : Bool := us.any (fun u => tileTaken s u.cl && u.bt)

/-- The tiles among reasons give way to a tile-access trap of the same operation (R20, R309; log 10). -/
def besideTrap (traps : Bool) (ws : List Reason) : List Reason :=
  if traps then ws.filter (fun w => match w with | .tile _ => false | _ => true) else ws

/-- What the source rows and the destinations of an operation wait for. -/
def rowWaits (s : State) (us : List RowUse) (dests : List Dest := []) : List Reason :=
  besideTrap (tileTraps s us)
    (us.flatMap (fun u =>
      if tileTaken s u.cl then [.tile (accRef u.cl)]
      else if rowFull s u.cl u.r then [] else [.row u.cl u.r])
    ++ dests.flatMap (destWaits s))

/-- The tile-access trap (R20, R395). -/
def rowStop (s : State) (us : List RowUse) : Option Stop :=
  if tileTraps s us then some (.trap { cause := 5, qual := 1 }) else none

/-! ### Slot rules (R202) -/

def onService (s : State) : Bool := isService (myCore s)

/-- The slot may hold the operation, on this core. -/
def slotOk (s : State) (o : Fields) (allowed : List SlotId) : Bool :=
  allowed.contains o.slot && (!onService s || o.slot == .sx || o.slot == .sy || o.slot == .cp)

/-- SRCB and BTB are 0 (forms N and L). -/
def noB (o : Fields) : Bool := o.srcb == 0 && !o.btb

/-- SRCA and BTA are 0. -/
def noA (o : Fields) : Bool := o.srca == 0 && !o.bta

/-! ### Scalar results -/

/-- Put a scalar result in flight. -/
def sendScalar (s : State) (code lat : Nat) (v : Word) (res : BitVec 4) : State :=
  sendResult s (inFlightAfter s lat (.scalar code) (.word v res))

/-- The check of a write into a b register (R239, kind 3). -/
def bWriteErr (code : Nat) (v : Word) (res : BitVec 4) : List (Nat × Nat) :=
  if 0x50 ≤ code && code < 0x58 && res != rho v then [(3, code)] else []

/-- The check of a carried residue at a use (R239). -/
def resErr (kind code : Nat) (x : Src) : List (Nat × Nat) :=
  if x.full && x.res != rho x.v then [(kind, code)] else []

/-- A plan that reads scalar sources and writes one scalar register after `lat` cycles. -/
def scalarPlan (s : State) (ok : Bool) (code lat : Nat) (srcs : List Src) (v : Word) (res : BitVec 4) : Plan :=
  if !ok || !scalarDest code then illegalPlan
  else {
    emptyTrap := anyEmptyTrap srcs
    errs := if allFull srcs then bWriteErr code v res else []
    blocks := emptyWaits srcs ++ destWaits s (.scalar code)
    dests := [.scalar code]
    effect := fun t => sendScalar t code lat v res }

/-- Two operands A and B, a value and a residue from them (R207, R208). -/
def aluPlan (s : State) (o : Fields) (lat : Nat) (f : Src → Src → Word × BitVec 4) : Plan :=
  match srcA s o, srcB s o with
  | some a, some b =>
    let r := f a b
    scalarPlan s (slotOk s o [.sx, .sy]) o.dst.toNat lat [a, b] r.1 r.2
  | _, _ => illegalPlan

/-- One operand A, form N. -/
def unaryPlan (s : State) (o : Fields) (f : Word → Word) : Plan :=
  match srcA s o with
  | some a => scalarPlan s (slotOk s o [.sx, .sy] && noB o) o.dst.toNat 1 [a] (f a.v) (rho (f a.v))
  | none => illegalPlan

/-! ### Pages -/

/-- The first not-present fault on a page and plane starts its page-in; later ones join it (R394). -/
def startPageIn (s : State) (k : PageKey) : State :=
  if s.moves.any (fun m => m.key == k) then s else { s with moves := s.moves ++ [{ key := k, inward := true }] }

/-- The stop of a translation, if any. -/
def xlateStop (x : Xlate) (va : Word) (wr : Bool) : Option Stop :=
  match x with
  | .ok _ => none
  | .trap t => some (.trap t)
  | .notPresent k => some (.page k va wr)

/-- The access of a translation without a fault. -/
def xlateAcc (x : Xlate) : Access :=
  match x with
  | .ok a => a
  | _ => { parts := [], colour := 0, shared := none }

end Sys2Proof.Machine
end

