-- ==== Sys2Proof/Machine/Tiles.lean ====
section
/-! DEFINITION. Tile slots: owner bits, headers, layouts, and the tiles that engine work holds (R20, R124, R125,
R243, R313). -/

namespace Sys2Proof.Machine

/-! ### Headers (R124) -/

def headOf (core : Core) (k : Nat) : Word := fget core.heads k 0

def hLayout (h : Word) : Bool := h.getLsbD 1
def hTrans (h : Word) : Bool := h.getLsbD 2
def hFmt (h : Word) : Nat := field h.toNat 3 5
def hSwz (h : Word) : Nat := field h.toNat 8 8
def hAlloc (h : Word) : Bool := h.getLsbD 16
def hCtx (h : Word) : Nat := field h.toNat 17 2

/-- A header with LAYOUT, TRANS, FMT and SWZ replaced. -/
def withShape (h : Word) (layout trans : Bool) (fmt swz : Nat) : Word :=
  (h &&& 0xFFFF_FFFF_FFFF_0001) ||| BitVec.ofNat 64
    ((if layout then 2 else 0) + (if trans then 4 else 0) + fmt % 32 * 8 + swz % 256 * 256)

/-- The slot is allocated to the task of a context (R124); one that stays with a SAVED task is not the new task's (R47). -/
def allocatedTo (core : Core) (ctx k : Nat) : Bool :=
  let h := headOf core k
  decide (k < Config.nSlots) && hAlloc h && hCtx h == ctx && !core.savedSlots.contains k

/-- The FMT code of a format (R154). -/
def fmtOf (fc : Nat) : Nat := if 128 ≤ fc then 31 else fc

/-! ### Owners (R20) -/

def slotOwner (core : Core) (k : Nat) : Owner := fget core.owners k .thread

/-- The owner bit changes, in the header too. -/
def setOwner (core : Core) (k : Nat) (w : Owner) : Core :=
  { core with
    owners := fset core.owners k w
    heads := fset core.heads k (if w = .thread then headOf core k &&& ~~~(1 : Word) else headOf core k ||| 1) }

/-- The owner of a tile of a context. -/
def tileOwner (s : State) (cid : Nat) (t : TileRef) : Owner :=
  match t with
  | .slot k => slotOwner (coreOf s (cid / 4)) k
  | .acc y => (tileOf (ctxOf s cid) (if y then .y else .x)).owner

def setTileOwner (s : State) (cid : Nat) (t : TileRef) (w : Owner) : State :=
  match t with
  | .slot k => setCore s (cid / 4) (setOwner (coreOf s (cid / 4)) k w)
  | .acc y =>
    let cl := if y then Cluster.y else Cluster.x
    setCtx s cid (setTile (ctxOf s cid) cl { tileOf (ctxOf s cid) cl with owner := w })

def giveTiles (s : State) (cid : Nat) (ts : List TileRef) (w : Owner) : State :=
  ts.foldl (fun t x => setTileOwner t cid x w) s

/-- The routines of a context on its core, the running one and those cut short included. -/
def routinesOf (s : State) (cid : Nat) : List Routine :=
  let core := coreOf s (cid / 4)
  ((match core.run with | some r => [r.r] | none => []) ++ core.cuts.map (·.r) ++ core.mqueue).filter (fun r => r.cid == cid)

/-- Return to the thread the tiles that no routine of the context holds any more (R21, R313). -/
def returnTiles (s : State) (cid : Nat) (ts : List TileRef) : State :=
  giveTiles s cid (ts.filter (fun t => !(routinesOf s cid).any (fun r => r.tiles.contains t))) .thread

/-- The tiles of a copy: its slots and its accumulator tile. -/
def copyTiles (o : CopyOp) : List TileRef :=
  (List.range o.nslots).map (fun k => TileRef.slot (o.slot + k)) ++ (match o.accY with | some y => [.acc y] | none => [])

/-- A tile is held by work that waits for the end of the context's own segment (R118, R152). -/
def heldByWaiting (s : State) (cid : Nat) (t : TileRef) : Bool :=
  let core := coreOf s (cid / 4)
  core.mqueue.any (fun r => r.cid == cid && r.waits && r.tiles.contains t)
    || (core.cqueue ++ core.sendWait).any (fun o => o.cid == cid && o.waits && (copyTiles o).contains t)
    || core.chans.any (fun e => field e.2.entry.toNat 13 2 == cid % 4
        && e.2.posted.any (fun p => p.waits && t == .slot p.slot))

/-- A rewind removes the engine work that waits for the segment's end and returns its tiles (R118, R152,
R414). DESIGN CHOICE (log 105): of a `cwtw` that it removes the count alone falls; where an older one has completed, LSTATE stays
LOADING and a failure of that one stays remembered. -/
def dropWaiting (s : State) (cid : Nat) : State :=
  let core := coreOf s (cid / 4)
  let rs := core.mqueue.filter (fun r => r.cid == cid && r.waits)
  let os := (core.cqueue ++ core.sendWait).filter (fun o => o.cid == cid && o.waits)
  let ps := core.chans.flatMap (fun e =>
    if field e.2.entry.toNat 13 2 = cid % 4 then (e.2.posted.filter (·.waits)).map (fun p => TileRef.slot p.slot) else [])
  let core' := { core with
    mqueue := core.mqueue.filter (fun r => !(r.cid == cid && r.waits))
    cqueue := core.cqueue.filter (fun o => !(o.cid == cid && o.waits))
    sendWait := core.sendWait.filter (fun o => !(o.cid == cid && o.waits))
    chans := core.chans.map (fun e =>
      if field e.2.entry.toNat 13 2 = cid % 4 then (e.1, { e.2 with posted := e.2.posted.filter (fun p => !p.waits) }) else e) }
  let gone (k : CopyKind) : Nat := (os.filter (fun o => o.kind == k)).length
  let s1 := setCtx s cid { ctxOf s cid with
    cwtwOut := (ctxOf s cid).cwtwOut - gone .cwtw, cwtrOut := (ctxOf s cid).cwtrOut - gone .cwtr }
  returnTiles (setCore s1 (cid / 4) core') cid (rs.flatMap (·.tiles) ++ os.flatMap copyTiles ++ ps)

/-- A write of the context to a row of its accumulator tile, issued before the tile was handed over, is still outstanding (R85). -/
def writeAhead (s : State) (cid : Nat) (y : Bool) : Bool :=
  let c := ctxOf s cid
  let k := coreOf s (cid / 4)
  let cl := if y then Cluster.y else Cluster.x
  let isRow (d : Dest) : Bool := match d with | .row a _ => a == cl | _ => false
  c.flight.any (fun f => isRow f.dest && (c.rebase || decide (k.cycle < f.due))) || c.frozen.any (fun f => isRow f.dest)
    || s.loads.any (fun l => l.cid == cid && (loadFills l.use).any isRow) || k.sfu.any (fun q => q.cid == cid && q.cl == cl)

/-- An engine may touch tiles that a context has handed over: what the context had issued to them before has performed (R85). -/
def handedOver (s : State) (cid : Nat) (ts : List TileRef) : Bool :=
  ts.all (fun t => match t with | .acc y => !writeAhead s cid y | .slot _ => true)

/-- The results of a context that are due by its core's present cycle land. -/
def landReady (s : State) (cid : Nat) : State :=
  let c := ctxOf s cid
  if c.rebase then s else setCtx s cid (landDue c (coreOf s (cid / 4)).cycle)

/-! ### The scratchpad (R243) -/

/-- The banks of scratchpad rows: slot k lies in bank k >> 2 (R127). -/
def rowBanks (rows : List Nat) : List Nat := (rows.map (fun r => r / 128)).eraseDups

/-- An engine uses the bank in a cycle. -/
def bankTaken (core : Core) (t b : Nat) : Bool := core.banks.any (fun u => u.bank == b && u.first ≤ t && t < u.till)

/-- The matrix engine uses the bank in a cycle: it is served before the copy engine. -/
def matrixTakes (core : Core) (t b : Nat) : Bool := core.banks.any (fun u => u.matrix && u.bank == b && u.first ≤ t && t < u.till)

/-- An engine uses banks from a core's present cycle on, for n cycles; uses that are over are forgotten (R127; log 71). -/
def useBanks (core : Core) (bs : List Nat) (n : Nat) (matrix : Bool) : Core :=
  { core with banks := core.banks.filter (fun u => core.cycle < u.till)
      ++ bs.map (fun b => { bank := b, first := core.cycle, till := core.cycle + n, matrix := matrix }) }

/-- Row number of a byte offset. -/
def spadRow (core : Core) (row : Nat) : Row := fget core.spad row 0

def putSpad (core : Core) (row : Nat) (v : Row) : Core :=
  { core with
    spad := fset core.spad row v
    spadBad := core.spadBad.filter (fun w => w / 64 != row)
    spadOne := core.spadOne.filter (fun w => w / 64 != row) }

/-- The 8-byte words of scratchpad rows (R411). -/
def rowWords (rows : List Nat) : List Nat := rows.flatMap (fun r => (List.range 64).map (fun k => 64 * r + k))

/-- The banks of 8-byte words (R127). -/
def wordBanks (ws : List Nat) : List Nat := (ws.map (fun w => w / 8192)).eraseDups

/-- The first uncorrectable word of a list (R411). -/
def badWord (core : Core) (ws : List Nat) : Option Nat :=
  if core.spadBad.isEmpty then none else ws.find? (fun w => core.spadBad.contains w)

/-- A read of words corrects their single wrong bits and records it (R411). -/
def noteWords (s : State) (core : Nat) (ws : List Nat) (cid : Option Nat) : State :=
  if (coreOf s core).spadOne.isEmpty then s
  else (ws.eraseDups.filter (fun w => (coreOf s core).spadOne.contains w)).foldl (fun t w =>
    recordError (setCore t core { coreOf t core with spadOne := (coreOf t core).spadOne.filter (fun x => x != w) }) (.core core) true
      { kind := 0, addr := 8 * w, cid := cid }) s

/-- Words that are written whole have fresh check bits. -/
def clearWords (core : Core) (ws : List Nat) : Core :=
  { core with
    spadBad := core.spadBad.filter (fun w => !ws.contains w)
    spadOne := core.spadOne.filter (fun w => !ws.contains w) }

/-- An engine or a copy meets an uncorrectable word: it is recorded (R410, R411). -/
def noteBad (s : State) (core w : Nat) (cid : Option Nat) : State :=
  recordError s (.core core) false { kind := 8, addr := 8 * w, cid := cid }

/-- n bits at a byte offset of the scratchpad; the bits lie in one row. -/
def spadBits (core : Core) (off n : Nat) : Nat := field (spadRow core (off / 512)).toNat (8 * (off % 512)) n

/-- Replace n bits at a byte offset; the check bits of the words that are written whole are written anew. -/
def putSpadBits (core : Core) (off n v : Nat) : Core :=
  let row := spadRow core (off / 512)
  let sh := 8 * (off % 512)
  let old := field row.toNat sh n
  let fresh (w : Nat) : Bool := off ≤ 8 * w && 8 * w + 8 ≤ off + n / 8
  { core with
    spad := fset core.spad (off / 512) (BitVec.ofNat 4096 (row.toNat - old * 2 ^ sh + v % 2 ^ n * 2 ^ sh))
    spadBad := core.spadBad.filter (fun w => !fresh w)
    spadOne := core.spadOne.filter (fun w => !fresh w) }

/-- Stores of n bytes each, at byte offsets, write the check bits anew of the words that they fill together (R411). -/
def freshFilled (core : Core) (spans : List (Nat × Nat)) : Core :=
  let stored (b : Nat) : Bool := spans.any (fun e => e.1 ≤ b && b < e.1 + e.2)
  let filled (w : Nat) : Bool := (List.range 8).all (fun i => stored (8 * w + i))
  { core with spadBad := core.spadBad.filter (fun w => !filled w), spadOne := core.spadOne.filter (fun w => !filled w) }

/-- n bytes at a byte offset of the scratchpad, which may run on into the next row. -/
def spadNum (core : Core) (off n : Nat) : Nat :=
  leNat ((List.range n).map (fun k => BitVec.ofNat 8 (spadBits core (off + k) 8)))

/-- Replace n bytes at a byte offset; the check bits stay (`freshFilled` writes them). -/
def putSpadNum (core : Core) (off n v : Nat) : Core :=
  (List.range n).foldl (fun k i => putSpadBits k (off + i) 8 (v / 2 ^ (8 * i) % 256)) core

/-- The interleaved block number L of R125. -/
def zBlock (r' c' k : Nat) : Nat :=
  match k with
  | 0 => 0
  | j + 1 => (c' % 2) + 2 * (r' % 2) + 4 * zBlock (r' / 2) (c' / 2) j

/-- The byte offset of element (r, c) of a tile of w-bit elements and 128 columns (R125); w is 8 or more. -/
def elemOffset (layout : Bool) (w r c : Nat) : Nat :=
  (if layout then 16 * zBlock (r / 4) (c / 4) 5 + 4 * (r % 4) + c % 4 else 128 * r + c) * w / 8

/-- The checks of R243 and R20 on a slot that a thread touches at a byte offset. -/
def slotStop (s : State) (off : Nat) (bt : Bool) : Option Stop :=
  let core := coreOf s (myCore s)
  let k := off / 16384
  if !allocatedTo core (s.cur % 4) k then some (.trap { cause := 5, qual := 0, addr := BitVec.ofNat 64 off })
  else if slotOwner core k != .thread && bt then some (.trap { cause := 5, qual := 1, addr := BitVec.ofNat 64 off })
  else none

/-- The slot is the task's and an engine owns it, with BT at 1: the operation traps (R20). -/
def slotTraps (s : State) (k : Nat) (bt : Bool) : Bool :=
  let core := coreOf s (myCore s)
  allocatedTo core (s.cur % 4) k && slotOwner core k != .thread && bt

/-- A slot that its engine owner makes the bundle wait for. -/
def slotWaits (s : State) (k : Nat) (bt : Bool) : List Reason :=
  let core := coreOf s (myCore s)
  if allocatedTo core (s.cur % 4) k && slotOwner core k != .thread && !bt then [.tile (.slot k)] else []

/-- The slots of a list that are not allocated to the task, or are owned by an engine with BT 1. -/
def slotsStop (s : State) (ks : List Nat) (bt : Bool) : Option Stop :=
  (ks.filterMap (fun k => slotStop s (16384 * k) bt)).head?

end Sys2Proof.Machine
end

