-- ==== Sys2Proof/Machine/Bundle.lean ====
section
/-! DEFINITION. Issuing a bundle: the condition tree, the checks of R203 in their order, segments, the effects
of the live operations, and the end of the bundle. -/

namespace Sys2Proof.Machine

/-! ### The condition tree (R184, R185) -/

/-- A shape: a test with its true and false subtree, or a leaf. -/
inductive Shape where
  | leaf
  | test (t f : Shape)
deriving DecidableEq, Repr

def testsIn (t : Shape) : Nat := match t with | .leaf => 0 | .test a b => testsIn a + testsIn b + 1

/-- The fourteen shapes in the order of R184; a number beyond them has no tests. -/
def shapeOf (n : Nat) : Shape :=
  let l := Shape.leaf
  let n2 := Shape.test l l
  match n with
  | 0 => .test (.test (.test n2 l) l) l
  | 1 => .test (.test (.test l n2) l) l
  | 2 => .test (.test n2 n2) l
  | 3 => .test (.test l (.test n2 l)) l
  | 4 => .test (.test l (.test l n2)) l
  | 5 => .test (.test n2 l) n2
  | 6 => .test (.test l n2) n2
  | 7 => .test n2 (.test n2 l)
  | 8 => .test n2 (.test l n2)
  | 9 => .test l (.test (.test n2 l) l)
  | 10 => .test l (.test (.test l n2) l)
  | 11 => .test l (.test n2 n2)
  | 12 => .test l (.test l (.test n2 l))
  | 13 => .test l (.test l (.test l n2))
  | _ => l

/-- The value of a test: a condition bit, or the first or last iteration of a level (R19, R185); none while the
condition bit is empty. -/
def testValue (c : Ctx) (code : Nat) : Option Bool :=
  if code < 0x10 then
    let r := readReg c (0x58 + code)
    if r.full then some (r.val.getLsbD 0) else none
  else
    let k := (code - 0x10) % 6 + 1
    match c.arch.loops.find? (fun l => l.level == k) with
    | none => some false
    | some l => some (if code < 0x16 then l.first else l.count == 1)

/-- The leaf number a tree takes, counted from `leaf`, its tests counted from `i`; the code of an empty test
otherwise. -/
def takeLeaf (c : Ctx) (codes : List Nat) (t : Shape) (i leaf : Nat) : Nat ⊕ Nat :=
  match t with
  | .leaf => .inl leaf
  | .test a b =>
    match testValue c (codes.getD i 0) with
    | none => .inr (codes.getD i 0)
    | some true => takeLeaf c codes a (i + 1) leaf
    | some false => takeLeaf c codes b (i + 1 + testsIn a) (leaf + testsIn a + 1)

/-- The leaf of a header: 0 to 4 (R184; the fifth leaf is L0). -/
def leafOf (c : Ctx) (h : Header) : Nat ⊕ Nat :=
  if h.shape.toNat = 14 then .inl 0
  else
    match takeLeaf c (h.tests.map (·.toNat)) (shapeOf h.shape.toNat) 0 1 with
    | .inl n => .inl (if n = 5 then 0 else n)
    | .inr k => .inr k

/-- The b register code of a leaf's target; none for L0 (R15). -/
def targetCode (h : Header) (leaf : Nat) : Option Nat :=
  if leaf = 0 then none else some (0x50 + (h.tgts.getD (leaf - 1) 0).toNat)

/-! ### The slots of a bundle -/

/-- One slot: its opcode, its leaf mask, and the plan of its operation (given the number of draws that come
before it in the bundle). -/
structure SlotOp where
  slot  : SlotId
  opc   : Nat
  lmask : BitVec 5
  plan  : Nat → State → Plan

/-- TINFO.SLOT (R397). -/
def slotNumber (s : SlotId) : Nat :=
  match s with
  | .sx => 0 | .sy => 1 | .vx => 2 | .vy => 3 | .mx => 4 | .cp => 5

def slotOp? (ops : List SlotOp) (s : SlotId) : Option SlotOp := ops.find? (fun o => o.slot == s)

/-- Both slots of a sister pair hold an opcode other than 0 (R191). -/
def isPair (ops : List SlotOp) (a b : SlotId) : Bool :=
  match slotOp? ops a, slotOp? ops b with
  | some x, some y => x.opc != 0 && y.opc != 0
  | _, _ => false

/-- A duplicate pair whose halves differ in opcode or leaf mask (R191). -/
def pairBad (ops : List SlotOp) (a b : SlotId) : Bool :=
  match slotOp? ops a, slotOp? ops b with
  | some x, some y => x.opc != 0 && y.opc != 0 && (x.opc != y.opc || x.lmask != y.lmask)
  | _, _ => false

/-- The live operations of a leaf with their plans, in slot order. VX draws before VY; a duplicate pair draws
one value (R106, R168). -/
def livePlans (h : Header) (ops : List SlotOp) (leaf : Nat) (s : State) : List (SlotId × Plan) :=
  let live := ops.filter (fun o => o.opc != 0 && o.lmask.getLsbD leaf)
  let xDraws := live.any (fun o => o.slot == .vx && (o.plan 0 s).draws)
  let shared := h.dup && isPair ops .vx .vy
  live.map (fun o => (o.slot, o.plan (if o.slot == .vy && xDraws && !shared then 1 else 0) s))

/-- DRAW values the bundle takes. -/
def drawCount (h : Header) (ops : List SlotOp) (live : List (SlotId × Plan)) : Nat :=
  let n := (live.filter (fun p => p.2.draws)).length
  if h.dup && isPair ops .vx .vy then min n 1 else n

/-- A destination that a second write of the bundle may not name (R209, R280, R301). -/
def clash (a b : Dest) : Bool :=
  decide (a = b) && (match a with | .scalar code => !hardZero code | _ => true)

/-- The slot of an operation that writes what an earlier one of the bundle writes. -/
def doubleWrite (seen : List Dest) (live : List (SlotId × Plan)) : Option SlotId :=
  match live with
  | [] => none
  | (sl, p) :: t => if p.dests.any (fun d => seen.any (clash d)) then some sl else doubleWrite (seen ++ p.dests) t

/-! ### Detected errors (R408, R414, R415) -/

/-- A rewind (R414): the segment's stores, those of an earlier copy whose tile flipped back in it among them (log 44), and waiting
engine work go, the checkpoint and the logged rows come back, these with fresh check bits, results in flight are dropped, and the SEG
bundle is fetched again. The trap and debug registers stay. -/
def rewind (s : State) : State :=
  match (me s).seg with
  | none => s
  | some g =>
    let c := me s
    let keep := c.arch.kspace.filter (fun e => 0xC0 ≤ e.1)
    let c1 := { c with
      arch := { g.arch with kspace := g.arch.kspace.filter (fun e => e.1 < 0xC0) ++ keep }
      flight := [], xfer := none, imm := none, phase := .none, seg := none
      segGen := c.segGen + 1, retry := some g.pc, pc := g.pc, npc := g.pc }
    let c2 := g.undo.foldr (fun u d => match u with | .row cl r old => putRow d cl r old | .spad .. => d) c1
    let s1 := setMe s c2
    let core := coreOf s1 (myCore s1)
    let whole (w : Nat) : Bool := g.undo.any (fun u => match u with | .spad r _ => r == w / 64 | .row .. => false)
    let s2 := setCore s1 (myCore s1)
      { core with
        spadBad := core.spadBad.filter (fun w => !whole w)
        spadOne := core.spadOne.filter (fun w => !whole w)
        spad := g.undo.foldr (fun u f => match u with | .spad r old => fset f r old | .row .. => f) core.spad }
    count (advance (dropWaiting s2 s2.cur) (40 + g.undo.length)) 0 1

/-- The task fails by a second error in one segment (R415). -/
def failSegment (s : State) : State :=
  let s1 := setMe s { me s with seg := none, segGen := (me s).segGen + 1 }
  count (stopTask (dropWaiting s1 s1.cur) .segfail) 1 1

/-- A detected error inside a segment rewinds, a second one before that segment ends fails the task, outside any
segment it traps with cause 0x15 (R408, R415). -/
def handleError (s : State) (kind : Nat) (t : TrapInfo) : State :=
  match (me s).seg with
  | some g => if g.second then failSegment s else rewind s
  | none =>
    if (me s).retry = some (me s).pc then failSegment s
    else trapHere (count s 2 1) { t with cause := 0x15, code := kind }

/-- An error that the core finds is recorded in the core's bank (R410, R418). -/
def detected (s : State) (kind code addr : Nat) (t : TrapInfo) : State :=
  handleError (recordError s (.core (myCore s)) false { kind := kind, addr := addr, code := code, cid := some s.cur }) kind t

/-! ### Holds and the start of a bundle -/

/-- An issue hold until the last fixed-latency result of the context has landed (R347, R398). -/
def holdResults (s : State) : State :=
  let last := (me s).flight.foldl (fun m f => max m f.due) (now s)
  let s1 := advance s (last - now s)
  setMe s1 (landDue (me s1) last)

/-- Deferred faults are taken before the first bundle that issues after they are found (R396, R408). Kinds 6 and 7
stand in the bank of the unit that found them; those of a copy always trap (R410). -/
def takeDeferred (s : State) (t : TrapInfo) (rest : List TrapInfo) : State :=
  let s1 := setMe s { me s with deferred := rest }
  if t.cause = 0x15 && t.copy then trapHere (count s1 2 1) t
  else if t.cause = 0x15 && (t.code = 6 || t.code = 7) then handleError s1 t.code t
  else if t.cause = 0x15 then detected s1 t.code 0 t.addr.toNat t
  else trapHere s1 t

/-- Open a segment: the checkpoint as it stands before the SEG bundle (R190, R412). The bundle opens a second
attempt where a rewind led back to it. -/
def openSegment (s : State) : State :=
  let c := me s
  setMe s { c with
    seg := some { arch := c.arch, pc := c.pc, second := c.retry == some c.pc }
    retry := none }

/-! ### Latches (R151, R189) -/

def latchReady (c : Ctx) (k : Nat) : List Nat := (fget c.latches k (0, [])).2

/-- Release the slot that a latch holds. -/
def popLatch (s : State) (k : Nat) : State :=
  let c := me s
  match fget c.latches k (0, []) with
  | (_, []) => s
  | (ch, slot :: rest) =>
    let s1 := setMe s { c with latches := fset c.latches k (ch, rest) }
    let core := coreOf s1 (myCore s1)
    let e := fget core.chans ch {}
    setCore s1 (myCore s1)
      { core with chans := fset core.chans ch { e with posted := e.posted.eraseP (fun p => p.ready && p.slot == slot) } }

/-- The latches of a pop mask. -/
def popList (h : Header) : List Nat := (List.range 8).filter (fun k => h.pop.getLsbD k)

/-! ### halt -/

/-- `halt` (R275): the segment ends; the context blocks until its stores have passed their colour checks, takes
deferred tag-mismatch faults, of stores, loads and atomics, else stops and its task completes. It takes n cycles. -/
def haltContext (s : State) (n : Nat) : State :=
  let s1 := endSegment s
  let isTag (t : TrapInfo) : Bool := t.cause == 0x0A
  if storesShort s1 s1.cur 1 then blockOn s1 (.stores 1)
  else match (me s1).tagFail with
    | some f => trapHere (setMe s1 { me s1 with tagFail := none }) f
    | none =>
      match (me s1).deferred.find? isTag with
      | some t => trapHere (setMe s1 { me s1 with deferred := (me s1).deferred.eraseP isTag }) t
      | none => stopTask (advance s1 n) .ok

/-! ### The checks of R203 and the issue -/

/-- Step 2: SHAPE, test codes, DUP, and SEG in a delay region (R185, R191, R225). -/
def bundleIllegal (h : Header) (ops : List SlotOp) (c : Ctx) : Bool :=
  let n := h.shape.toNat
  n == 15 || (n < 14 && h.tests.any (fun t => 0x1C ≤ t.toNat))
    || (h.dup && (pairBad ops .sx .sy || pairBad ops .vx .vy))
    || (h.seg && c.xfer.isSome)

def isXfer (p : Post) : Bool := match p with | .xfer _ => true | _ => false

/-- A taken branch in a delay region, or beside a live `call` or `ret` (R225). -/
def branchIllegal (taken : Bool) (live : List (SlotId × Plan)) (c : Ctx) : Bool :=
  taken && (c.xfer.isSome || live.any (fun p => isXfer p.2.post))

/-- The rows that a bundle writes and an undo log does not hold yet (R412). -/
def freshRows (undo : List Undo) (live : List (SlotId × Plan)) : Nat :=
  ((live.flatMap (fun p => p.2.dests)).filter (fun d => match d with
    | .row cl r => !undo.any (fun u => match u with | .row cl' r' _ => cl' == cl && r' == r | .spad .. => false)
    | _ => false)).length
  + ((live.flatMap (fun p => p.2.spadWrites)).eraseDups.filter (fun r =>
      !undo.any (fun u => match u with | .spad r' _ => r' == r | .row .. => false))).length

/-- The stores or the rows of a bundle do not fit into the limits of a segment that has used so much of them (R348, R412). -/
def overflows (entries bytes : Nat) (undo : List Undo) (live : List (SlotId × Plan)) : Bool :=
  decide (Config.segEntries < live.foldl (fun n p => n + p.2.segEntries) entries)
    || decide (Config.segBytes < live.foldl (fun n p => n + p.2.segBytes) bytes)
    || decide (Config.undoRows < undo.length + freshRows undo live)

/-- The bundle ends the open segment at this attempt (R87, R118, R348, R412). A SEG bundle's own stores and rows belong to the
segment that it opens. -/
def endsSegment (h : Header) (live : List (SlotId × Plan)) (s : State) : Bool :=
  live.any (fun p => p.2.endsSeg)
    || (!h.seg && (match (me s).seg with | some g => overflows g.entries g.bytes g.undo live | none => false))
    || live.any (fun p => p.2.blocks.any (fun b => match b with | .tile t => heldByWaiting s s.cur t | _ => false))

/-- Step 7: what the bundle waits for. -/
def bundleBlocks (h : Header) (leaf : Nat) (live : List (SlotId × Plan)) (c : Ctx) : List Reason :=
  (match targetCode h leaf with
    | some code => if (readReg c code).full then [] else [.scalar code]
    | none => [])
  ++ ((popList h).filter (fun k => (latchReady c k).isEmpty)).map Reason.latch
  ++ live.flatMap (fun p => p.2.blocks)

/-- Copy the old rows into the undo log (R412). -/
def logWrites (s : State) (p : Plan) : State :=
  let s1 := p.dests.foldl (fun t d => match d with | .row cl r => logRow t cl r | _ => t) s
  p.spadWrites.foldl logSpad s1

/-- The first live operation, in slot order, for which `f` answers. -/
def firstOf {α : Type} (f : Plan → Option α) (live : List (SlotId × Plan)) : Option (SlotId × α) :=
  match live with
  | [] => none
  | (sl, p) :: t => match f p with | some x => some (sl, x) | none => firstOf f t

def postTend (p : Plan) : Option Half := match p.post with | .tend v => some v | _ => none
def postTrap (p : Plan) : Option TrapInfo := match p.post with | .trap t => some t | _ => none
def postXfer (p : Plan) : Option Xfer := match p.post with | .xfer x => some x | _ => none
def postRfe (p : Plan) : Bool := p.post == .rfe

/-- A transfer begins or the handler returns, after the bundle (R224, R234). -/
def changeFlow (live : List (SlotId × Plan)) (s : State) : State :=
  match firstOf postXfer live with
  | some (_, x) => setMe s { me s with xfer := some x }
  | none => if live.any (fun p => postRfe p.2) then returnFromTrap s else s

/-- The step trap, where it is due after a unit that issued in state s0 (R407). -/
def stepOrGoOn (s0 s : State) : State := if stepTrapDue (me s0) then takeTrap s { cause := 0x14 } (me s).pc else s

/-- What follows the last write of a bundle (R233): the context stops at a `tend` as `halt` does, whatever else is live (log 94);
else one trap is taken, the software trap or breakpoint before the q-dependence trap before the step trap; every other operation has
its full effect, a transfer or a return among them. The q-dependence trap finds the q results of the bundle written (R302), and
names the first slot that overlapped (log 72). An `rfe` issues in handler mode and takes no step trap (R407). -/
def endOfBundle (live : List (SlotId × Plan)) (s : State) : State :=
  match firstOf postTend live with
  | some (_, v) =>
    haltContext (setMe s { me s with tended := true, task := (me s).task.map (fun t => { t with tend := v }) }) 0
  | none =>
    let s1 := changeFlow live s
    match firstOf postTrap live with
    | some (sl, t) => takeTrap s1 { t with slot := slotNumber sl } (me s1).pc
    | none =>
      match firstOf (fun p => if p.qdep then some () else none) live with
      | some (sl, _) => takeTrap (setMe s1 (landQ (me s1) (now s1))) { cause := 0x0F, slot := slotNumber sl } (me s1).pc
      | none => stepOrGoOn s s1

/-- The segment of a bundle that issues: a SEG bundle ends the open one and opens its own, unless it ends that
one too, as one that does not fit into a segment does (R190, R348, R412). -/
def segmentStart (h : Header) (live : List (SlotId × Plan)) (s : State) : State :=
  if h.seg then (if live.any (fun p => p.2.endsSeg) || overflows 0 0 [] live then endSegment s else openSegment (endSegment s)) else s

/-- DRAW advances by the draws of the bundle (R168). -/
def advanceDraw (n : Nat) (s : State) : State :=
  if n = 0 then s
  else setMe s (kset (me s) 0x05 (BitVec.ofNat 64 (((kget (me s) 0x05).toNat + n) % 2 ^ 32)))

/-- A taken branch: fetch moves to the target and every open level closes (R188). -/
def takeBranch (taken : Bool) (target : Word) (s : State) : State :=
  if taken then setMe s { me s with npc := target, arch := { (me s).arch with loops := [] } } else s

/-- The effects of the live operations, in slot order; those that land after the bundle last (R274). -/
def runEffects (live : List (SlotId × Plan)) (s : State) : State :=
  (live.filter (fun p => !p.2.last) ++ live.filter (fun p => p.2.last)).foldl (fun t p => p.2.effect t)
    (live.foldl (fun t p => logWrites t p.2) s)

/-- The bundle issues. -/
def commitBundle (h : Header) (ops : List SlotOp) (taken : Bool) (target : Word)
    (live : List (SlotId × Plan)) (s : State) : State :=
  let s1 := advanceDraw (drawCount h ops live) (runEffects live (segmentStart h live s))
  let s2 := takeBranch taken target ((popList h).foldl popLatch s1)
  endOfBundle live (moveOn s2 1)

/-- A scratchpad bank of the bundle serves an engine in this cycle (R127). -/
def losesBank (live : List (SlotId × Plan)) (s : State) : Bool :=
  live.any (fun p => p.2.banks.any (bankTaken (coreOf s (myCore s)) (now s)))

/-- An issue hold of one cycle for a lost bank, which the context counts; the bundle is presented again (R127, R345). -/
def holdCycle (s : State) : State :=
  let s1 := advance s 1
  setMe s1 { me s1 with bhold := min ((me s1).bhold + 1) (2 ^ 32 - 1), imm := none }

/-- Steps 8 and 9, the read of a `wait`, the bank hold, and the issue. -/
def issueAccess (h : Header) (ops : List SlotOp) (taken : Bool) (target : Word)
    (live : List (SlotId × Plan)) (s : State) : State :=
  match firstOf (·.stop) live with
  | some (sl, .trap t) => trapHere (noteFailed s (threadPipe (myCore s)) (asidOf (me s)) t) { t with slot := slotNumber sl }
  | some (sl, .page k va wr) => blockOn (startPageIn s k) (.page k va wr (slotNumber sl))
  | none =>
    match firstOf (·.spadBad) live with
    | some (sl, row) =>
      detected s 8 0 (8 * row) { cause := 0x15, addr := BitVec.ofNat 64 (8 * row), slot := slotNumber sl }
    | none =>
      match firstOf (fun p => p.await s) live with
      | some (_, s', why) => blockOn s' why
      | none => if losesBank live s then holdCycle s else commitBundle h ops taken target live s

/-- Step 7, its last waits among them, and the deferred store faults that a `drain`, `fence`, `slack` or `tend` takes (R65, R81). -/
def issueReady (h : Header) (ops : List SlotOp) (leaf : Nat) (taken : Bool) (target : Word)
    (live : List (SlotId × Plan)) (s : State) : State :=
  match bundleBlocks h leaf live (me s) with
  | why :: more => blockOn s why more
  | [] =>
    match (if live.any (fun p => p.2.takesTag) then (me s).tagFail else none) with
    | some f => trapHere (setMe s { me s with tagFail := none }) f
    | none =>
      match firstOf (fun p => p.gate s) live with
      | some (_, s', why) => blockOn s' why
      | none => issueAccess h ops taken target live s

/-- A `cmpt` fires: a detected error of kind 10 inside a segment, else the check trap (R232). -/
def fireCheck (s : State) (sl : SlotId) (code : Nat) : State :=
  if (me s).seg.isSome then detected s 10 code 0 { cause := 0x15, slot := slotNumber sl }
  else trapHere s { cause := 0x0C, code := code, slot := slotNumber sl }

/-- Steps 5 and 6 of R203, and the end of the open segment. -/
def issueChecked (h : Header) (ops : List SlotOp) (leaf : Nat) (taken : Bool) (target : Word)
    (live : List (SlotId × Plan)) (s : State) : State :=
  match firstOf (fun p => if p.emptyTrap then some () else none) live with
  | some (sl, _) => trapHere s { cause := 4, slot := slotNumber sl }
  | none =>
    match firstOf (fun p => p.errs.head?) live with
    | some (sl, e) => detected s e.1 0 e.2 { cause := 0x15, slot := slotNumber sl }
    | none =>
      match firstOf (·.fire) live with
      | some (sl, code) => fireCheck s sl code
      | none =>
        issueReady h ops leaf taken target live (if endsSegment h live s then endSegment s else s)

/-- Step 4 of R203. -/
def issueLive (h : Header) (ops : List SlotOp) (leaf : Nat) (taken : Bool) (target : Word)
    (live : List (SlotId × Plan)) (s : State) : State :=
  match firstOf (·.illegal) live with
  | some (sl, q) => trapHere s { cause := 3, qual := q, slot := slotNumber sl }
  | none =>
    match doubleWrite [] live with
    | some sl => trapHere s { cause := 3, slot := slotNumber sl }
    | none => issueChecked h ops leaf taken target live s

/-- The address a leaf continues at: its b register; 0 is no branch (R15). -/
def targetOf (h : Header) (leaf : Nat) (c : Ctx) : Word :=
  match targetCode h leaf with
  | some code => if (readReg c code).full then (readReg c code).val else 0
  | none => 0

/-- Steps 2 and 3 of R203, then the rest. -/
def issueOnce (h : Header) (ops : List SlotOp) (s : State) : State :=
  if bundleIllegal h ops (me s) then trapHere s { cause := 2 }
  else match leafOf (me s) h with
    | .inr code => blockOn s (.scalar (0x58 + code))
    | .inl leaf =>
      let target := targetOf h leaf (me s)
      let live := livePlans h ops leaf s
      if branchIllegal (target != 0) live (me s) then trapHere s { cause := 2 }
      else issueLive h ops leaf (target != 0) target live s

/-- The bundle holds an `rfe` that is live and valid (R398). -/
def holdsRfe (h : Header) (ops : List SlotOp) (s : State) : Bool :=
  match leafOf (me s) h with
  | .inr _ => false
  | .inl leaf => (livePlans h ops leaf s).any (fun p => postRfe p.2)

/-- Present a bundle for issue. -/
def issueBundle (h : Header) (ops : List SlotOp) (s : State) : State :=
  let s1 := if h.seg then holdResults s else s
  match (me s1).deferred with
  | t :: rest => takeDeferred s1 t rest
  | [] => issueOnce h ops (if holdsRfe h ops s1 then holdResults s1 else s1)

/-- The header of a bundle without a tree, pops, segment or duplicates (R184, SHAPE 14). -/
def plainHeader : Header :=
  { shape := 14, tests := [0, 0, 0, 0], tgts := [0, 0, 0, 0], pop := 0, seg := false, dup := false }

/-- A bundle that holds one operation alone (log 3). -/
def issueAlone (o : Fields) (opc : Nat) (plan : Nat → State → Plan) (s : State) : State :=
  issueBundle plainHeader [{ slot := o.slot, opc := opc, lmask := o.lmask, plan := plan }] s

end Sys2Proof.Machine
end

