-- ==== Sys2Proof/Machine/Fetch.lean ====
section
/-! DEFINITION. Fetching units of the parcel stream (R173, R444), and the address after a delay region (R224). -/

namespace Sys2Proof.Machine

/-- What an instruction's meaning answers. -/
abbrev Out := Host.Outcome State Fault Refusal

/-- The outcome of fetching a unit. -/
inductive Fetched where
  /-- the unit and the address after it -/
  | unit (i : Instr) (next : Word)
  | illegal
  | stop (x : Stop)
deriving DecidableEq, Repr

/-- The parcel at an address, or what stops its fetch (R444): a read that fails its check is a tag mismatch (R65) or a detected
error of kind 6 or 7 (R410). -/
def fetchParcel (s : State) (va : Word) : Parcel ⊕ Stop :=
  match translateFetch s va with
  | .ok acc =>
    let cls := classCode (spansClass s (accSpans acc) acc.colour)
    if cls ≠ 0 then .inr (.trap { cause := if cls = 1 then 0x0A else 0x15, code := if cls = 1 then 0 else cls })
    else match accSpans acc with
      | (a, _) :: _ => .inl (BitVec.ofNat 16 (memNat s.mem a 2))
      | [] => .inl 0
  | .trap t => .inr (.trap t)
  | .notPresent k => .inr (.page k va false)

/-- The parcels of a unit: PREFIX parcels up to the first other one. -/
def fetchParcels (fuel : Nat) (s : State) (va : Word) : List Parcel ⊕ Stop :=
  match fuel with
  | 0 => .inl []
  | k + 1 =>
    match fetchParcel s va with
    | .inr x => .inr x
    | .inl p =>
      if p.extractLsb' 14 2 = 2 then
        match fetchParcels k s (va + 2) with
        | .inl ps => .inl (p :: ps)
        | .inr x => .inr x
      else .inl [p]

/-- The unit at an address. Its longest form is five PREFIX parcels and an ISSUE parcel. -/
def fetchUnit (s : State) (va : Word) : Fetched :=
  match fetchParcels 6 s va with
  | .inr (.trap t) => .stop (.trap { t with addr := va })
  | .inr (.page k _ wr) => .stop (.page k va wr)
  | .inl ps =>
    match decodeUnit ps with
    | some (i, _) => .unit i (va + BitVec.ofNat 64 (2 * ps.length))
    | none => .illegal

/-- The reads of a fetch record what they found (R409, R410). -/
def noteFetch (s : State) (va next : Word) : State :=
  if s.sectors.isEmpty then s
  else (List.range ((next - va).toNat / 2)).foldl (fun t k =>
    match translateFetch t (va + BitVec.ofNat 64 (2 * k)) with
    | .ok acc => recordRead (noteWalks t (threadPipe (myCore t)) (myCore t) acc) (accSpans acc) acc.colour (some t.cur)
    | _ => t) s

/-- The address of the unit that follows n delay cycles, where the stream up to there is made of bundles and
`nops` runs that end within them; none otherwise (R225). -/
def afterDelay (fuel : Nat) (s : State) (va : Word) (n : Nat) : Option Word :=
  match fuel, n with
  | _, 0 => some va
  | 0, _ => none
  | k + 1, n =>
    match fetchUnit s va with
    | .unit (.issue ..) next => afterDelay k s next (n - 1)
    | .unit (.nops m) next => if m.toNat + 1 ≤ n then afterDelay k s next (n - (m.toNat + 1)) else none
    | _ => none

/-- The address after the first `lend` of a level from an address on (R18): where the fetch moves when the
level's count is 0. -/
def afterLend (fuel : Nat) (s : State) (k : Nat) (va : Word) : Word ⊕ Stop :=
  match fuel with
  | 0 => .inr (.trap { cause := 7, addr := va })
  | n + 1 =>
    match fetchUnit s va with
    | .unit (.lend j) next => if j.toNat = k then .inl next else afterLend n s k next
    | .unit _ next => afterLend n s k next
    | .illegal => afterLend n s k (va + 2)
    | .stop x => .inr x

/-- The address behind the first parcel of a unit whose read fails its check. -/
def pastBad (fuel : Nat) (s : State) (va : Word) : Word :=
  match fuel with
  | 0 => va
  | k + 1 => match fetchParcel s va with | .inl _ => pastBad k s (va + 2) | .inr _ => va + 2

/-- A stop of the fetch: a precise trap at the unit, a detected error (R408), or a hold until the page is present (R68, R444). -/
def stopUnit (s : State) (x : Stop) : State :=
  match x with
  | .trap t =>
    if t.cause = 0x15 then handleError (noteFetch s (me s).pc (pastBad 6 s (me s).pc)) t.code { t with slot := 7 }
    else if t.cause = 0x0A then trapHere (noteFetch s (me s).pc (pastBad 6 s (me s).pc)) { t with slot := 7 }
    else trapHere (noteFailed s (threadPipe (myCore s)) (asidOf (me s)) t) { t with slot := 7 }
  | .page k va wr => blockOn (startPageIn s k) (.page k va wr 7)

end Sys2Proof.Machine
end

