-- ==== Sys2Proof/Machine/Number.lean ====
section
/-! DEFINITION. Number formats, rounding, the random generator, the knot table and the special functions
(R154 to R172, R292): every value is computed exactly and rounded once. -/

namespace Sys2Proof.Machine

/-- An exact value: NaN, a signed infinity, or a signed fraction of naturals (the sign of zero counts, R158). -/
inductive XVal where
  | nan
  | inf (neg : Bool)
  | fin (neg : Bool) (n d : Nat)
deriving DecidableEq, Repr

/-! ### Formats (R154 to R157) -/

/-- A binary8 format code (R154, R156). -/
def isBinary8 (fc : Nat) : Bool := 128 ≤ fc && fc < 256 && field fc 5 2 == 0 && fc % 8 != 0

/-- Binary8: infinities, and no sign (R156). -/
def b8Inf (fc : Nat) : Bool := bitAt fc 4
def b8Uns (fc : Nat) : Bool := bitAt fc 3

/-- The formats with a sign, an exponent and a significand (R155, R156). -/
def isFloat (fc : Nat) : Bool := (1 ≤ fc && fc ≤ 8) || isBinary8 fc

def isInt (fc : Nat) : Bool := 0x0A ≤ fc && fc ≤ 0x11

/-- i8 to i64 (R157). -/
def isSignedInt (fc : Nat) : Bool := isInt fc && fc % 2 == 0

/-- The codes that `vtype` and `mtk` accept for a cluster (R277). -/
def clusterType (fc : Nat) : Bool := (1 ≤ fc && fc ≤ 5) || fc == 9 || isInt fc || isBinary8 fc

/-- The width of a format's code in bits; E3M2 and E2M3 sit in a byte, E2M1 in four bits (R154). -/
def fmtWidth (fc : Nat) : Nat :=
  if fc = 1 then 32 else if fc = 2 || fc = 3 then 16 else if fc = 6 then 4
  else if isInt fc then 2 ^ (3 + (fc - 0x0A) / 2) else 8

/-- The significand bits below the leading one, the bias, the sign of a floating format (R155, R156). -/
def fmtT (fc : Nat) : Nat :=
  if fc = 1 then 23 else if fc = 2 then 7 else if fc = 3 then 10 else if fc = 4 then 3
  else if fc = 5 then 2 else if fc = 6 then 1 else if fc = 7 then 2 else if fc = 8 then 3 else fc % 8 - 1

def fmtBias (fc : Nat) : Nat :=
  if fc = 1 || fc = 2 then 127 else if fc = 3 || fc = 5 then 15 else if fc = 4 then 7
  else if fc = 6 || fc = 8 then 1 else if fc = 7 then 3
  else if b8Uns fc then 2 ^ (8 - fc % 8) else 2 ^ (7 - fc % 8)

def fmtSigned (fc : Nat) : Bool := !(isBinary8 fc && b8Uns fc)

/-- The least normal exponent, 1 − B. -/
def fmtEmin (fc : Nat) : Int := 1 - (fmtBias fc : Int)

/-- The code of the largest finite magnitude (R155, R156). -/
def fmtMax (fc : Nat) : Nat :=
  if fc = 1 then 0x7F7FFFFF else if fc = 2 then 0x7F7F else if fc = 3 then 0x7BFF else if fc = 4 then 0x7E
  else if fc = 5 then 0x7B else if fc = 6 then 7 else if fc = 7 || fc = 8 then 0x1F
  else if b8Uns fc then (if b8Inf fc then 0xFD else 0xFE) else (if b8Inf fc then 0x7E else 0x7F)

/-- The code of +∞, where the format has one. -/
def fmtInf (fc : Nat) : Option Nat :=
  if fc = 1 then some 0x7F800000 else if fc = 2 then some 0x7F80 else if fc = 3 then some 0x7C00
  else if fc = 5 then some 0x7C
  else if isBinary8 fc && b8Inf fc then some (if b8Uns fc then 0xFE else 0x7F) else none

/-- The canonical NaN, where the format has one (R155, R156). -/
def fmtNan (fc : Nat) : Option Nat :=
  if fc = 1 then some 0x7FC00000 else if fc = 2 then some 0x7FC0 else if fc = 3 then some 0x7E00
  else if fc = 4 then some 0x7F else if fc = 5 then some 0x7E
  else if isBinary8 fc then some (if b8Uns fc then 0xFF else 0x80) else none

/-- The bits that hold a code: E3M2 and E2M3 ignore bits [7:6] (R155). -/
def fmtCodeBits (fc : Nat) : Nat := if fc = 7 || fc = 8 then 6 else fmtWidth fc

/-- x · 2^e as a fraction of naturals. -/
def scaled (x : Nat) (e : Int) : Nat × Nat :=
  if 0 ≤ e then (x * 2 ^ e.toNat, 1) else (x, 2 ^ (-e).toNat)

/-- The value of a finite magnitude code (R155). -/
def magValue (fc m : Nat) : Nat × Nat :=
  let t := fmtT fc
  let e := m / 2 ^ t
  if e = 0 then scaled (m % 2 ^ t) (fmtEmin fc - t)
  else scaled (2 ^ t + m % 2 ^ t) ((e : Int) - fmtBias fc - t)

/-- Decode a code of a floating format, an integer format or E8M0 (R155 to R157). -/
def decodeNum (fc code : Nat) : XVal :=
  if fc = 9 then
    if code % 256 = 255 then .nan else let p := scaled 1 ((code % 256 : Int) - 127); .fin false p.1 p.2
  else if isInt fc then
    if isSignedInt fc then
      let v := signedOf (fmtWidth fc) code
      .fin (v < 0) v.natAbs 1
    else .fin false (code % 2 ^ fmtWidth fc) 1
  else
    let bits := fmtCodeBits fc
    let c := code % 2 ^ bits
    if fmtSigned fc then
      let neg := bitAt c (bits - 1)
      let m := c % 2 ^ (bits - 1)
      if isBinary8 fc && c = 0x80 then .nan
      else if fmtInf fc = some m then .inf neg
      else if fmtMax fc < m then .nan
      else let p := magValue fc m; .fin neg p.1 p.2
    else if c = 0xFF then .nan
    else if fmtInf fc = some c then .inf false
    else let p := magValue fc c; .fin false p.1 p.2

/-! ### Exact arithmetic (R8, R158) -/

def xneg (x : XVal) : XVal :=
  match x with
  | .nan => .nan
  | .inf s => .inf (!s)
  | .fin s n d => .fin (!s) n d

def xabs (x : XVal) : XVal :=
  match x with
  | .nan => .nan
  | .inf _ => .inf false
  | .fin _ n d => .fin false n d

def xisNan (x : XVal) : Bool := match x with | .nan => true | _ => false

def xisZero (x : XVal) : Bool := match x with | .fin _ n _ => n == 0 | _ => false

def xsign (x : XVal) : Bool :=
  match x with
  | .nan => false
  | .inf s => s
  | .fin s _ _ => s

/-- The exact product; 0 × ∞ is NaN, and the sign is the XOR of the signs. -/
def xmul (a b : XVal) : XVal :=
  match a, b with
  | .nan, _ => .nan
  | _, .nan => .nan
  | .inf s, .inf t => .inf (s != t)
  | .inf s, .fin t n _ => if n = 0 then .nan else .inf (s != t)
  | .fin t n _, .inf s => if n = 0 then .nan else .inf (s != t)
  | .fin s n d, .fin t m e => .fin (s != t) (n * m) (d * e)

/-- The signed numerator of a finite value over a common denominator. -/
def signedNum (neg : Bool) (n : Nat) : Int := if neg then -(n : Int) else n

/-- The exact sum; ∞ − ∞ is NaN, and a zero sum is −0 when every addend is −0 or under RDN (R158). -/
def xadd (rdn : Bool) (a b : XVal) : XVal :=
  match a, b with
  | .nan, _ => .nan
  | _, .nan => .nan
  | .inf s, .inf t => if s = t then .inf s else .nan
  | .inf s, .fin .. => .inf s
  | .fin .., .inf s => .inf s
  | .fin s n d, .fin t m e =>
    let v := signedNum s (n * e) + signedNum t (m * d)
    if v = 0 then .fin (rdn || (n == 0 && m == 0 && s && t)) 0 1
    else .fin (v < 0) v.natAbs (d * e)

/-- Ordered less-than; −0 equals +0, false for a NaN (HardCmp). -/
def xlt (a b : XVal) : Bool :=
  match a, b with
  | .nan, _ => false
  | _, .nan => false
  | .inf s, .inf t => s && !t
  | .inf s, .fin .. => s
  | .fin .., .inf t => !t
  | .fin s n d, .fin t m e => decide (signedNum s (n * e) < signedNum t (m * d))

def xeq (a b : XVal) : Bool :=
  match a, b with
  | .nan, _ => false
  | _, .nan => false
  | .inf s, .inf t => s == t
  | .fin s n d, .fin t m e => decide (signedNum s (n * e) = signedNum t (m * d))
  | _, _ => false

/-- The lesser operand, −0 below +0; a NaN gives NaN (R172). -/
def xmin (a b : XVal) : XVal :=
  if xisNan a || xisNan b then .nan
  else if xlt a b then a else if xlt b a then b else if xsign a then a else b

def xmax (a b : XVal) : XVal :=
  if xisNan a || xisNan b then .nan
  else if xlt a b then b else if xlt b a then a else if xsign a then b else a

/-- The exact value of an integer. -/
def xofInt (v : Int) : XVal := .fin (v < 0) v.natAbs 1

/-! ### Rounding (R159 to R161) -/

/-- Floor(Log2(n/d)) for n, d > 0. -/
def log2Floor (n d : Nat) : Int :=
  let e : Int := (Nat.log2 n : Int) - Nat.log2 d
  let le := if 0 ≤ e then d * 2 ^ e.toNat ≤ n else d ≤ n * 2 ^ (-e).toNat
  if le then e else e - 1

/-- Floor(n/d) and its remainder over the divisor, in units of 2^s: (quotient, remainder, divisor). -/
def gridDiv (n d : Nat) (s : Int) : Nat × Nat × Nat :=
  let n' := if s < 0 then n * 2 ^ (-s).toNat else n
  let d' := if 0 ≤ s then d * 2 ^ s.toNat else d
  (n' / d', n' % d', d')

/-- Which neighbour a mode takes: true is the one away from zero. `m` is the significand below, `even` says
that the lower neighbour wins a tie; `r / d` is the fraction between the two (R160, R161). -/
def takeUpper (mode draw : Nat) (neg even : Bool) (r d : Nat) : Bool :=
  if mode = 0 then decide (d < 2 * r) || (2 * r == d && !even)
  else if mode = 1 then false
  else if mode = 2 then !neg
  else if mode = 3 then neg
  else decide (draw * d < r * 2 ^ 32)

/-- Round n/d to p significant bits with least exponent emin, in a mode. `bias` serves the tie rule of a
format of one bit (R160). -/
def roundMag (p : Nat) (emin : Int) (bias : Nat) (mode draw : Nat) (neg : Bool) (n d : Nat) : Nat × Nat :=
  if n = 0 then (0, 1)
  else
    let e := max (log2Floor n d) emin
    let s := e - p + 1
    let g := gridDiv n d s
    let even :=
      if p = 1 then (if g.1 = 0 then true else (e + bias) % 2 == 0) else g.1 % 2 == 0
    if g.2.1 = 0 then (n, d)
    else scaled (if takeUpper mode draw neg even g.2.1 g.2.2 then g.1 + 1 else g.1) s

/-- The mode rounds toward zero at this sign (R160). -/
def towardZero (mode : Nat) (neg : Bool) : Bool := mode == 1 || (mode == 3 && !neg) || (mode == 2 && neg)

/-- Round(x, mode) to the format (R160): a value on the grid stays, also one beyond the format's largest. -/
def roundTo (fc mode draw : Nat) (x : XVal) : XVal :=
  match x with
  | .fin neg n d =>
    if isInt fc then
      let r := n % d
      let q := n / d
      .fin neg (if r ≠ 0 && takeUpper mode draw neg (q % 2 == 0) r d then q + 1 else q) 1
    else
      let v := roundMag (fmtT fc + 1) (fmtEmin fc) (fmtBias fc) mode draw neg n d
      let top := magValue fc (fmtMax fc)
      if towardZero mode neg && decide (top.1 * d < n * top.2) && v.1 * d != n * v.2 then .fin neg top.1 top.2
      else .fin neg v.1 v.2
  | _ => x

/-! ### Fitting the target (R162) -/

/-- The magnitude code of a value on the format's grid. -/
def magCode (fc n d : Nat) : Nat :=
  if n = 0 then 0
  else
    let e := max (log2Floor n d) (fmtEmin fc)
    let g := gridDiv n d (e - fmtT fc)
    ((e + fmtBias fc - 1).toNat) * 2 ^ fmtT fc + g.1

/-- The sign bit of a format's code. -/
def signBit (fc : Nat) (neg : Bool) : Nat := if neg then 2 ^ (fmtCodeBits fc - 1) else 0

/-- The code a value beyond the largest finite one gets. -/
def overflowCode (fc : Nat) (sat neg : Bool) : Nat :=
  if sat then fmtMax fc + signBit fc neg
  else match fmtInf fc with
    | some i => i + signBit fc neg
    | none => match fmtNan fc with
      | some c => c
      | none => fmtMax fc + signBit fc neg

/-- Encode(Sat(y, F, sat), F) for a floating format. -/
def encodeFloat (fc : Nat) (sat : Bool) (y : XVal) : Nat :=
  match y with
  | .nan => (fmtNan fc).getD 0
  | .inf neg =>
    if !fmtSigned fc && neg then 0
    else match fmtInf fc with
      | some i => i + signBit fc neg
      | none => overflowCode fc sat neg
  | .fin neg n d =>
    if !fmtSigned fc && neg then 0
    else
      let top := magValue fc (fmtMax fc)
      if top.1 * d < n * top.2 then overflowCode fc sat neg
      else if isBinary8 fc && n = 0 then 0
      else magCode fc n d + signBit fc neg

/-- The least and greatest value of an integer format. -/
def intRange (fc : Nat) : Int × Int :=
  let w := fmtWidth fc
  if isSignedInt fc then (-(2 ^ (w - 1) : Nat), (2 ^ (w - 1) : Nat) - 1) else (0, (2 ^ w : Nat) - 1)

/-- The two's-complement or unsigned code of an integer. -/
def intCode (w : Nat) (v : Int) : Nat := (v % (2 ^ w : Nat)).toNat

/-- Encode(Sat(y)) for an integer format: NaN gives 0, everything else clamps. -/
def encodeInt (fc : Nat) (y : XVal) : Nat :=
  let r := intRange fc
  match y with
  | .nan => 0
  | .inf neg => intCode (fmtWidth fc) (if neg then r.1 else r.2)
  | .fin neg n d => intCode (fmtWidth fc) (max r.1 (min r.2 (signedNum neg (n / d))))

/-- The E8M0 code of the largest power of two not above |x| (R163). -/
def encodeE8M0 (x : XVal) : Nat :=
  match x with
  | .nan => 0xFF
  | .inf _ => 0xFF
  | .fin _ n d => if n = 0 then 0 else (max 0 (min 254 (log2Floor n d + 127))).toNat

/-- Encode(Sat(y, F, sat), F) (R162). -/
def encodeNum (fc : Nat) (sat : Bool) (y : XVal) : Nat :=
  if fc = 9 then encodeE8M0 y else if isInt fc then encodeInt fc y else encodeFloat fc sat y

/-- Encode(Sat(Round(x, mode), F, sat), F): one rounding (R163). -/
def roundEncode (fc mode draw : Nat) (sat : Bool) (x : XVal) : Nat :=
  if fc = 9 then encodeE8M0 x else encodeNum fc sat (roundTo fc mode draw x)

/-- A conversion of a code from one format to another (R163): between integers the mode is not used. -/
def convertNum (src dst mode draw : Nat) (sat : Bool) (code : Nat) : Nat :=
  roundEncode dst (if isInt src && isInt dst then 1 else mode) draw sat (decodeNum src code)

/-- A sum, product or fused step rounded to fp32 RNE. -/
def fp32 (x : XVal) : Nat := roundEncode 1 0 0 false x

/-- Nearest integer to n/d, ties to even. -/
def roundHalfEven (n d : Nat) : Nat :=
  let q := n / d
  let r := n % d
  if d < 2 * r || (2 * r == d && q % 2 == 1) then q + 1 else q

/-! ### MX blocks (R164, R165) -/

/-- Emax of an MX element format. -/
def mxEmax (fc : Nat) : Int := if fc = 7 then 4 else 2

/-- x · 2^k exactly. -/
def xscale (x : XVal) (k : Int) : XVal :=
  match x with
  | .fin s n d => if 0 ≤ k then .fin s (n * 2 ^ k.toNat) d else .fin s n (d * 2 ^ (-k).toNat)
  | _ => x

/-- The scale exponent of a block: from the greatest magnitude. -/
def mxExponent (fc : Nat) (vs : List XVal) : Int :=
  match vs.foldl (fun m v => xmax m (xabs v)) (.fin false 0 1) with
  | .fin _ n d => if n = 0 then -127 else max (log2Floor n d - mxEmax fc) (-127)
  | _ => -127

/-- MXQuant: the scale code and the element codes; element k draws `draws k`. -/
def mxQuant (fc mode : Nat) (draws : Nat → Nat) (vs : List XVal) : Nat × List Nat :=
  if vs.any (fun v => match v with | .fin .. => false | _ => true) then (0xFF, vs.map (fun _ => 0))
  else
    let x := mxExponent fc vs
    ((x + 127).toNat, vs.zipIdx.map (fun (v, k) => roundEncode fc mode (draws k) true (xscale v (-x))))

/-- The exact value of an MX element under its scale; a scale of 0xFF gives NaN. -/
def mxValue (fc scale code : Nat) : XVal :=
  if scale % 256 = 255 then .nan else xscale (decodeNum fc code) ((scale % 256 : Int) - 127)

/-! ### The generator (R166, R167) -/

def philoxRounds (n : Nat) (k0 k1 c0 c1 c2 c3 : Nat) : Nat :=
  match n with
  | 0 => c0
  | m + 1 =>
    let p := 0xD2511F53 * c0
    let q := 0xCD9E8D57 * c2
    philoxRounds m ((k0 + 0x9E3779B9) % 2 ^ 32) ((k1 + 0xBB67AE85) % 2 ^ 32)
      ((q / 2 ^ 32) ^^^ c1 ^^^ k0) (q % 2 ^ 32) ((p / 2 ^ 32) ^^^ c3 ^^^ k1) (p % 2 ^ 32)

/-- Word c0 of Philox4x32-10. -/
def philox (key : Word) (c0 c1 c2 c3 : Nat) : Nat :=
  philoxRounds 10 (key.toNat % 2 ^ 32) (key.toNat / 2 ^ 32) c0 c1 c2 c3

/-- Draw(i, e) with the given DRAW value. -/
def drawOf (c : Ctx) (draw i e : Nat) : Nat :=
  philox (kget c 0x04) (i % 65536 + e % 65536 * 65536) (draw % 2 ^ 32) (field (kget c 0x10).toNat 0 32) 0

/-- DrainDraw(t, j, c) with the given DSEQ value. -/
def drainDraw (c : Ctx) (dseq : Nat) (tileY : Bool) (row col : Nat) : Nat :=
  philox (kget c 0x04) (col % 65536 + row % 65536 * 65536) (dseq % 2 ^ 32) (field (kget c 0x10).toNat 0 32)
    (0x80000000 + (if tileY then 1 else 0))

/-! ### Knots (R170) -/

/-- K[0] to K[128]: RoundHalfEven(32768·σ(j/8)). -/
def knotTable : List Nat :=
  [16384, 17407, 18421, 19420, 20397, 21344, 22255, 23127, 23955, 24737, 25471, 26155, 26790, 27377, 27917, 28411]
  ++ [28862, 29272, 29644, 29979, 30282, 30555, 30799, 31018, 31214, 31389, 31545, 31684, 31807, 31917, 32015, 32102]
  ++ [32179, 32247, 32307, 32361, 32408, 32450, 32487, 32520, 32549, 32574, 32597, 32617, 32635, 32650, 32664, 32676]
  ++ [32687, 32696, 32705, 32712, 32719, 32725, 32730, 32734, 32738, 32742, 32745, 32747, 32750, 32752, 32754, 32756]
  ++ [32757, 32758, 32759, 32760, 32761, 32762, 32763, 32763, 32764, 32764, 32765, 32765, 32766, 32766, 32766, 32766]
  ++ [32767, 32767, 32767, 32767, 32767, 32767, 32767, 32767, 32767, 32768, 32768, 32768, 32768, 32768, 32768, 32768]
  ++ [32768, 32768, 32768, 32768, 32768, 32768, 32768, 32768, 32768, 32768, 32768, 32768, 32768, 32768, 32768, 32768]
  ++ [32768, 32768, 32768, 32768, 32768, 32768, 32768, 32768, 32768, 32768, 32768, 32768, 32768, 32768, 32768, 32768]
  ++ [32768]

/-- K[j] for j from −128 to 128: the table is symmetric about 16,384. -/
def knotAt (j : Int) : Nat :=
  if 0 ≤ j then knotTable.getD j.toNat 32768 else 32768 - knotTable.getD (-j).toNat 32768

/-- Knot(z): the Q1.15 code of a soft compare. -/
def knot (z : XVal) : Nat :=
  match z with
  | .nan => 0
  | .inf neg => if neg then 0 else 0x8000
  | .fin neg n d =>
    if 16 * d ≤ n then (if neg then 0 else 0x8000)
    else
      let v := signedNum neg (8 * n)
      let j := v / d
      let t := (v % d).toNat
      roundHalfEven (knotAt j * (d - t) + knotAt (j + 1) * t) d

/-! ### Special functions (R292) -/

/-- The significant bits of a special-function result. -/
def sfBits (fc : Nat) : Nat := min 12 (fmtT fc + 1)

/-- The least exponent of the grid G. -/
def sfEmin (fc : Nat) : Int := fmtEmin fc - ((fmtT fc + 1 : Nat) : Int) + (sfBits fc : Nat)

/-- Round a magnitude to the grid G, to nearest even, and encode it. -/
def sfEncode (fc : Nat) (neg : Bool) (n d : Nat) : Nat :=
  let v := roundMag (sfBits fc) (sfEmin fc) (fmtBias fc) 0 0 neg n d
  encodeFloat fc false (.fin neg v.1 v.2)

def sfRcp (fc : Nat) (x : XVal) : Nat :=
  match x with
  | .nan => encodeFloat fc false .nan
  | .inf s => encodeFloat fc false (.fin s 0 1)
  | .fin s n d => if n = 0 then encodeFloat fc false (.inf s) else sfEncode fc s d n

/-- Floor of the square root. -/
def isqrt (n : Nat) : Nat :=
  (List.range (Nat.log2 n / 2 + 1)).foldr (fun k r => if (r + 2 ^ k) * (r + 2 ^ k) ≤ n then r + 2 ^ k else r) 0

/-- 1/√(n/d) on G. With a the square root of d/n cut off k bits below its leading one, the exact value lies in
[a, a + 1); a half unit is added when the cut was not exact, which no tie of G can meet. -/
def sfRsqrt (fc : Nat) (x : XVal) : Nat :=
  match x with
  | .nan => encodeFloat fc false .nan
  | .inf s => if s then encodeFloat fc false .nan else encodeFloat fc false (.fin false 0 1)
  | .fin s n d =>
    if n = 0 then encodeFloat fc false (.inf s)
    else if s then encodeFloat fc false .nan
    else
      let k := 64 + Nat.log2 n
      let v := d * 2 ^ (2 * k) / n
      let r := isqrt v
      let exact := r * r * n = d * 2 ^ (2 * k)
      sfEncode fc false (if exact then 2 * r else 2 * r + 1) (2 * 2 ^ k)

/-- ln 2 in 256 fraction bits. -/
def ln2Fixed : Nat := 80260960185991308862233904206310070533990667611589946606122867505419956976171

/-- e^t in 256 fraction bits, for t below 1 in the same form: n further terms of the series, `term` being the
k-th. -/
def expSeries (n k : Nat) (t term : Nat) : Nat :=
  match n with
  | 0 => term
  | m + 1 => term + expSeries m (k + 1) t (term * t / 2 ^ 256 / k)

/-- 2^x on G: an integer x exactly, else 2^Floor(x) · e^(frac·ln 2) in 256 fraction bits, whose error no tie of
G can meet. -/
def sfExp2 (fc : Nat) (x : XVal) : Nat :=
  match x with
  | .nan => encodeFloat fc false .nan
  | .inf s => if s then encodeFloat fc false (.fin false 0 1) else encodeFloat fc false (.inf false)
  | .fin s n d =>
    if 1024 * d ≤ n then (if s then encodeFloat fc false (.fin false 0 1) else encodeFloat fc false (.inf false))
    else
      let v := signedNum s n
      let i := v / d
      let r := (v % d).toNat
      if r = 0 then let p := scaled 1 i; sfEncode fc false p.1 p.2
      else
        let e := expSeries 64 1 (r * ln2Fixed / d) (2 ^ 256)
        let p := scaled (2 * e + 1) (i - 257)
        sfEncode fc false p.1 p.2

/-- n bits of log2 of y (256 fraction bits, 1 ≤ y < 2), by squaring. -/
def log2Bits (n y acc : Nat) : Nat :=
  match n with
  | 0 => acc
  | m + 1 =>
    let z := y * y / 2 ^ 256
    if 2 ^ 257 ≤ z then log2Bits m (z / 2) (2 * acc + 1) else log2Bits m z (2 * acc)

/-- log2 x on G: a power of two exactly, else to 96 fraction bits, whose error no tie of G can meet. -/
def sfLog2 (fc : Nat) (x : XVal) : Nat :=
  match x with
  | .nan => encodeFloat fc false .nan
  | .inf s => if s then encodeFloat fc false .nan else encodeFloat fc false (.inf false)
  | .fin s n d =>
    if n = 0 then encodeFloat fc false (.inf true)
    else if s then encodeFloat fc false .nan
    else
      let e := log2Floor n d
      let g := gridDiv n d (e - 256)
      if g.1 = 2 ^ 256 && g.2.1 = 0 then
        if e = 0 then 0 else sfEncode fc (e < 0) e.natAbs 1
      else
        let v : Int := 2 * (e * (2 ^ 96 : Nat) + log2Bits 96 g.1 0) + 1
        sfEncode fc (v < 0) v.natAbs (2 * 2 ^ 96)

end Sys2Proof.Machine
end

