-- ==== Sys2Proof/Machine/Scalar.lean ====
section
/-! DEFINITION. Integer arithmetic and logic, compares, select, immediates, extension, planes, and the copies
between clusters (R207 to R218). -/

namespace Sys2Proof.Machine

/-- Element type of a cluster (R277). -/
def etOf (c : Ctx) (cl : Cluster) : Nat := field (kget c (match cl with | .x => 0x02 | .y => 0x03)).toNat 0 8

/-- The element width of a cluster in bits (R278). -/
def etWidth (c : Ctx) (cl : Cluster) : Nat := fmtWidth (etOf c cl)

/-- The lesser and the greater of two operands, with the residue of the chosen one (R210, R238). -/
def pick (lt : Bool) (a b : Src) : Word × BitVec 4 := if lt then (a.v, a.res) else (b.v, b.res)

/-! ### The values of R210 and R211 -/

def rotl (a : Word) (k : Nat) : Word := a.rotateLeft k

def clzOf (a : Word) : Word := if a = 0 then 64 else BitVec.ofNat 64 (63 - Nat.log2 a.toNat)

/-- Zero bits below the lowest one bit: of a number of at most n bits. -/
def ctzNat (n a : Nat) : Nat :=
  match n with
  | 0 => 0
  | k + 1 => if a % 2 = 1 then 0 else 1 + ctzNat k (a / 2)

def popcNat (n a : Nat) : Nat :=
  match n with
  | 0 => 0
  | k + 1 => a % 2 + popcNat k (a / 2)

/-- div: signed quotient; the corners of R211. -/
def divQ (a b : Word) : Int := if b = 0 then -1 else a.toInt.tdiv b.toInt
def divR (a b : Word) : Int := if b = 0 then a.toInt else a.toInt.tmod b.toInt
def divuQ (a b : Word) : Int := if b = 0 then (2 ^ 64 - 1 : Nat) else (a.toNat / b.toNat : Nat)
def divuR (a b : Word) : Int := if b = 0 then (a.toNat : Nat) else (a.toNat % b.toNat : Nat)

/-- The low n bits sign-extended or zero-extended (R215). -/
def sextOf (a : Word) (n : Nat) : Word := BitVec.ofInt 64 (signedOf n a.toNat)
def zextOf (a : Word) (n : Nat) : Word := BitVec.ofNat 64 (a.toNat % 2 ^ n)

/-- VA[63:60] replaced (R216). -/
def aplaneOf (a : Word) (p : Nat) : Word := BitVec.ofNat 64 (a.toNat % 2 ^ 60 + p % 16 * 2 ^ 60)

/-- Division: the quotient and remainder are exact integers, checked against the operands' residues at the
landing (R211, R238). -/
def divPlan (s : State) (o : Fields) (signed : Bool) (v : Src → Src → Word) (q r : Word → Word → Int) : Plan :=
  match srcA s o, srcB s o with
  | some a, some b =>
    let w := v a b
    let bad := divCheckBad signed a.v b.v a.res b.res (q a.v b.v) (r a.v b.v)
    let p := scalarPlan s (slotOk s o [.sx, .sy]) o.dst.toNat 20 [a, b] w (rho w)
    { p with effect := fun t =>
        sendResult t { inFlightAfter t 20 (.scalar o.dst.toNat) (.word w (rho w)) with divBad := bad, slot := slotNumber o.slot } }
  | _, _ => illegalPlan

/-- The write of one lane of a row from a scalar slot (R217). -/
def putPlan (s : State) (o : Fields) (cl : Cluster) : Plan :=
  match srcA s o, srcB s o with
  | some a, some b =>
    let w := etWidth (me s) cl
    let r := o.dst.toNat
    if !slotOk s o [.sx, .sy] || (b.full && decide (4096 / w ≤ b.v.toNat)) then illegalPlan
    else {
      emptyTrap := anyEmptyTrap [a, b]
      errs := resErr 4 o.srca.toNat a
      blocks := emptyWaits [a, b]
        ++ (if tileTaken s cl then (if o.bta then [] else [.tile (accRef cl)])
            else if rowFull s cl r then [] else [.row cl r])
      stop := if tileTaken s cl && o.bta then some (.trap { cause := 5, qual := 1 }) else none
      dests := [.row cl r]
      effect := fun t => sendResult t (inFlightAfter t 1 (.row cl r) (.lane b.v.toNat w a.v)) }
  | _, _ => illegalPlan

/-- The read of one lane of a row into a scalar register (R218): sign-extended for a signed integer type. -/
def getPlan (s : State) (o : Fields) (cl : Cluster) : Plan :=
  match srcB s o with
  | some b =>
    let w := etWidth (me s) cl
    let r := o.srca.toNat
    let us : List RowUse := [{ cl := cl, r := r, bt := o.bta }]
    let x := lane (readRow (me s) cl r).bits w b.v.toNat
    let v : Word := if isSignedInt (etOf (me s) cl) then BitVec.ofInt 64 (signedOf w x) else BitVec.ofNat 64 x
    if b.full && decide (4096 / w ≤ b.v.toNat) then illegalPlan
    else
      let p := scalarPlan s (slotOk s o [.sx, .sy]) o.dst.toNat 1 [b] v (rho v)
      { p with
        emptyTrap := p.emptyTrap || rowTraps s us
        blocks := p.blocks ++ rowWaits s us
        stop := rowStop s us }
  | none => illegalPlan

/-- nop does nothing and ignores every field other than its opcode (R192). -/
def planNop (_o : Fields) (_s : State) : Plan := {}

/-- `nop` alone in its bundle: an empty bundle. -/
def execNop (o : Fields) (s : State) : Out := .next (issueAlone o 0x00 (fun _ => planNop o) s)

/-- add (R210). -/
def planAdd (o : Fields) (s : State) : Plan :=
  aluPlan s o 1 (fun a b => (a.v + b.v, resAdd a.v b.v a.res b.res))

/-- `add` alone in its bundle. -/
def execAdd (o : Fields) (s : State) : Out := .next (issueAlone o ((twinOpcode 0x01 o).toNat) (fun _ => planAdd o) s)

/-- sub (R210). -/
def planSub (o : Fields) (s : State) : Plan :=
  aluPlan s o 1 (fun a b => (a.v - b.v, resSub a.v b.v a.res b.res))

/-- `sub` alone in its bundle. -/
def execSub (o : Fields) (s : State) : Out := .next (issueAlone o ((twinOpcode 0x02 o).toNat) (fun _ => planSub o) s)

/-- mul: the low half of the product (R210). -/
def planMul (o : Fields) (s : State) : Plan :=
  aluPlan s o 3 (fun a b => (a.v * b.v, resMul a.v b.v a.res b.res))

/-- `mul` alone in its bundle. -/
def execMul (o : Fields) (s : State) : Out := .next (issueAlone o ((twinOpcode 0x03 o).toNat) (fun _ => planMul o) s)

/-- mulh: the high half of the signed product (R210). -/
def planMulh (o : Fields) (s : State) : Plan :=
  aluPlan s o 3 (fun a b => (BitVec.ofInt 64 (a.v.toInt * b.v.toInt / (2 ^ 64 : Nat)), resMulh a.v b.v a.res b.res))

/-- `mulh` alone in its bundle. -/
def execMulh (o : Fields) (s : State) : Out := .next (issueAlone o ((twinOpcode 0x04 o).toNat) (fun _ => planMulh o) s)

/-- mulhu: the high half of the unsigned product (R210). -/
def planMulhu (o : Fields) (s : State) : Plan :=
  aluPlan s o 3 (fun a b => (BitVec.ofNat 64 (a.v.toNat * b.v.toNat / 2 ^ 64), resMulhu a.v b.v a.res b.res))

/-- `mulhu` alone in its bundle. -/
def execMulhu (o : Fields) (s : State) : Out := .next (issueAlone o ((twinOpcode 0x05 o).toNat) (fun _ => planMulhu o) s)

/-- div: 20 cycles; the division check is found at the landing (R211, R238). -/
def planDiv (o : Fields) (s : State) : Plan :=
  divPlan s o true (fun a b => BitVec.ofInt 64 (divQ a.v b.v)) divQ divR

/-- `div` alone in its bundle. -/
def execDiv (o : Fields) (s : State) : Out := .next (issueAlone o ((twinOpcode 0x06 o).toNat) (fun _ => planDiv o) s)

/-- divu: 20 cycles; the division check is found at the landing (R211, R238). -/
def planDivu (o : Fields) (s : State) : Plan :=
  divPlan s o false (fun a b => BitVec.ofInt 64 (divuQ a.v b.v)) divuQ divuR

/-- `divu` alone in its bundle. -/
def execDivu (o : Fields) (s : State) : Out := .next (issueAlone o ((twinOpcode 0x07 o).toNat) (fun _ => planDivu o) s)

/-- rem: 20 cycles; the division check is found at the landing (R211, R238). -/
def planRem (o : Fields) (s : State) : Plan :=
  divPlan s o true (fun a b => BitVec.ofInt 64 (divR a.v b.v)) divQ divR

/-- `rem` alone in its bundle. -/
def execRem (o : Fields) (s : State) : Out := .next (issueAlone o ((twinOpcode 0x08 o).toNat) (fun _ => planRem o) s)

/-- remu: 20 cycles; the division check is found at the landing (R211, R238). -/
def planRemu (o : Fields) (s : State) : Plan :=
  divPlan s o false (fun a b => BitVec.ofInt 64 (divuR a.v b.v)) divuQ divuR

/-- `remu` alone in its bundle. -/
def execRemu (o : Fields) (s : State) : Out := .next (issueAlone o ((twinOpcode 0x09 o).toNat) (fun _ => planRemu o) s)

/-- and (R210). -/
def planAnd (o : Fields) (s : State) : Plan :=
  aluPlan s o 1 (fun a b => (a.v &&& b.v, rho (a.v &&& b.v)))

/-- `and` alone in its bundle. -/
def execAnd (o : Fields) (s : State) : Out := .next (issueAlone o ((twinOpcode 0x0A o).toNat) (fun _ => planAnd o) s)

/-- or (R210). -/
def planOr (o : Fields) (s : State) : Plan :=
  aluPlan s o 1 (fun a b => (a.v ||| b.v, rho (a.v ||| b.v)))

/-- `or` alone in its bundle. -/
def execOr (o : Fields) (s : State) : Out := .next (issueAlone o ((twinOpcode 0x0B o).toNat) (fun _ => planOr o) s)

/-- xor (R210). -/
def planXor (o : Fields) (s : State) : Plan :=
  aluPlan s o 1 (fun a b => (a.v ^^^ b.v, rho (a.v ^^^ b.v)))

/-- `xor` alone in its bundle. -/
def execXor (o : Fields) (s : State) : Out := .next (issueAlone o ((twinOpcode 0x0C o).toNat) (fun _ => planXor o) s)

/-- shl by B[5:0] (R210). -/
def planShl (o : Fields) (s : State) : Plan :=
  aluPlan s o 1 (fun a b => (a.v <<< (b.v.toNat % 64), resShl a.v a.res (b.v.toNat % 64)))

/-- `shl` alone in its bundle. -/
def execShl (o : Fields) (s : State) : Out := .next (issueAlone o ((twinOpcode 0x0D o).toNat) (fun _ => planShl o) s)

/-- shr by B[5:0] (R210). -/
def planShr (o : Fields) (s : State) : Plan :=
  aluPlan s o 1 (fun a b => (a.v >>> (b.v.toNat % 64), rho (a.v >>> (b.v.toNat % 64))))

/-- `shr` alone in its bundle. -/
def execShr (o : Fields) (s : State) : Out := .next (issueAlone o ((twinOpcode 0x0E o).toNat) (fun _ => planShr o) s)

/-- sra by B[5:0] (R210). -/
def planSra (o : Fields) (s : State) : Plan :=
  aluPlan s o 1 (fun a b => (a.v.sshiftRight (b.v.toNat % 64), rho (a.v.sshiftRight (b.v.toNat % 64))))

/-- `sra` alone in its bundle. -/
def execSra (o : Fields) (s : State) : Out := .next (issueAlone o ((twinOpcode 0x0F o).toNat) (fun _ => planSra o) s)

/-- rol by B[5:0] (R210). -/
def planRol (o : Fields) (s : State) : Plan :=
  aluPlan s o 1 (fun a b => (rotl a.v (b.v.toNat % 64), resRol a.res (b.v.toNat % 64)))

/-- `rol` alone in its bundle. -/
def execRol (o : Fields) (s : State) : Out := .next (issueAlone o ((twinOpcode 0x10 o).toNat) (fun _ => planRol o) s)

/-- ror by B[5:0]: rol by (64 − k) mod 64 (R210). -/
def planRor (o : Fields) (s : State) : Plan :=
  aluPlan s o 1 (fun a b => (rotl a.v ((64 - b.v.toNat % 64) % 64), resRol a.res (64 - b.v.toNat % 64)))

/-- `ror` alone in its bundle. -/
def execRor (o : Fields) (s : State) : Out := .next (issueAlone o ((twinOpcode 0x11 o).toNat) (fun _ => planRor o) s)

/-- min, signed (R210). -/
def planMin (o : Fields) (s : State) : Plan :=
  aluPlan s o 1 (fun a b => pick (!b.v.slt a.v) a b)

/-- `min` alone in its bundle. -/
def execMin (o : Fields) (s : State) : Out := .next (issueAlone o ((twinOpcode 0x12 o).toNat) (fun _ => planMin o) s)

/-- max, signed (R210). -/
def planMax (o : Fields) (s : State) : Plan :=
  aluPlan s o 1 (fun a b => pick (!a.v.slt b.v) a b)

/-- `max` alone in its bundle. -/
def execMax (o : Fields) (s : State) : Out := .next (issueAlone o ((twinOpcode 0x13 o).toNat) (fun _ => planMax o) s)

/-- minu (R210). -/
def planMinu (o : Fields) (s : State) : Plan :=
  aluPlan s o 1 (fun a b => pick (!b.v.ult a.v) a b)

/-- `minu` alone in its bundle. -/
def execMinu (o : Fields) (s : State) : Out := .next (issueAlone o ((twinOpcode 0x14 o).toNat) (fun _ => planMinu o) s)

/-- maxu (R210). -/
def planMaxu (o : Fields) (s : State) : Plan :=
  aluPlan s o 1 (fun a b => pick (!a.v.ult b.v) a b)

/-- `maxu` alone in its bundle. -/
def execMaxu (o : Fields) (s : State) : Out := .next (issueAlone o ((twinOpcode 0x15 o).toNat) (fun _ => planMaxu o) s)

/-- clz, form N (R210). -/
def planClz (o : Fields) (s : State) : Plan :=
  unaryPlan s o clzOf

/-- `clz` alone in its bundle. -/
def execClz (o : Fields) (s : State) : Out := .next (issueAlone o (0x37) (fun _ => planClz o) s)

/-- ctz, form N (R210). -/
def planCtz (o : Fields) (s : State) : Plan :=
  unaryPlan s o (fun a => BitVec.ofNat 64 (ctzNat 64 a.toNat))

/-- `ctz` alone in its bundle. -/
def execCtz (o : Fields) (s : State) : Out := .next (issueAlone o (0x38) (fun _ => planCtz o) s)

/-- popc, form N (R210). -/
def planPopc (o : Fields) (s : State) : Plan :=
  unaryPlan s o (fun a => BitVec.ofNat 64 (popcNat 64 a.toNat))

/-- `popc` alone in its bundle. -/
def execPopc (o : Fields) (s : State) : Out := .next (issueAlone o (0x39) (fun _ => planPopc o) s)

/-- cmp: c register DST[3:0], condition DST[6:4] (R212). -/
def planCmp (o : Fields) (s : State) : Plan :=
  match srcA s o, srcB s o with
  | some a, some b =>
    let cond := o.dst.toNat / 16
    let v : Word := if condHolds cond a.v b.v then 1 else 0
    scalarPlan s (slotOk s o [.sx, .sy] && cond < 6) (0x58 + o.dst.toNat % 16) 1 [a, b] v (rho v)
  | _, _ => illegalPlan

/-- `cmp` alone in its bundle. -/
def execCmp (o : Fields) (s : State) : Out := .next (issueAlone o ((twinOpcode 0x16 o).toNat) (fun _ => planCmp o) s)

/-- sel: reads the old d through DST (R213). -/
def planSel (o : Fields) (s : State) : Plan :=
  match srcA s o, srcB s o with
  | some a, some b =>
    let d := srcD s o.dst.toNat
    let r := pick (a.v != 0) b d
    scalarPlan s (slotOk s o [.sx, .sy]) o.dst.toNat 1 [a, b, d] r.1 r.2
  | _, _ => illegalPlan

/-- `sel` alone in its bundle. -/
def execSel (o : Fields) (s : State) : Out := .next (issueAlone o ((twinOpcode 0x17 o).toNat) (fun _ => planSel o) s)

/-- ldi: a move of B; SRCA is 0 (R214). -/
def planLdi (o : Fields) (s : State) : Plan :=
  match srcB s o with
  | some b => scalarPlan s (slotOk s o [.sx, .sy] && noA o) o.dst.toNat 1 [b] b.v b.res
  | none => illegalPlan

/-- `ldi` alone in its bundle. -/
def execLdi (o : Fields) (s : State) : Out := .next (issueAlone o ((twinOpcode 0x18 o).toNat) (fun _ => planLdi o) s)

/-- sext of the low n bits, n from 1 to 64 in the short field (R215). -/
def planSext (o : Fields) (s : State) : Plan :=
  match srcA s o with
  | some a =>
    let n := (shortSext o).toInt
    let v := sextOf a.v n.toNat
    scalarPlan s (slotOk s o [.sx, .sy] && decide (1 ≤ n ∧ n ≤ 64)) o.dst.toNat 1 [a] v (rho v)
  | none => illegalPlan

/-- `sext` alone in its bundle. -/
def execSext (o : Fields) (s : State) : Out := .next (issueAlone o (0x78) (fun _ => planSext o) s)

/-- zext of the low n bits, n from 1 to 64 in the short field (R215). -/
def planZext (o : Fields) (s : State) : Plan :=
  match srcA s o with
  | some a =>
    let n := (shortSext o).toInt
    let v := zextOf a.v n.toNat
    scalarPlan s (slotOk s o [.sx, .sy] && decide (1 ≤ n ∧ n ≤ 64)) o.dst.toNat 1 [a] v (rho v)
  | none => illegalPlan

/-- `zext` alone in its bundle. -/
def execZext (o : Fields) (s : State) : Out := .next (issueAlone o (0x79) (fun _ => planZext o) s)

/-- aplane: plane number 0 to 15 in the short field (R216). -/
def planAplane (o : Fields) (s : State) : Plan :=
  match srcA s o with
  | some a =>
    let p := (shortSext o).toInt
    scalarPlan s (slotOk s o [.sx, .sy] && decide (0 ≤ p ∧ p ≤ 15)) o.dst.toNat 1 [a]
      (aplaneOf a.v p.toNat) (resAplane a.v a.res p.toNat)
  | none => illegalPlan

/-- `aplane` alone in its bundle. -/
def execAplane (o : Fields) (s : State) : Out := .next (issueAlone o (0x77) (fun _ => planAplane o) s)

/-- xput: one lane of a row (R217). -/
def planXput (o : Fields) (s : State) : Plan :=
  putPlan s o .x

/-- `xput` alone in its bundle. -/
def execXput (o : Fields) (s : State) : Out := .next (issueAlone o ((twinOpcode 0x19 o).toNat) (fun _ => planXput o) s)

/-- yput: one lane of a row (R217). -/
def planYput (o : Fields) (s : State) : Plan :=
  putPlan s o .y

/-- `yput` alone in its bundle. -/
def execYput (o : Fields) (s : State) : Out := .next (issueAlone o ((twinOpcode 0x1A o).toNat) (fun _ => planYput o) s)

/-- xget: one lane of a row into a scalar (R218). -/
def planXget (o : Fields) (s : State) : Plan :=
  getPlan s o .x

/-- `xget` alone in its bundle. -/
def execXget (o : Fields) (s : State) : Out := .next (issueAlone o ((twinOpcode 0x1B o).toNat) (fun _ => planXget o) s)

/-- yget: one lane of a row into a scalar (R218). -/
def planYget (o : Fields) (s : State) : Plan :=
  getPlan s o .y

/-- `yget` alone in its bundle. -/
def execYget (o : Fields) (s : State) : Out := .next (issueAlone o ((twinOpcode 0x1C o).toNat) (fun _ => planYget o) s)

end Sys2Proof.Machine
end

