-- ==== Sys2Proof/Machine/Control.lean ====
section
/-! DEFINITION. Branch targets, jump tables, calls and returns, loop registers, checks and traps (R219 to R234),
and the parcel units other than a bundle (R18, R174 to R179, R275). -/

namespace Sys2Proof.Machine

/-- A b register code (R194). -/
def isB (code : Nat) : Bool := 0x50 ≤ code && code < 0x58

/-! ### Branch targets and jump tables -/

/-- bset: a target relative to the bundle, from an immediate, or absolute, from a register (R219). -/
def planBset (o : Fields) (s : State) : Plan :=
  match srcB s o with
  | none => illegalPlan
  | some b =>
    let v := if o.twin || o.srcb.toNat = 0x68 then (me s).pc + b.v else b.v
    let p := scalarPlan s (slotOk s o [.sx] && noA o && isB o.dst.toNat && !(b.full && v.getLsbD 0)) o.dst.toNat 1 [b] v
      (if o.twin || o.srcb.toNat = 0x68 then rho v else b.res)
    p

/-- `bset` alone in its bundle. -/
def execBset (o : Fields) (s : State) : Out := .next (issueAlone o ((twinOpcode 0x1D o).toNat) (fun _ => planBset o) s)

/-- jtab marks bN empty and reads the table's header, translated at issue (R220 to R223). -/
def planJtab (o : Fields) (s : State) : Plan :=
  match srcA s o, srcB s o with
  | some a, some b =>
    let code := o.dst.toNat
    let x := translate s (threadReq s a.v 16 16 false)
    if !slotOk s o [.sx] || !isB code || code = 0x50 then illegalPlan
    else {
      emptyTrap := anyEmptyTrap [a, b]
      errs := resErr 2 o.srca.toNat a
      blocks := emptyWaits [a, b] ++ destWaits s (.scalar code)
      stop := xlateStop x a.v false
      dests := [.scalar code]
      effect := fun t =>
        issueLoad (setMe t (emptyReg (me t) code)) a.v (xlateAcc x) (.jtabHead (code - 0x50) b.v a.v) }
  | _, _ => illegalPlan

/-- `jtab` alone in its bundle. -/
def execJtab (o : Fields) (s : State) : Out := .next (issueAlone o ((twinOpcode 0x1E o).toNat) (fun _ => planJtab o) s)

/-! ### Calls and returns -/

/-- The transfer that a `call` or `ret` begins (R224, R225); the link is the address of the unit after the
delay region; where the stream there cannot be followed yet it is a free value until it can (log 20). -/
def xferPlan (s : State) (o : Fields) (ok : Bool) (link : Option Nat) : Plan :=
  match srcA s o with
  | none => illegalPlan
  | some a =>
    let after := afterDelay 4 s (me s).npc 3
    let linkDest := match link with | some l => [Dest.scalar (0x50 + l)] | none => []
    let isOpen := !(me s).arch.loops.isEmpty || (me s).xfer.isSome
    if !slotOk s o [.sx] || !noB o || !isB o.srca.toNat || !ok || isOpen
        || (a.full && (a.v == 0 || a.v.getLsbD 0)) then illegalPlan
    else {
      emptyTrap := anyEmptyTrap [a]
      blocks := emptyWaits [a] ++ linkDest.flatMap (destWaits s)
      dests := linkDest
      effect := fun t => if after.isNone && link.isSome then { t with free := t.free + 1 } else t
      post := .xfer { target := a.v, link := link, value := after.getD (Config.freeWord s.free), count := 3, known := after.isSome } }

/-- call (R224). -/
def planCall (o : Fields) (s : State) : Plan := xferPlan s o (isB o.dst.toNat) (some (o.dst.toNat - 0x50))

/-- `call` alone in its bundle. -/
def execCall (o : Fields) (s : State) : Out := .next (issueAlone o 0x3A (fun _ => planCall o) s)

/-- ret (R224). -/
def planRet (o : Fields) (s : State) : Plan := xferPlan s o (o.dst == 0) none

/-- `ret` alone in its bundle. -/
def execRet (o : Fields) (s : State) : Out := .next (issueAlone o 0x3B (fun _ => planRet o) s)

/-! ### Loop registers -/

/-- lset: the count of a level, 0 to 2^32 − 1 (R227). -/
def planLset (o : Fields) (s : State) : Plan :=
  match srcB s o with
  | none => illegalPlan
  | some b =>
    let k := o.dst.toNat
    if !slotOk s o [.sx, .sy] || !noA o || k = 0 || 6 < k || (b.full && decide (2 ^ 32 ≤ b.v.toNat)) then illegalPlan
    else {
      emptyTrap := anyEmptyTrap [b]
      blocks := emptyWaits [b]
      dests := [.loopCount k]
      effect := fun t =>
        let t1 := sendResult t (inFlightAfter t 1 (.loopCount k) (.word b.v 0))
        setMe t1 { me t1 with lsetAt := fset (me t1).lsetAt k (now t1) } }

/-- `lset` alone in its bundle. -/
def execLset (o : Fields) (s : State) : Out := .next (issueAlone o ((twinOpcode 0x20 o).toNat) (fun _ => planLset o) s)

/-- lstr: a stride slot of a level, or its disabling (R229). -/
def planLstr (o : Fields) (s : State) : Plan :=
  match srcB s o with
  | none => illegalPlan
  | some b =>
    let k := field o.dst.toNat 0 3
    let j := field o.dst.toNat 3 2
    let a := o.srca.toNat
    if !slotOk s o [.sx, .sy] || o.bta || 32 ≤ o.dst.toNat || k = 0 || 6 < k
        || !(a = 0 || (0x40 ≤ a && a < 0x50)) then illegalPlan
    else {
      emptyTrap := anyEmptyTrap [b]
      blocks := emptyWaits [b]
      dests := [.stride k j]
      effect := fun t =>
        sendResult t (inFlightAfter t 1 (.stride k j) (.stride (if a = 0 then none else some (a, b.v)))) }

/-- `lstr` alone in its bundle. -/
def execLstr (o : Fields) (s : State) : Out := .next (issueAlone o ((twinOpcode 0x21 o).toNat) (fun _ => planLstr o) s)

/-! ### Checks and traps -/

/-- cmpt of two scalars fires when its condition holds (R231, R232). -/
def planCmpt (o : Fields) (s : State) : Plan :=
  match srcA s o, srcB s o with
  | some a, some b =>
    let cond := field o.dst.toNat 4 3
    if !slotOk s o [.sx, .sy] || 6 ≤ cond then illegalPlan
    else {
      emptyTrap := anyEmptyTrap [a, b]
      fire := if allFull [a, b] && condHolds cond a.v b.v then some (field o.dst.toNat 0 4) else none
      blocks := emptyWaits [a, b] }
  | _, _ => illegalPlan

/-- `cmpt` alone in its bundle. -/
def execCmpt (o : Fields) (s : State) : Out := .next (issueAlone o ((twinOpcode 0x1F o).toNat) (fun _ => planCmpt o) s)

/-- cmpt.p fires when the two p registers differ (R231). -/
def planCmptP (o : Fields) (s : State) : Plan :=
  let m := o.srca.toNat
  let n := o.srcb.toNat
  if !slotOk s o [.sx, .sy] || 16 ≤ m || 16 ≤ n then illegalPlan
  else { fire := if readPred (me s) .x m != readPred (me s) .y n then some (field o.dst.toNat 0 4) else none }

/-- `cmpt.p` alone in its bundle. -/
def execCmptP (o : Fields) (s : State) : Out := .next (issueAlone o 0x1F (fun _ => planCmptP o) s)

/-- cmpt.v fires when the two rows differ (R231). -/
def planCmptV (o : Fields) (s : State) : Plan :=
  let us : List RowUse := [{ cl := .x, r := o.srca.toNat, bt := o.bta }, { cl := .y, r := o.srcb.toNat, bt := o.btb }]
  let x := readRow (me s) .x o.srca.toNat
  let y := readRow (me s) .y o.srcb.toNat
  let usable := x.full && y.full && !tileTaken s .x && !tileTaken s .y
  if !slotOk s o [.sx, .sy] then illegalPlan
  else {
    emptyTrap := rowTraps s us
    fire := if usable && x.bits != y.bits then some (field o.dst.toNat 0 4) else none
    blocks := rowWaits s us
    stop := rowStop s us }

/-- `cmpt.v` alone in its bundle. -/
def execCmptV (o : Fields) (s : State) : Out := .next (issueAlone o 0x1F (fun _ => planCmptV o) s)

/-- A trap after the bundle with a code (R233). -/
def codeTrapPlan (s : State) (o : Fields) (cause : Nat) : Plan :=
  if !slotOk s o [.sx, .sy] || !noA o || o.dst != 0 then illegalPlan
  else { post := .trap { cause := cause, code := shortK o } }

/-- trap: the software trap (R233). -/
def planTrap (o : Fields) (s : State) : Plan := codeTrapPlan s o 0x0D

/-- `trap` alone in its bundle. -/
def execTrap (o : Fields) (s : State) : Out := .next (issueAlone o 0x7D (fun _ => planTrap o) s)

/-- brk: the breakpoint trap (R233, R406). -/
def planBrk (o : Fields) (s : State) : Plan := codeTrapPlan s o 0x0E

/-- `brk` alone in its bundle. -/
def execBrk (o : Fields) (s : State) : Out := .next (issueAlone o 0x7C (fun _ => planBrk o) s)

/-- rfe: valid in a trap handler outside a delay region (R225, R234, R398). -/
def planRfe (o : Fields) (s : State) : Plan :=
  if !slotOk s o [.sx] || !noA o || !noB o || o.dst != 0 || !inHandler (me s) || (me s).xfer.isSome then illegalPlan
  else { post := .rfe }

/-- `rfe` alone in its bundle. -/
def execRfe (o : Fields) (s : State) : Out := .next (issueAlone o 0x3C (fun _ => planRfe o) s)

/-! ### Parcel units -/

/-- The illegal-parcel trap (R173). -/
def illegalParcel (s : State) : State := trapHere s { cause := 1, addr := (me s).pc }

/-- The unit may not stand in a delay region (R225). -/
def outsideDelay (s : State) (f : State → State) : State := if (me s).xfer.isSome then illegalParcel s else f s

/-- Fetch goes on at an address. -/
def continueAt (s : State) (va : Word) : State := setMe s { me s with npc := va }

/-- An `lbeg` directly after an `lset` of its level holds fetch for one cycle (R228). -/
def lsetHold (s : State) (k : Nat) : Nat :=
  match fget? (me s).lsetAt k with
  | some t => if t + 1 = now s then 1 else 0
  | none => 0

/-- lbeg: open a level, or skip the body where the count is 0 (R18, R228, R346). -/
def lbegUnit (k : Nat) (s : State) : State :=
  let c := me s
  if k = 0 || 6 < k || c.arch.loops.any (fun l => l.level == k) then illegalParcel s
  else
    let n := (fget c.arch.lcount k 0).toNat
    if n = 0 then
      match afterLend (2 ^ 59) s k c.npc with
      | .inl va => finishUnit (continueAt s va) (1 + lsetHold s k)
      | .inr x => stopUnit s x
    else
      finishUnit (setMe s { c with
        arch := { c.arch with loops := { level := k, count := n, body := c.npc, first := true } :: c.arch.loops } })
        (lsetHold s k)

def execLbeg (k : BitVec 3) (s : State) : Out := .next (outsideDelay s (lbegUnit k.toNat))

/-- The enabled stride slots of a level, in slot order (R229). -/
def stridesOf (c : Ctx) (k : Nat) : List (Nat × Word) :=
  [0, 1, 2, 3].filterMap (fun j => fget c.arch.strides (4 * k + j) none)

/-- a ← a + stride, with its predicted residue (R229, R238). -/
def addStride (c : Ctx) (e : Nat × Word) : Ctx :=
  let r := readReg c e.1
  writeReg c e.1 (r.val + e.2) (resAdd r.val e.2 r.res (rho e.2))

/-- lend: count down, add the strides, return to the body or close the level (R18, R229, R346). -/
def lendUnit (k : Nat) (s : State) : State :=
  let c := me s
  match c.arch.loops with
  | [] => illegalParcel s
  | l :: rest =>
    if l.level ≠ k then illegalParcel s
    else match (stridesOf c k).find? (fun e => !(readReg c e.1).full) with
      | some e => blockOn s (.scalar e.1)
      | none =>
        let c1 := (stridesOf c k).foldl addStride c
        if l.count ≤ 1 then finishUnit (setMe s { c1 with arch := { c1.arch with loops := rest } }) 0
        else
          finishUnit (setMe s { c1 with
            npc := l.body
            arch := { c1.arch with loops := { l with count := l.count - 1, first := false } :: rest } }) 0

def execLend (k : BitVec 3) (s : State) : Out := .next (outsideDelay s (lendUnit k.toNat))

/-- halt (R275). -/
def execHalt (s : State) : Out := .next (outsideDelay s (fun t => haltContext t 1))

/-- nops: n + 1 empty bundles in one unit (R175, R225), before which a deferred fault is taken (R396). -/
def nopsUnit (n : Nat) (s : State) : State :=
  match (me s).deferred with
  | t :: rest => takeDeferred s t rest
  | [] =>
    match (me s).xfer with
    | some x => if x.count < n then illegalParcel s else finishUnit s n
    | none => finishUnit s n

def execNops (n : BitVec 10) (s : State) : Out := .next (nopsUnit (n.toNat + 1) s)

/-- The load bank's state and the run bank of CWTS (R176). -/
def lstate (c : Ctx) : Nat := field (kget c 0x0B).toNat 1 2

def runBank (c : Ctx) : Nat := field (kget c 0x0B).toNat 0 1

/-- CWTS of a run bank and a load-bank state. -/
def cwtsWord (run ls : Nat) : Word := BitVec.ofNat 64 (run % 2 + ls % 4 * 2)

/-- isync: wait for the load bank (R178). -/
def isyncUnit (s : State) : State :=
  if lstate (me s) = 1 then blockOn s .isync
  else if lstate (me s) = 3 then trapHere s { cause := 0x11 }
  else finishUnit s 0

def execIsync (s : State) : Out := .next (outsideDelay s isyncUnit)

/-- bswap: the banks change places and execution continues at bk (R179). -/
def bswapUnit (k : Nat) (s : State) : State :=
  let c := me s
  if lstate c ≠ 2 || !c.arch.loops.isEmpty then illegalParcel s
  else if !(readReg c (0x50 + k)).full then blockOn s (.scalar (0x50 + k))
  else
    let v := (readReg c (0x50 + k)).val
    let s1 := setMe s (kset c 0x0B (cwtsWord (1 - runBank c) 0))
    finishUnit (if v = 0 then s1 else continueAt s1 v) 1

def execBswap (k : BitVec 3) (s : State) : Out := .next (outsideDelay s (bswapUnit k.toNat))

end Sys2Proof.Machine
end

