-- ==== Sys2Proof/Machine/KSpace.lean ====
section
/-! DEFINITION. The k-space: `mtk` and `mfk` (R235 to R237, R397), and the values that belong to the module, the
step group or the Heresh service. -/

namespace Sys2Proof.Machine

/-! ### Reads -/

/-- The step group of a context's launch. -/
def groupOfCtx (s : State) (c : Ctx) : Option StepGroup := (c.task.bind (fun t => t.sgid)).bind (fun g => fget? s.groups g)

/-- TBAND (R423). -/
def tbandWord (s : State) : Word :=
  BitVec.ofNat 64 (s.cold.band % 4 + s.cold.state % 16 * 4 + s.cold.tmax % 4096 * 256 + s.cold.bseq.toNat * 2 ^ 32)

/-- LSCALE, LSMIN, LSMAX, LSWIN, LSSTAT (R144); 0 in a context of an unstepped launch (R135). -/
def lossWord (g : StepGroup) (index : Nat) : Word :=
  BitVec.ofNat 64
    (if index = 0x1B then g.scale.toNat else if index = 0x1C then g.lsmin.toNat else if index = 0x1D then g.lsmax.toNat
      else if index = 0x1E then g.lswin else g.clean % 65536 + min g.skip 0xFFFF_FFFF * 65536)

/-- This package owns a page of the step group's regions (R146). -/
def ownsPages (s : State) (sgid : Nat) : Bool := s.regions.any (fun e => e.2.sgid == some sgid && (e.2.owners.isEmpty || e.2.owners.any (fun o => o.1 == s.pkg)))

/-- A hub counter (R146). -/
def hubWord (s : State) (c : Ctx) (index : Nat) : Word :=
  match groupOfCtx s c with
  | none => 0
  | some g =>
    if !ownsPages s g.sgid then 0
    else BitVec.ofNat 64
      (min (if index = 0x20 then g.stcdrop else if index = 0x21 then g.stcexcl else if index = 0x22 then g.stcrej
        else if index = 0x23 then g.stcdel else g.stcovf) (2 ^ 64 - 1))

/-- The value that `mfk` reads of a local register (R235, R236). -/
def kread (s : State) (index : Nat) : Word :=
  let c := me s
  if index = 0x11 then BitVec.ofNat 64 (sourceOf s s.cur)
  else if index = 0x13 then BitVec.ofNat 64 s.gts
  else if index = 0x14 then tbandWord s
  else if 0x1B ≤ index && index ≤ 0x1F then (match groupOfCtx s c with | some g => lossWord g index | none => 0)
  else if index = 0x30 then BitVec.ofNat 64 s.mdepth
  else kget c index

/-- The indices of R235 and R397 that name a register. -/
def kIndex (index : Nat) : Bool :=
  (1 ≤ index && index ≤ 0x0B) || (0x10 ≤ index && index ≤ 0x14) || (0x18 ≤ index && index ≤ 0x24) || index == 0x30
    || (0xC0 ≤ index && index ≤ 0xCB) || index == 0xD0 || index == 0xD1

/-- A hub register. -/
def hubIndex (index : Nat) : Bool := 0x20 ≤ index && index ≤ 0x24

/-- Mark a destination empty and leave a producer outstanding for it (R344). -/
def startPending (s : State) (code : Nat) (kind : PendKind) : State :=
  let c := me s
  let p : Pending := { id := s.nextId, cid := s.cur, code := code, kind := kind
                       gen := if c.seg.isSome then some c.segGen else none, since := now s }
  let s1 := setMe s (emptyReg c code)
  { s1 with nextId := s1.nextId + 1, pends := s1.pends ++ [p] }

/-- mfk: a local register lands after 2 cycles; a hub counter leaves its destination empty until it arrives
(R235, R237). -/
def planMfk (o : Fields) (s : State) : Plan :=
  let index := shortK o
  let code := o.dst.toNat
  if !slotOk s o [.sx, .sy] || !noA o || !kIndex index then illegalPlan
  else if hubIndex index then
    if !scalarDest code then illegalPlan
    else {
      blocks := destWaits s (.scalar code)
      dests := [.scalar code]
      effect := fun t => startPending t code (.hub index) }
  else scalarPlan s true code 2 [] (kread s index) (rho (kread s index))

/-- `mfk` alone in its bundle. -/
def execMfk (o : Fields) (s : State) : Out := .next (issueAlone o 0x7B (fun _ => planMfk o) s)

/-! ### Writes -/

/-- The registers that `mtk` may write now, by index (R135, R235, R237, R397). -/
def mtkAllowed (s : State) (index : Nat) (a : Src) : Bool :=
  let c := me s
  if index = 0x02 || index = 0x03 then !a.full || clusterType (field a.v.toNat 0 8)
  else if index = 0x1A then (mySgid s).isSome
  else if index = 0x30 then onService s && c.task.isNone
  else if index = 0xC1 || (0xC4 ≤ index && index ≤ 0xC6) then inHandler c
  else if index = 0xD0 || index = 0xD1 then inDebug c
  else index == 0x01 || (0x04 ≤ index && index ≤ 0x0A) || (0xC8 ≤ index && index ≤ 0xCB)

/-- The value a register keeps of what is written: reserved fields read as zero (R5); RMODE, TXCTL and DBGCTL
replace or keep fields as R159, R398 and R397 give. -/
def kwritten (c : Ctx) (index : Nat) (v : Word) : Word :=
  if index = 0x01 then (if 5 ≤ field v.toNat 0 3 then v &&& 0x8 else v &&& 0xF)
  else if index = 0x02 || index = 0x03 then v &&& 0xFF
  else if index = 0x05 || index = 0x06 || index = 0x1A then v &&& 0xFFFF_FFFF
  else if index = 0x07 then v &&& 0x1F_FFFF_FFFF_FFFF
  else if index = 0x09 then v &&& 0x3
  else if index = 0xC6 then (if v &&& 3 = 0 then (v &&& 0x3F) ||| 1 else v &&& 0x3F)
  else if index = 0xD0 then (kget c 0xD0 &&& 1) ||| (v &&& 2)
  else v

/-- A plan of `mtk`: the source is checked (R239) and the effect runs where the register may be written. -/
def mtkPlan (s : State) (o : Fields) (index : Nat) (dests : List Dest) (eff : Src → State → State) : Plan :=
  match srcA s o with
  | none => illegalPlan
  | some a =>
    if !slotOk s o [.sx, .sy] || o.dst != 0 || !mtkAllowed s index a then illegalPlan
    else {
      emptyTrap := anyEmptyTrap [a]
      errs := resErr 4 o.srca.toNat a
      blocks := emptyWaits [a]
      dests := dests
      effect := eff a }

/-- The value lands after one cycle (R237). -/
def landK (index : Nat) (a : Src) (t : State) : State :=
  sendResult t (inFlightAfter t 1 (.kspace index) (.word (kwritten (me t) index a.v) 0))

/-- mtk of a register without a row of its own (R237). -/
def planMtk (o : Fields) (s : State) : Plan := mtkPlan s o (shortK o) [.kspace (shortK o)] (landK (shortK o))

/-- `mtk` alone in its bundle. -/
def execMtk (o : Fields) (s : State) : Out := .next (issueAlone o 0x7A (fun _ => planMtk o) s)

/-- A temperature that R95 refuses: a negative non-zero value, an infinity, a NaN. -/
def badTemperature (t : Nat) : Bool := (0x8000_0000 < t && t < 2 ^ 32) || (0x7F80_0000 ≤ t && t < 0x8000_0000)

/-- mtk QSOFT: a refused temperature is replaced by +0 and sets QSTAT.BADT (R95). -/
def planMtkQsoft (o : Fields) (s : State) : Plan :=
  mtkPlan s o 0x08 [.kspace 0x08] (fun a t =>
    let v := field a.v.toNat 0 32
    if badTemperature v then
      let t1 := sendResult t (inFlightAfter t 1 (.kspace 0x08) (.word 0 0))
      sendResult t1 (inFlightAfter t1 1 (.kspace 0x0A) (.qstat 2 0))
    else sendResult t (inFlightAfter t 1 (.kspace 0x08) (.word (BitVec.ofNat 64 v) 0)))

/-- `mtk QSOFT` alone in its bundle. -/
def execMtkQsoft (o : Fields) (s : State) : Out := .next (issueAlone o 0x7A (fun _ => planMtkQsoft o) s)

/-- mtk QSTAT: the flags are W1C, which is worked out when the value lands (R96, R209). -/
def planMtkQstat (o : Fields) (s : State) : Plan :=
  mtkPlan s o 0x0A [.kspace 0x0A] (fun a t => sendResult t (inFlightAfter t 1 (.kspace 0x0A) (.word a.v 0)))

/-- `mtk QSTAT` alone in its bundle. -/
def execMtkQstat (o : Fields) (s : State) : Out := .next (issueAlone o 0x7A (fun _ => planMtkQstat o) s)

/-- mtk RMODE (R159). -/
def planMtkRmode (o : Fields) (s : State) : Plan := mtkPlan s o 0x01 [.kspace 0x01] (landK 0x01)

/-- `mtk RMODE` alone in its bundle. -/
def execMtkRmode (o : Fields) (s : State) : Out := .next (issueAlone o 0x7A (fun _ => planMtkRmode o) s)

/-- MDEPTH takes 1,300 to 2^24 − 1; a value outside writes the nearer limit (R49). -/
def clampDepth (v : Nat) : Nat := if v < 1300 then 1300 else if 2 ^ 24 ≤ v then 2 ^ 24 - 1 else v

/-- A value of MDEPTH that has landed in its writer's k-space becomes that of the package (R235, R237). -/
def publishDepth (s : State) (cid : Nat) : State :=
  let c := ctxOf s cid
  match fget? c.arch.kspace 0x30 with
  | some v => setCtx { s with mdepth := v.toNat } cid { c with arch := { c.arch with kspace := fdel c.arch.kspace 0x30 } }
  | none => s

/-- mtk MDEPTH, by the Heresh service alone (R49, R237): a context of a service core that holds no task. The value lands after
one cycle. -/
def planMtkMdepth (o : Fields) (s : State) : Plan :=
  mtkPlan s o 0x30 [.kspace 0x30] (fun a t =>
    sendResult t (inFlightAfter t 1 (.kspace 0x30) (.word (BitVec.ofNat 64 (clampDepth a.v.toNat)) 0)))

/-- `mtk MDEPTH` alone in its bundle. -/
def execMtkMdepth (o : Fields) (s : State) : Out := .next (issueAlone o 0x7A (fun _ => planMtkMdepth o) s)

/-- mtk DBGCTL: with DM at 1 it writes only STEP (R397). -/
def planMtkDbgctl (o : Fields) (s : State) : Plan := mtkPlan s o 0xD0 [.kspace 0xD0] (landK 0xD0)

/-- `mtk DBGCTL` alone in its bundle. -/
def execMtkDbgctl (o : Fields) (s : State) : Out := .next (issueAlone o 0x7A (fun _ => planMtkDbgctl o) s)


end Sys2Proof.Machine
end

