-- ==== Sys2Proof/Machine/MemOps.lean ====
section
/-! DEFINITION. Scalar, vector and atomic memory operations (R241 to R251), and the events that return their
data and perform their stores (R65, R79, R221, R222, R242, R410, R413). -/

namespace Sys2Proof.Machine

/-! ### Addresses (R197, R241) -/

/-- The base of a memory entry: a0 to a15 or IMM. -/
def baseCode (o : Fields) : Option Nat :=
  let b := field o.srca.toNat 0 5
  if b < 16 then some (0x40 + b) else if b = 16 then some 0x68 else none

/-- The variant of a memory entry, SRCA[6:5]. -/
def variantOf (o : Fields) : Nat := field o.srca.toNat 5 2

/-- Base, displacement, and their sum. -/
structure Addr where
  base : Src
  disp : Src
  baseCode : Nat
  va : Word

/-- The address of a memory entry: base plus displacement. -/
def memAddr (s : State) (o : Fields) : Option Addr :=
  match baseCode o with
  | none => none
  | some code =>
    match scalarSrc s code o.bta, srcB s o with
    | some a, some d => some { base := a, disp := d, baseCode := code, va := a.v + d.v }
    | _, _ => none

def Addr.srcs (a : Addr) : List Src := [a.base, a.disp]

/-- Residue checks at an address use (R239, kind 2). -/
def addrErrs (o : Fields) (a : Addr) : List (Nat × Nat) :=
  resErr 2 a.baseCode a.base ++ (if o.twin then [] else resErr 2 o.srcb.toNat a.disp)

/-- The register of a scalar memory entry and its W bit (R197). -/
def memReg (o : Fields) : Nat := field o.dst.toNat 0 6

def memWide (o : Fields) : Bool := o.dst.getLsbD 6

/-- W goes with 8 and 16 bytes only; 16 bytes name an even register. -/
def memFormOk (o : Fields) (n : Nat) : Bool := (!memWide o || 8 ≤ n) && (n != 16 || memReg o % 2 == 0)

/-- The registers an access of n bytes names, from r on. -/
def regGroup (r k : Nat) : List Nat := (List.range k).map (fun i => r + i)

/-- Mark registers empty. -/
def emptyAll (c : Ctx) (codes : List Nat) : Ctx := codes.foldl emptyReg c

/-! ### Scalar loads and stores -/

/-- A scalar load of n bytes (R244). -/
def loadPlan (s : State) (o : Fields) (n : Nat) (signed : Bool) : Plan :=
  match memAddr s o with
  | none => illegalPlan
  | some a =>
    let codes := regGroup (memReg o) (if n = 16 then 2 else 1)
    let x := translate s (threadReq s a.va n n false)
    if !slotOk s o [.sy] || !memFormOk o n then illegalPlan
    else {
      emptyTrap := anyEmptyTrap a.srcs
      errs := addrErrs o a
      blocks := emptyWaits a.srcs ++ codes.flatMap (fun c => destWaits s (.scalar c))
      stop := xlateStop x a.va false
      dests := codes.map .scalar
      effect := fun t =>
        issueLoad (setMe t (emptyAll (me t) codes)) a.va (xlateAcc x) (.scalar (memReg o) n signed) (memWide o) }

/-- ld: 1, 2, 4 or 8 bytes, sign-extended (R244). -/
def planLd (o : Fields) (s : State) : Plan := loadPlan s o (2 ^ variantOf o) true

/-- `ld` alone in its bundle. -/
def execLd (o : Fields) (s : State) : Out := .next (issueAlone o ((twinOpcode 0x22 o).toNat) (fun _ => planLd o) s)

/-- ldu: 1, 2 or 4 bytes, zero-extended, or 16 bytes (R244). -/
def planLdu (o : Fields) (s : State) : Plan :=
  loadPlan s o (if variantOf o = 3 then 16 else 2 ^ variantOf o) false

/-- `ldu` alone in its bundle. -/
def execLdu (o : Fields) (s : State) : Out := .next (issueAlone o ((twinOpcode 0x23 o).toNat) (fun _ => planLdu o) s)

/-- A scalar store of n bytes (R244): its data and their residue check are taken when it issues. -/
def storePlan (s : State) (o : Fields) (n : Nat) (ok : Bool) : Plan :=
  match memAddr s o with
  | none => illegalPlan
  | some a =>
    let codes := regGroup (memReg o) (if n = 16 then 2 else 1)
    let ds := codes.map (srcD s)
    let bs := (ds.flatMap (fun d => leBytes 8 d.v.toNat)).take n
    let x := translate s (threadReq s a.va n n true)
    if !slotOk s o [.sy] || !ok || !memFormOk o n then illegalPlan
    else {
      emptyTrap := anyEmptyTrap a.srcs
      errs := addrErrs o a ++ (codes.zip ds).flatMap (fun e => resErr 1 e.1 e.2)
      blocks := emptyWaits a.srcs ++ emptyWaits ds
      stop := xlateStop x a.va true
      segEntries := 1
      segBytes := n
      effect := fun t => chargeSegment (issueStore t t.cur .data (memWide o) (xlateAcc x) a.va bs) 1 n }

/-- st: the low 1, 2, 4 or 8 bytes (R244). -/
def planSt (o : Fields) (s : State) : Plan := storePlan s o (2 ^ variantOf o) true

/-- `st` alone in its bundle. -/
def execSt (o : Fields) (s : State) : Out := .next (issueAlone o ((twinOpcode 0x24 o).toNat) (fun _ => planSt o) s)

/-- stq: 16 bytes from a register pair (R244). -/
def planStq (o : Fields) (s : State) : Plan := storePlan s o 16 (variantOf o == 0)

/-- `stq` alone in its bundle. -/
def execStq (o : Fields) (s : State) : Out := .next (issueAlone o ((twinOpcode 0x25 o).toNat) (fun _ => planStq o) s)

/-! ### Scratchpad vector operations (R243, R246, R247) -/

/-- The cluster that SRCA[5] selects. -/
def memCluster (o : Fields) : Cluster := if o.srca.getLsbD 5 then .y else .x

/-- The tile-access trap of R243 with an offset. -/
def tileTrap (off : Nat) : Option Stop := some (.trap { cause := 5, addr := BitVec.ofNat 64 off })

/-- The width of the format a slot header gives; 0 where it names none. -/
def headWidth (h : Word) : Nat :=
  if hFmt h = 31 then 8 else if 1 ≤ hFmt h && hFmt h ≤ 0x11 then fmtWidth (hFmt h) else 0

/-- The byte offsets of the elements of a `.z` access, in order (R125, R246). -/
def zOffsets (w off : Nat) : List Nat :=
  let k := off / 16384
  (List.range (4096 / w)).map (fun i =>
    let e := off % 16384 * 8 / w + i
    16384 * k + elemOffset true w (e / 128) (e % 128))

/-- The checks of a `vld` or `vst` at an offset (R243, R246). -/
def spadStop (s : State) (o : Fields) (off : Nat) : Option Stop :=
  let h := headOf (coreOf s (myCore s)) (off / 16384)
  if off % 512 ≠ 0 then tileTrap off
  else match slotStop s off o.bta with
    | some x => some x
    | none =>
      if o.srca.getLsbD 6 && (!hLayout h || (headWidth h != 8 && headWidth h != 16)) then tileTrap off else none

/-- The rows that an access touches. -/
def spadRows (core : Core) (z : Bool) (off : Nat) : List Nat :=
  if z then ((zOffsets (headWidth (headOf core (off / 16384))) off).map (fun a => a / 512)).eraseDups else [off / 512]

/-- The 8-byte words that an access touches. -/
def spadWords (core : Core) (z : Bool) (off : Nat) : List Nat :=
  if z then ((zOffsets (headWidth (headOf core (off / 16384))) off).map (fun a => a / 8)).eraseDups else rowWords [off / 512]

/-- The 512 bytes of a `vld`. -/
def spadLoad (core : Core) (z : Bool) (off : Nat) : Row :=
  if z then
    let w := headWidth (headOf core (off / 16384))
    rowOfLanes w ((zOffsets w off).map (fun a => spadBits core a w))
  else spadRow core (off / 512)

/-- Put the 512 bytes of a `vst`, with fresh check bits (R411). -/
def spadStore (core : Core) (z : Bool) (off : Nat) (v : Row) : Core :=
  if z then
    let w := headWidth (headOf core (off / 16384))
    freshFilled (((zOffsets w off).zipIdx).foldl (fun k (a, i) => putSpadBits k a w (lane v w i)) core)
      ((zOffsets w off).map (fun a => (a, w / 8)))
  else putSpad core (off / 512) v

/-- vld: a row from the scratchpad, 4 cycles (R242, R246). -/
def planVld (o : Fields) (s : State) : Plan :=
  match memAddr s o with
  | none => illegalPlan
  | some a =>
    let core := coreOf s (myCore s)
    let off := a.va.toNat
    let z := o.srca.getLsbD 6
    let cl := memCluster o
    let r := o.dst.toNat
    if !slotOk s o [.sy] then illegalPlan
    else
      let st := spadStop s o off
      { emptyTrap := anyEmptyTrap a.srcs
        errs := addrErrs o a
        blocks := emptyWaits a.srcs ++ besideTrap (slotTraps s (off / 16384) o.bta) (slotWaits s (off / 16384) o.bta ++ destWaits s (.row cl r))
        stop := st
        spadBad := if st.isNone then badWord core (spadWords core z off) else none
        banks := rowBanks (spadRows core z off)
        dests := [.row cl r]
        effect := fun t => sendResult (noteWords t (myCore t) (spadWords core z off) (some t.cur)) (inFlightAfter t 4 (.row cl r) (.row (spadLoad core z off))) }

/-- `vld` alone in its bundle. -/
def execVld (o : Fields) (s : State) : Out := .next (issueAlone o ((twinOpcode 0x26 o).toNat) (fun _ => planVld o) s)

/-- vst: a row into the scratchpad; it never changes a header (R246). -/
def planVst (o : Fields) (s : State) : Plan :=
  match memAddr s o with
  | none => illegalPlan
  | some a =>
    let core := coreOf s (myCore s)
    let off := a.va.toNat
    let z := o.srca.getLsbD 6
    let cl := memCluster o
    let us : List RowUse := [{ cl := cl, r := o.dst.toNat }]
    if !slotOk s o [.sy] then illegalPlan
    else
      let st := spadStop s o off
      { emptyTrap := anyEmptyTrap a.srcs
        errs := addrErrs o a
        blocks := emptyWaits a.srcs ++ besideTrap (slotTraps s (off / 16384) o.bta) (slotWaits s (off / 16384) o.bta ++ rowWaits s us)
        stop := st
        spadWrites := if st.isNone then spadRows core z off else []
        banks := rowBanks (spadRows core z off)
        effect := fun t =>
          setCore t (myCore t) (spadStore (coreOf t (myCore t)) z off (readRow (me s) cl o.dst.toNat).bits) }

/-- `vst` alone in its bundle. -/
def execVst (o : Fields) (s : State) : Out := .next (issueAlone o ((twinOpcode 0x27 o).toNat) (fun _ => planVst o) s)

/-- The lane offsets of a gather or scatter (R247). -/
def laneOffsets (w : Nat) (base : Word) (index : Row) : List Nat :=
  (List.range (4096 / w)).map (fun i => (base + BitVec.ofNat 64 (lane index w i * (w / 8))).toNat)

/-- The checks of R243 on every byte of every lane. -/
def lanesStop (s : State) (o : Fields) (w : Nat) (offs : List Nat) : Option Stop :=
  (offs.filterMap (fun a => match slotStop s a o.bta with
    | some x => some x
    | none => slotStop s (a + w / 8 - 1) o.bta)).head?

/-- Some lane lies in an engine-owned slot, with BTA at 1 (R20). -/
def lanesTrap (s : State) (o : Fields) (w : Nat) (offs : List Nat) : Bool :=
  offs.any (fun a => slotTraps s (a / 16384) o.bta || slotTraps s ((a + w / 8 - 1) / 16384) o.bta)

/-- Slots of lanes that an engine makes the bundle wait for. -/
def lanesWait (s : State) (o : Fields) (w : Nat) (offs : List Nat) : List Reason :=
  ((offs.flatMap (fun a => [a / 16384, (a + w / 8 - 1) / 16384])).eraseDups).flatMap (fun k => slotWaits s k o.bta)

/-- The rows that lanes touch. -/
def laneRows (w : Nat) (offs : List Nat) : List Nat :=
  (offs.flatMap (fun a => [a / 512, (a + w / 8 - 1) / 512])).eraseDups

/-- The 8-byte words that lanes touch. -/
def laneWords (w : Nat) (offs : List Nat) : List Nat :=
  (offs.flatMap (fun a => [a / 8, (a + w / 8 - 1) / 8])).eraseDups

/-- vgth: lane i from base + I[i]·w/8, 8 cycles (R247). -/
def planVgth (o : Fields) (s : State) : Plan :=
  match baseCode o with
  | none => illegalPlan
  | some code =>
    match scalarSrc s code o.bta with
    | none => illegalPlan
    | some a =>
      let core := coreOf s (myCore s)
      let cl := memCluster o
      let w := etWidth (me s) cl
      let us : List RowUse := [{ cl := cl, r := o.srcb.toNat, bt := o.btb }]
      let offs := laneOffsets w a.v (readRow (me s) cl o.srcb.toNat).bits
      if !slotOk s o [.sy] || o.srca.getLsbD 6 then illegalPlan
      else
        let st := lanesStop s o w offs
        { emptyTrap := anyEmptyTrap [a] || rowTraps s us
          errs := resErr 2 code a
          blocks := emptyWaits [a] ++ besideTrap (tileTraps s us || lanesTrap s o w offs) (rowWaits s us [.row cl o.dst.toNat] ++ lanesWait s o w offs)
          stop := match rowStop s us with | some x => some x | none => st
          spadBad := if st.isNone then badWord core (laneWords w offs) else none
          banks := rowBanks (laneRows w offs)
          dests := [.row cl o.dst.toNat]
          effect := fun t =>
            sendResult (noteWords t (myCore t) (laneWords w offs) (some t.cur)) (inFlightAfter t 8 (.row cl o.dst.toNat)
              (.row (rowOfLanes w (offs.map (fun x => spadNum core x (w / 8)))))) }

/-- `vgth` alone in its bundle. -/
def execVgth (o : Fields) (s : State) : Out := .next (issueAlone o 0x3D (fun _ => planVgth o) s)

/-- The lanes of a row, of w bits each, go to byte offsets; words that they fill have fresh check bits (R247, R411). -/
def scatter (w : Nat) (offs : List Nat) (data : Row) (core : Core) : Core :=
  freshFilled (offs.zipIdx.foldl (fun k (x, i) => putSpadNum k x (w / 8) (lane data w i)) core) (offs.map (fun x => (x, w / 8)))

/-- vsct: lane i of the data row to base + I[i]·w/8, in ascending lane order (R247). -/
def planVsct (o : Fields) (s : State) : Plan :=
  match baseCode o with
  | none => illegalPlan
  | some code =>
    match scalarSrc s code o.bta with
    | none => illegalPlan
    | some a =>
      let cl := memCluster o
      let w := etWidth (me s) cl
      let us : List RowUse := [{ cl := cl, r := o.srcb.toNat, bt := o.btb }, { cl := cl, r := o.dst.toNat, bt := o.btb }]
      let offs := laneOffsets w a.v (readRow (me s) cl o.srcb.toNat).bits
      let data := (readRow (me s) cl o.dst.toNat).bits
      if !slotOk s o [.sy] || o.srca.getLsbD 6 then illegalPlan
      else
        let st := lanesStop s o w offs
        { emptyTrap := anyEmptyTrap [a] || rowTraps s us
          errs := resErr 2 code a
          blocks := emptyWaits [a] ++ besideTrap (tileTraps s us || lanesTrap s o w offs) (rowWaits s us ++ lanesWait s o w offs)
          stop := match rowStop s us with | some x => some x | none => st
          spadWrites := if st.isNone then laneRows w offs else []
          banks := rowBanks (laneRows w offs)
          effect := fun t =>
            setCore t (myCore t) (scatter w offs data (coreOf t (myCore t))) }

/-- `vsct` alone in its bundle. -/
def execVsct (o : Fields) (s : State) : Out := .next (issueAlone o 0x3E (fun _ => planVsct o) s)

/-! ### Global vector operations (R75, R248, R249) -/

/-- A request of a vector access, aligned to its element width, or to a byte on a plane narrower than 8 bits (R83); a plane-4
access under E8M0 must meet the shape of R299. -/
def vecReq (s : State) (cl : Cluster) (va : Word) (write : Bool) : AccessReq :=
  { threadReq s va 512 (etWidth (me s) cl / 8) write with
    narrow := true
    shape := if field va.toNat 60 4 = 4 && etOf (me s) cl = 9 then some (3, 5) else none }

/-- vldg: 512 bytes of a plane into a row, which is empty until they have arrived (R23, R248). -/
def planVldg (o : Fields) (s : State) : Plan :=
  match memAddr s o with
  | none => illegalPlan
  | some a =>
    let cl := memCluster o
    let r := o.dst.toNat
    let x := translate s (vecReq s cl a.va false)
    if !slotOk s o [.sy] || o.srca.getLsbD 6 then illegalPlan
    else {
      emptyTrap := anyEmptyTrap a.srcs
      errs := addrErrs o a
      blocks := emptyWaits a.srcs ++ destWaits s (.row cl r)
      stop := xlateStop x a.va false
      dests := [.row cl r]
      effect := fun t =>
        issueLoad (setMe t (emptyRow (me t) cl r)) a.va (xlateAcc x)
          (.row cl r) }

/-- `vldg` alone in its bundle. -/
def execVldg (o : Fields) (s : State) : Out := .next (issueAlone o ((twinOpcode 0x28 o).toNat) (fun _ => planVldg o) s)

/-- vstg: a row's 512 bytes to a plane (R248). -/
def planVstg (o : Fields) (s : State) : Plan :=
  match memAddr s o with
  | none => illegalPlan
  | some a =>
    let cl := memCluster o
    let us : List RowUse := [{ cl := cl, r := o.dst.toNat }]
    let x := translate s (vecReq s cl a.va true)
    if !slotOk s o [.sy] || o.srca.getLsbD 6 then illegalPlan
    else {
      emptyTrap := anyEmptyTrap a.srcs
      errs := addrErrs o a
      blocks := emptyWaits a.srcs ++ rowWaits s us
      stop := xlateStop x a.va true
      segEntries := 1
      segBytes := 512
      effect := fun t =>
        chargeSegment
          (issueStore t t.cur .data false (xlateAcc x) a.va (rowBytes (readRow (me s) cl o.dst.toNat).bits)) 1 512 }

/-- `vstg` alone in its bundle. -/
def execVstg (o : Fields) (s : State) : Out := .next (issueAlone o ((twinOpcode 0x29 o).toNat) (fun _ => planVstg o) s)

/-- The element types of `vstx.m` (R249). -/
def maskable (fc : Nat) : Bool := (1 ≤ fc && fc ≤ 5) || isSignedInt fc || (isBinary8 fc && fmtSigned fc)

/-- The rectified code of a lane and its sign bit (R249). -/
def rectify (fc code : Nat) : Nat × Bool :=
  let x := decodeNum fc code
  if xisNan x then (encodeNum fc false .nan, false)
  else if xisZero x || xsign x then (encodeNum fc false (.fin false 0 1), false)
  else (code, true)

/-- The mask bytes of sign bits, 8 lanes to a byte (R249). -/
def maskBytes (ms : List Bool) : List Byte :=
  leBytes (ms.length / 8) (ms.foldr (fun b acc => (if b then 1 else 0) + 2 * acc) 0)

/-- vstx.m: the rectified row to plane 0 and one sign bit a lane to plane 5 (R75, R249). -/
def planVstxM (o : Fields) (s : State) : Plan :=
  match memAddr s o with
  | none => illegalPlan
  | some a =>
    let cl := memCluster o
    let fc := etOf (me s) cl
    let w := etWidth (me s) cl
    let n := 4096 / w
    let us : List RowUse := [{ cl := cl, r := o.dst.toNat }]
    let pos := field a.va.toNat 0 60
    let va0 := BitVec.ofNat 64 pos
    let va5 := BitVec.ofNat 64 (pos + 5 * 2 ^ 60)
    let x0 := translate s { threadReq s va0 512 (w / 8) true with dwidth := some w }
    let x5 := translate s { threadReq s va5 (n / 8) 1 true with shape := some (0, 0) }
    let vs := (List.range n).map (fun i => rectify fc (lane (readRow (me s) cl o.dst.toNat).bits w i))
    if !slotOk s o [.sy] || o.srca.getLsbD 6 || !maskable fc then illegalPlan
    else {
      emptyTrap := anyEmptyTrap a.srcs
      errs := addrErrs o a
      blocks := emptyWaits a.srcs ++ rowWaits s us
      stop := match joinParts x0 x5 with
        | .ok _ => none
        | x => xlateStop x (if xlateRank x5 < xlateRank x0 then va5 else va0) true
      segEntries := 2
      segBytes := 512 + n / 8
      effect := fun t =>
        let t1 := issueStore t t.cur .data false (xlateAcc x0) va0 (rowBytes (rowOfLanes w (vs.map (·.1))))
        chargeSegment (issueStore t1 t1.cur .data false (xlateAcc x5) va5 (maskBytes (vs.map (·.2)))) 2 (512 + n / 8) }

/-- `vstx.m` alone in its bundle. -/
def execVstxM (o : Fields) (s : State) : Out := .next (issueAlone o ((twinOpcode 0x2A o).toNat) (fun _ => planVstxM o) s)

/-! ### Atomics (R250, R251) -/

/-- The atomics by number. -/
def atAdd : Nat := 0
def atAnd : Nat := 1
def atOr : Nat := 2
def atXor : Nat := 3
def atMin : Nat := 4
def atMax : Nat := 5
def atMinu : Nat := 6
def atMaxu : Nat := 7
def atSwap : Nat := 8
def atCas : Nat := 9

/-- The bytes of a size code. -/
def atomSize (v : Nat) : Nat := if v = 0 then 4 else if v = 1 then 8 else 16

/-- Registers of the operand group (R250). -/
def atomRegs (op n : Nat) : Nat :=
  if op = atCas then (if n = 16 then 4 else 2) else if n = 16 then 2 else 1

/-- The size and form agree (R250). -/
def atomFormOk (o : Fields) (op : Nat) : Bool :=
  let v := variantOf o
  let n := atomSize v
  let w := memWide o
  decide (v < 3)
    && (if n = 4 then !w else if n = 8 then (op != atCas || w) else w && decide (8 ≤ op))
    && memReg o % atomRegs op n == 0

/-- The value an atomic writes (R251): words are n-byte numbers, `v` the operand, `e` what `cas` expects. -/
def atomNew (op n old v e : Nat) : Nat :=
  let m := 2 ^ (8 * n)
  let lt (x y : Nat) : Bool := decide (signedOf (8 * n) x < signedOf (8 * n) y)
  if op = atAdd then (old + v) % m
  else if op = atAnd then Nat.land old v
  else if op = atOr then Nat.lor old v
  else if op = atXor then Nat.xor old v
  else if op = atMin then (if lt v old then v else old)
  else if op = atMax then (if lt old v then v else old)
  else if op = atMinu then min old v
  else if op = atMaxu then max old v
  else if op = atSwap then v
  else if old = e then v else old

/-- The operand words of the group as one number of n bytes, from the k-th half on. -/
def operandNum (n : Nat) (ws : List Word) : Nat :=
  if n = 16 then (ws.headD 0).toNat + 2 ^ 64 * ((ws.drop 1).headD 0).toNat else (ws.headD 0).toNat % 2 ^ (8 * n)

/-- An atomic ends the open segment, marks its register empty and is performed when its data returns (R242,
R251). -/
def atomPlan (s : State) (o : Fields) (op : Nat) : Plan :=
  match memAddr s o with
  | none => illegalPlan
  | some a =>
    let n := atomSize (variantOf o)
    let codes := regGroup (memReg o) (atomRegs op n)
    let outs := regGroup (memReg o) (if n = 16 then 2 else 1)
    let ds := codes.map (srcD s)
    let x := translate s { threadReq s a.va n n true with atomic := true }
    if !slotOk s o [.sy] || !atomFormOk o op then illegalPlan
    else {
      emptyTrap := anyEmptyTrap a.srcs
      errs := addrErrs o a ++ (codes.zip ds).flatMap (fun e => resErr 1 e.1 e.2)
      blocks := emptyWaits a.srcs ++ emptyWaits ds
      stop := xlateStop x a.va true
      dests := outs.map .scalar
      endsSeg := true
      effect := fun t =>
        issueLoad (setMe t (emptyAll (me t) outs)) a.va (xlateAcc x)
          (.atom op (memReg o) n (ds.map (·.v)) (memWide o)) (memWide o) }

/-- atom.add (R251). -/
def planAtomAdd (o : Fields) (s : State) : Plan := atomPlan s o atAdd

/-- `atom.add` alone in its bundle. -/
def execAtomAdd (o : Fields) (s : State) : Out :=
  .next (issueAlone o ((twinOpcode 0x2B o).toNat) (fun _ => planAtomAdd o) s)

/-- atom.and (R251). -/
def planAtomAnd (o : Fields) (s : State) : Plan := atomPlan s o atAnd

/-- `atom.and` alone in its bundle. -/
def execAtomAnd (o : Fields) (s : State) : Out :=
  .next (issueAlone o ((twinOpcode 0x2C o).toNat) (fun _ => planAtomAnd o) s)

/-- atom.or (R251). -/
def planAtomOr (o : Fields) (s : State) : Plan := atomPlan s o atOr

/-- `atom.or` alone in its bundle. -/
def execAtomOr (o : Fields) (s : State) : Out :=
  .next (issueAlone o ((twinOpcode 0x2D o).toNat) (fun _ => planAtomOr o) s)

/-- atom.xor (R251). -/
def planAtomXor (o : Fields) (s : State) : Plan := atomPlan s o atXor

/-- `atom.xor` alone in its bundle. -/
def execAtomXor (o : Fields) (s : State) : Out :=
  .next (issueAlone o ((twinOpcode 0x2E o).toNat) (fun _ => planAtomXor o) s)

/-- atom.min (R251). -/
def planAtomMin (o : Fields) (s : State) : Plan := atomPlan s o atMin

/-- `atom.min` alone in its bundle. -/
def execAtomMin (o : Fields) (s : State) : Out :=
  .next (issueAlone o ((twinOpcode 0x2F o).toNat) (fun _ => planAtomMin o) s)

/-- atom.max (R251). -/
def planAtomMax (o : Fields) (s : State) : Plan := atomPlan s o atMax

/-- `atom.max` alone in its bundle. -/
def execAtomMax (o : Fields) (s : State) : Out :=
  .next (issueAlone o ((twinOpcode 0x30 o).toNat) (fun _ => planAtomMax o) s)

/-- atom.minu (R251). -/
def planAtomMinu (o : Fields) (s : State) : Plan := atomPlan s o atMinu

/-- `atom.minu` alone in its bundle. -/
def execAtomMinu (o : Fields) (s : State) : Out :=
  .next (issueAlone o ((twinOpcode 0x31 o).toNat) (fun _ => planAtomMinu o) s)

/-- atom.maxu (R251). -/
def planAtomMaxu (o : Fields) (s : State) : Plan := atomPlan s o atMaxu

/-- `atom.maxu` alone in its bundle. -/
def execAtomMaxu (o : Fields) (s : State) : Out :=
  .next (issueAlone o ((twinOpcode 0x32 o).toNat) (fun _ => planAtomMaxu o) s)

/-- atom.swap (R251). -/
def planAtomSwap (o : Fields) (s : State) : Plan := atomPlan s o atSwap

/-- `atom.swap` alone in its bundle. -/
def execAtomSwap (o : Fields) (s : State) : Out :=
  .next (issueAlone o ((twinOpcode 0x33 o).toNat) (fun _ => planAtomSwap o) s)

/-- atom.cas (R251). -/
def planAtomCas (o : Fields) (s : State) : Plan := atomPlan s o atCas

/-- `atom.cas` alone in its bundle. -/
def execAtomCas (o : Fields) (s : State) : Out :=
  .next (issueAlone o ((twinOpcode 0x34 o).toNat) (fun _ => planAtomCas o) s)

/-! ### Results that arrive (R242, R413) -/

/-- The result belongs to a segment that has been rewound (R413). -/
def stale (s : State) (cid : Nat) (gen : Option Nat) : Bool :=
  match gen with
  | none => false
  | some g => g != (ctxOf s cid).segGen

/-- A result of a producer outside the open segment also reaches its checkpoint (R413). -/
def alsoCheckpoint (c : Ctx) (gen : Option Nat) (f : Ctx → Ctx) : Ctx :=
  match c.seg, gen with
  | some g, none => { c with seg := some { g with arch := (f { c with arch := g.arch }).arch } }
  | _, _ => c

/-- A producer that is outstanding when its context is saved goes on under the number of the context's image
(R403), and under one that no image has once its task is gone. -/
def imageCid (node : Nat) : Nat := 4 * Config.nCores + node

def goneCid : Nat := 2 ^ 20

/-- Change a context, or the saved context of an image. -/
def changeCtx (s : State) (cid : Nat) (f : Ctx → Ctx) : State :=
  if cid < 4 * Config.nCores then setCtx s cid (f (ctxOf s cid))
  else changeSaved s (cid - 4 * Config.nCores) f

/-- The state as a context or an image acts in it. -/
def asContext (s : State) (cid : Nat) : State :=
  if cid < 4 * Config.nCores then { s with cur := cid }
  else match fget? s.saved (cid - 4 * Config.nCores) with
    | some sv => setCtx { s with cur := sv.cid } sv.cid sv.ctx
    | none => s

/-- A scalar result arrives: its residue is generated from it (R242). -/
def arriveScalar (s : State) (cid : Nat) (gen : Option Nat) (code : Nat) (v : Word) : State :=
  let f (c : Ctx) : Ctx := writeReg c code v (rho v)
  changeCtx s cid (fun c => f (alsoCheckpoint c gen f))

/-- A row arrives; a logged copy of it is what a rewind restores (R413). -/
def arriveRow (s : State) (cid : Nat) (gen : Option Nat) (cl : Cluster) (r : Nat) (v : Row) : State :=
  changeCtx s cid (fun c =>
    let c1 : Ctx := match c.seg, gen with
      | some g, none =>
        { c with seg := some { g with undo := g.undo.map (fun u => match u with
            | .row cl' r' old => if cl' = cl && r' = r then .row cl r { bits := v, full := true } else .row cl' r' old
            | .spad k old => .spad k old) } }
      | _, _ => c
    writeRow c1 cl r v)

/-- Leave a trap to be taken before the context's next bundle. -/
def deferTrap (s : State) (cid : Nat) (t : TrapInfo) : State :=
  changeCtx s cid (fun c => { c with deferred := c.deferred ++ [t] })

def dropLoad (s : State) (id : Nat) : State := { s with loads := s.loads.filter (fun m => m.id != id) }

/-- The sampled bytes and class of a load. -/
def sampleOf (s : State) (id : Nat) : List Byte × Nat :=
  ((s.loads.find? (fun m => m.id == id)).bind (·.sample)).getD ([], 0)

/-- What a failed check defers: a tag mismatch (R65), or a detected error of kind 6 or 7 (R410). -/
def loadFault (l : PLoad) (cls : Nat) : TrapInfo :=
  if cls = 1 then { cause := 0x0A, addr := l.va, plane := field l.va.toNat 60 4, wr := isAtom l, slot := l.slot }
  else { cause := 0x15, code := cls, addr := l.va, plane := field l.va.toNat 60 4, wr := isAtom l, slot := l.slot }

/-- The loaded bytes fill the destination (R244, R248). -/
def fillLoad (s : State) (l : PLoad) (bs : List Byte) : State :=
  match l.use with
  | .scalar code n signed =>
    if n = 16 then
      arriveScalar (arriveScalar s l.cid l.gen code (BitVec.ofNat 64 (leNat (bs.take 8)))) l.cid l.gen (code + 1)
        (BitVec.ofNat 64 (leNat (bs.drop 8)))
    else
      arriveScalar s l.cid l.gen code
        (if signed then BitVec.ofInt 64 (signedOf (8 * n) (leNat bs)) else BitVec.ofNat 64 (leNat bs))
  | .row cl r => arriveRow s l.cid l.gen cl r (rowOfBytes bs)
  | .atom _ code n _ _ =>
    if n = 16 then
      arriveScalar (arriveScalar s l.cid l.gen code (BitVec.ofNat 64 (leNat (bs.take 8)))) l.cid l.gen (code + 1)
        (BitVec.ofNat 64 (leNat (bs.drop 8)))
    else arriveScalar s l.cid l.gen code (BitVec.ofNat 64 (leNat bs))
  | .jtabHead .. => s
  | .jtabEntry .. => s

/-! ### Mailboxes and doorbells (R377) -/

/-- A store into a mailbox: the context that made it is noted for its unit. -/
def noteMail (s : State) (p : PStore) : State :=
  match p.keys with
  | [k] =>
    let a := fget s.asids k.asid {}
    let pos := field p.va.toNat 0 60 + (p.addr - ((p.spans.head?).map (·.1)).getD p.addr)
    if a.granted && k.plane == 0 && isData p && decide (a.mailbox.toNat ≤ pos ∧ pos < a.mailbox.toNat + 65536) then
      { s with asids := fset s.asids k.asid { a with mail := fset a.mail ((pos - a.mailbox.toNat) / 4) p.cid } }
    else s
  | _ => s

/-- An `atom.add` of 1 to a doorbell: a ring, with what its context has stored in the mailbox. -/
def noteRing (s : State) (l : PLoad) : State :=
  match l.acc.parts, l.use with
  | [p], .atom op _ n ws _ =>
    let a := fget s.asids p.key.asid {}
    if a.granted && p.key.plane == 0 && op == atAdd && operandNum n ws == 1 && field l.va.toNat 0 60 == a.doorbell.toNat then
      { s with asids := fset s.asids p.key.asid { a with rings := a.rings ++ [(a.mail.filter (fun e => e.2 == l.cid)).map (·.1)] } }
    else s
  | _, _ => s

/-- An atomic writes its unit, whatever the new value (R251). -/
def writeAtom (s : State) (l : PLoad) (bs : List Byte) : State :=
  match l.use with
  | .atom op _ n ws _ =>
    let k := if n = 16 then 2 else 1
    let e := operandNum n ws
    let v := if op = atCas then operandNum n (ws.drop k) else operandNum n ws
    let out := leBytes n (atomNew op n (leNat bs) v e)
    (accSpans l.acc).foldl (fun t (a, m) => wakeWaiters (performPkg t
      { id := s.nextId, cid := l.cid, seq := l.seq, addr := a, bytes := out.take m, colour := l.acc.colour
        va := l.va, keys := [] }) a m) s
  | _ => s

/-! ### An 8-byte atomic without `.w8` (R251) -/

/-- Its two units perform separately. -/
def splitAtom (l : PLoad) : Bool := match l.use with | .atom _ _ n _ whole => n == 8 && !whole | _ => false

/-- Whether the operand's unit takes the place of the old one; the sign counts in the high unit. -/
def unitWins (op : Nat) (signed : Bool) (v old : Nat) : Bool :=
  let lt (x y : Nat) : Bool := if signed then decide (signedOf 32 x < signedOf 32 y) else decide (x < y)
  if op = atMin || op = atMinu then lt v old else lt old v

/-- A minimum or maximum performs its high unit first, every other operation its low one (log 70). -/
def highFirst (op : Nat) : Bool := op == atMin || op == atMax || op == atMinu || op == atMaxu

/-- The new value of a unit of the operand v: of the first unit, or of the second where the first held `was`. -/
def atomUnit (op v : Nat) (was : Option Nat) (old : Nat) : Nat :=
  let lo := v % 2 ^ 32
  let hi := v / 2 ^ 32 % 2 ^ 32
  if highFirst op then
    let signed := op == atMin || op == atMax
    match was with
    | none => if unitWins op signed hi old then hi else old
    | some w =>
      if w = hi then (if unitWins op false lo old then lo else old)
      else if unitWins op signed hi w then lo else old
  else match was with
    | none => atomNew op 4 old lo 0
    | some w => if op = atAdd then (old + hi + (if 2 ^ 32 ≤ w + lo then 1 else 0)) % 2 ^ 32 else atomNew op 4 old hi 0

/-- Unit k of an 8-byte access. -/
def unitAcc (acc : Access) (k : Nat) : Access :=
  { acc with parts := (acc.parts.take 1).map (fun p => { p with va := p.va + BitVec.ofNat 64 (4 * k), n := 4, frame := p.frame.map (fun f => f + 4 * k) }) }

/-- One unit of a split atomic is read and written; a unit that fails its check is not written (R410). -/
def performUnit (s : State) (l : PLoad) (k : Nat) : State × List Byte × Nat :=
  match l.use with
  | .atom op _ _ ws _ =>
    let acc := unitAcc l.acc k
    let cls := readClass s l.cid l.seq acc
    let bs := accBytes s l.cid l.seq acc []
    let ids := accReads s l.cid l.seq acc
    let s1 := recordSeen (orderAfter (noteReads s l.cid ids) l ids) l.cid l.seq acc
    let out := leBytes 4 (atomUnit op (operandNum 8 ws) (l.half.map leNat) (leNat bs))
    if cls ≠ 0 then (s1, bs, cls)
    else
      ((accSpans acc).foldl (fun t (a, m) => wakeWaiters (performPkg t
        { id := s.nextId, cid := l.cid, seq := l.seq, addr := a, bytes := out, colour := acc.colour, va := l.va, keys := [] }) a m) s1, bs, 0)
  | _ => (s, [], 0)

/-- The next unit of a split atomic performs; after the second its old value fills the register. -/
def stepAtom (s : State) (l : PLoad) : State :=
  let high := match l.use with | .atom op .. => highFirst op | _ => false
  let r := performUnit s l (if l.half.isSome = high then 0 else 1)
  if r.2.2 ≠ 0 then
    let s1 := dropLoad r.1 l.id
    if stale s1 l.cid l.gen then s1 else deferTrap s1 l.cid (loadFault l r.2.2)
  else match l.half with
    | none => { r.1 with loads := r.1.loads.map (fun m => if m.id = l.id then { m with half := some r.2.1 } else m) }
    | some h =>
      let s1 := dropLoad r.1 l.id
      if stale s1 l.cid l.gen then s1 else fillLoad s1 l (if high then r.2.1 ++ h else h ++ r.2.1)

/-- LOAD_DATA_RETURN (R242, R251, R410, R413). A load whose turn has not come, or an access while the HBM timing
hold lasts (R431), stays outstanding. -/
def execLoadDataReturn (id : Nat) (remote : List Byte) (s : State) : Out :=
  match s.loads.find? (fun l => l.id == id) with
  | none => .next s
  | some l =>
    let tabled := match l.use with | .jtabHead .. => true | .jtabEntry .. => true | _ => false
    if s.cold.hbmHold || tabled || !loadMayReturn s l || (isAtom l && !atomMayPerform s l) then .next s
    else if splitAtom l then .next (stepAtom s l)
    else
      let s1 := performInOrder (answers s l.acc remote).1 l (answers s l.acc remote).2
      let (bs, cls) := sampleOf s1 id
      let s2 := dropLoad s1 id
      if stale s2 l.cid l.gen then .next s2
      else if cls = 0 then .next (fillLoad (noteRing (writeAtom s2 l bs) l) l bs)
      else .next (deferTrap s2 l.cid (loadFault l cls))

/-! ### Jump tables (R221, R222) -/

/-- A jump-table trap, with the address of its `jtab` bundle (R222, R395). -/
def tableTrap (l : PLoad) (va : Word) (qual code : Nat) : TrapInfo :=
  { cause := 0x0B, qual := qual, code := code, addr := va, plane := field va.toNat 60 4, slot := l.slot, unit := l.pc }

/-- The failed check of a table read: a tag mismatch is the jump-table trap, the rest as for a load. -/
def tableFault (l : PLoad) (va : Word) (cls : Nat) : TrapInfo :=
  if cls = 1 then tableTrap l va 3 0 else loadFault l cls

/-- bN receives a target (R221). -/
def setTarget (s : State) (l : PLoad) (b : Nat) (va t : Word) : State :=
  if t.getLsbD 0 then deferTrap s l.cid (tableTrap l va 1 0) else arriveScalar s l.cid l.gen (0x50 + b) t

/-- The request of a context that need not be the one that acts. -/
def ctxReq (s : State) (cid : Nat) (va : Word) (n align : Nat) (write : Bool) : AccessReq :=
  threadReq (asContext s cid) va n align write

/-- The entry is translated when the header returns: a page that is not present holds only the read (R222). -/
def readEntry (s : State) (l : PLoad) (b : Nat) (va : Word) : State :=
  match translate s (ctxReq s l.cid va 8 8 false) with
  | .ok acc =>
    { noteWalks s (threadPipe (l.cid / 4)) (l.cid / 4) acc with
      nextId := s.nextId + 1
      loads := s.loads ++ [{ l with id := s.nextId, va := va, acc := acc, use := .jtabEntry b va, sample := none
                                    held := false }] }
  | .trap t =>
    deferTrap (noteFailed s (threadPipe (l.cid / 4)) (asidOf (me (asContext s l.cid))) t) l.cid (tableTrap l va 2 t.cause)
  | .notPresent k =>
    let s1 := startPageIn s k
    { s1 with
      nextId := s1.nextId + 1
      loads := s1.loads ++ [{ l with id := s1.nextId, va := va, use := .jtabEntry b va, sample := none
                                     held := true }] }

/-- The header's bytes choose (R221). -/
def useHeader (s : State) (l : PLoad) (b : Nat) (index table : Word) (bs : List Byte) : State :=
  if leNat ((bs.drop 4).take 4) ≠ 0 then deferTrap s l.cid (tableTrap l table 0 0)
  else if index.toNat < leNat (bs.take 4) then readEntry s l b (table + 16 + 8 * index)
  else setTarget s l b (table + 8) (BitVec.ofNat 64 (leNat (bs.drop 8)))

/-- A table read returns: its load performs in order; bytes of a remote page are free values. -/
def returnTable (s : State) (l : PLoad) (n : Nat) : State × List Byte × Nat :=
  let s1 := performInOrder (answers s l.acc []).1 l (answers s l.acc []).2
  let (bs, cls) := sampleOf s1 l.id
  (dropLoad s1 l.id, bs.take n, cls)

/-- JTAB_HEADER_RETURN (R221, R222). -/
def execJtabHeaderReturn (id : Nat) (s : State) : Out :=
  match s.loads.find? (fun l => l.id == id) with
  | none => .next s
  | some l =>
    match l.use with
    | .jtabHead b index table =>
      if s.cold.hbmHold || !loadMayReturn s l then .next s
      else
        let (s1, bs, cls) := returnTable s l 16
        if stale s1 l.cid l.gen then .next s1
        else if cls = 0 then .next (useHeader s1 l b index table bs)
        else .next (deferTrap s1 l.cid (tableFault l table cls))
    | _ => .next s

/-- JTAB_ENTRY_RETURN (R221, R222). -/
def execJtabEntryReturn (id : Nat) (s : State) : Out :=
  match s.loads.find? (fun l => l.id == id) with
  | none => .next s
  | some l =>
    match l.use with
    | .jtabEntry b va =>
      if s.cold.hbmHold || !loadMayReturn s l then .next s
      else
        let (s1, bs, cls) := returnTable s l 8
        if stale s1 l.cid l.gen then .next s1
        else if cls = 0 then .next (setTarget s1 l b va (BitVec.ofNat 64 (leNat bs)))
        else .next (deferTrap s1 l.cid (tableFault l va cls))
    | _ => .next s

/-! ### Stores perform (R65, R79) -/

/-- STORE_PERFORMS_GRP: the first instant of R79. -/
def execStorePerformsGrp (id : Nat) (s : State) : Out :=
  match s.wbuf.find? (fun p => p.id == id) with
  | none => .next s
  | some p => if s.cold.hbmHold || !mayPerformGrp s p then .next s else .next (performGrp s p)

/-- STORE_PERFORMS_PKG: the second instant of R79. Requests that waited for it are served again. -/
def execStorePerformsPkg (id : Nat) (s : State) : Out :=
  match s.wbuf.find? (fun p => p.id == id) with
  | none => .next s
  | some p => if s.cold.hbmHold || !mayPerformPkg s p then .next s else .next (retryHeld (wakeWaiters (noteMail (performPkg s p) p) p.addr p.bytes.length))

/-- FIXED_RESULT_LANDS: the context's earliest result lands, with the others of its cycle (R208, R209); its
core's cycle count is then no less. Restored results land only once the context's next unit has been presented (R399), and none lands
in a clock pause (R430). -/
def execFixedResultLands (cid : Nat) (s : State) : Out :=
  match (ctxOf s cid).flight with
  | [] => .next s
  | f :: fs =>
    if (ctxOf s cid).rebase || s.cold.pause then .next s else
    let due := fs.foldl (fun m g => min m g.due) f.due
    let core := coreOf s (cid / 4)
    let s1 := setCore s (cid / 4) { core with cycle := max core.cycle due }
    .next (publishDepth (setCtx s1 cid (landDue (ctxOf s1 cid) due)) cid)

/-- HUB_COUNTER_ARRIVES: the counter's value fills the destination (R237); so does the value of a `plq`, or the code
of a plane instruction that failed at issue (R266, R267). -/
def execHubCounterArrives (id : Nat) (s : State) : Out :=
  match s.pends.find? (fun p => p.id == id) with
  | none => .next s
  | some p =>
    match p.kind with
    | .hub index =>
      let s1 := { s with pends := s.pends.filter (fun q => q.id != id) }
      if stale s1 p.cid p.gen then .next s1
      else .next (arriveScalar s1 p.cid p.gen p.code (hubWord s1 (ctxOf s1 p.cid) index))
    | .query v =>
      let s1 := { s with pends := s.pends.filter (fun q => q.id != id) }
      if stale s1 p.cid p.gen then .next s1 else .next (arriveScalar s1 p.cid p.gen p.code v)
    | _ => .next s

end Sys2Proof.Machine
end

