-- ==== Sys2Proof/Machine/Vector.lean ====
section
/-! DEFINITION. The vector clusters: arithmetic, bits and shifts, compares and predicate logic, reductions,
permutes, special functions, conversions and MX blocks (R277 to R299). -/

namespace Sys2Proof.Machine

/-! ### What every entry shares (R279 to R281) -/

/-- The cluster of a vector slot. -/
def vecCluster (o : Fields) : Cluster := if o.slot = .vy then .y else .x

def otherCluster (cl : Cluster) : Cluster := match cl with | .x => .y | .y => .x

/-- A vector slot that is no service core's (R202). -/
def vecOk (s : State) (o : Fields) : Bool := slotOk s o [.vx, .vy]

/-- Row operands A and B with their BT bits, and the row that DST names as a source. -/
def useA (o : Fields) : RowUse := { cl := vecCluster o, r := o.srca.toNat, bt := o.bta }
def useB (o : Fields) : RowUse := { cl := vecCluster o, r := o.srcb.toNat, bt := o.btb }
def useD (o : Fields) : RowUse := { cl := vecCluster o, r := o.dst.toNat }

/-- The bits of a row of the slot's cluster. -/
def vrow (s : State) (o : Fields) (r : Nat) : Row := (readRow (me s) (vecCluster o) r).bits

/-- A plan that reads rows and sends results after `lat` cycles; the results are worked out from the state
before the bundle. -/
def vecPlan (s : State) (ok : Bool) (us : List RowUse) (lat : Nat) (draws : Bool) (outs : List (Dest × (Unit → Payload))) :
    Plan :=
  if !ok then illegalPlan
  else {
    emptyTrap := rowTraps s us
    blocks := rowWaits s us (outs.map (·.1))
    stop := rowStop s us
    dests := outs.map (·.1)
    draws := draws
    effect := fun t => outs.foldl (fun u d => sendResult u (inFlightAfter u lat d.1 (d.2 ()))) t }

/-- One result row in the slot's cluster. -/
def rowPlan (s : State) (o : Fields) (ok : Bool) (us : List RowUse) (lat : Nat) (draws : Bool) (f : Unit → Row) : Plan :=
  vecPlan s (vecOk s o && ok) us lat draws [(.row (vecCluster o) o.dst.toNat, fun u => .row (f u))]

/-- Apply a function to every lane number of a row of width w. -/
def mapLanes (w : Nat) (f : Nat → Nat) : Row := rowOfLanes w ((List.range (4096 / w)).map f)

/-- The rounding mode and the overflow bit of RMODE (R159). -/
def rmode (c : Ctx) : Nat := field (kget c 0x01).toNat 0 3
def rovf (c : Ctx) : Bool := bitAt (kget c 0x01).toNat 3

/-- DRAW as an operation with n draws of its bundle before it uses it (R168). -/
def drawAt (c : Ctx) (n : Nat) : Nat := ((kget c 0x05).toNat + n) % 2 ^ 32

/-- The cluster types that count as float types (R278). -/
def floatType (fc : Nat) : Bool := (1 ≤ fc && fc ≤ 5) || isBinary8 fc

/-! ### Arithmetic (R282, R283) -/

/-- The exact result of a lane from a, b and the old d. -/
abbrev LaneFn := Bool → XVal → XVal → XVal → XVal

/-- Float lanes are rounded once in RMODE and fitted; integer lanes are taken modulo 2^w. `lats` are the
latencies for float and integer types. -/
def arithPlan (n : Nat) (s : State) (o : Fields) (fused : Bool) (latF latI : Nat) (ff : LaneFn)
    (fi : Int → Int → Int → Int) : Plan :=
  let c := me s
  let fc := etOf c (vecCluster o)
  let w := fmtWidth fc
  let a := vrow s o o.srca.toNat
  let b := vrow s o o.srcb.toNat
  let d := vrow s o o.dst.toNat
  let mode := rmode c
  let us := if fused then [useA o, useB o, useD o] else [useA o, useB o]
  if floatType fc then
    rowPlan s o true us latF (mode == 4) (fun _ => mapLanes w (fun i =>
      let v := ff (mode == 3) (decodeNum fc (lane a w i)) (decodeNum fc (lane b w i)) (decodeNum fc (lane d w i))
      roundEncode fc mode (if mode = 4 then drawOf c (drawAt c n) i 0 else 0) (rovf c) v))
  else
    rowPlan s o (isInt fc) us latI false (fun _ => mapLanes w (fun i =>
      intCode w (fi (lane a w i : Nat) (lane b w i : Nat) (lane d w i : Nat))))

/-- The compares of `vmin` and `vmax` return the chosen operand unchanged (R282, R283). -/
def choosePlan (s : State) (o : Fields) (f : XVal → XVal → Bool) : Plan :=
  let fc := etOf (me s) (vecCluster o)
  let w := fmtWidth fc
  let a := vrow s o o.srca.toNat
  let b := vrow s o o.srcb.toNat
  rowPlan s o (floatType fc || isInt fc) [useA o, useB o] (if isInt fc then 3 else 4) false (fun _ => mapLanes w (fun i =>
    let x := decodeNum fc (lane a w i)
    let y := decodeNum fc (lane b w i)
    if xisNan x || xisNan y then encodeNum fc false .nan
    else if f x y then lane a w i else lane b w i))

/-- x is the lesser, −0 below +0. -/
def xbelow (x y : XVal) : Bool := xlt x y || (!xlt y x && xsign x)

/-- vadd (R282, R283). -/
def planVadd (n : Nat) (o : Fields) (s : State) : Plan :=
  arithPlan n s o false 4 3 (fun z x y _ => xadd z x y) (fun x y _ => x + y)

/-- `vadd` alone in its bundle. -/
def execVadd (o : Fields) (s : State) : Out := .next (issueAlone o (0x01) (fun n => planVadd n o) s)

/-- vsub (R282, R283). -/
def planVsub (n : Nat) (o : Fields) (s : State) : Plan :=
  arithPlan n s o false 4 3 (fun z x y _ => xadd z x (xneg y)) (fun x y _ => x - y)

/-- `vsub` alone in its bundle. -/
def execVsub (o : Fields) (s : State) : Out := .next (issueAlone o (0x02) (fun n => planVsub n o) s)

/-- vmul (R282, R283). -/
def planVmul (n : Nat) (o : Fields) (s : State) : Plan :=
  arithPlan n s o false 4 4 (fun _ x y _ => xmul x y) (fun x y _ => x * y)

/-- `vmul` alone in its bundle. -/
def execVmul (o : Fields) (s : State) : Out := .next (issueAlone o (0x03) (fun n => planVmul n o) s)

/-- vfma: a·b + d, rounded once (R282, R283). -/
def planVfma (n : Nat) (o : Fields) (s : State) : Plan :=
  arithPlan n s o true 6 6 (fun z x y c => xadd z (xmul x y) c) (fun x y c => x * y + c)

/-- `vfma` alone in its bundle. -/
def execVfma (o : Fields) (s : State) : Out := .next (issueAlone o (0x04) (fun n => planVfma n o) s)

/-- vfms: a·b − d (R282, R283). -/
def planVfms (n : Nat) (o : Fields) (s : State) : Plan :=
  arithPlan n s o true 6 6 (fun z x y c => xadd z (xmul x y) (xneg c)) (fun x y c => x * y - c)

/-- `vfms` alone in its bundle. -/
def execVfms (o : Fields) (s : State) : Out := .next (issueAlone o (0x05) (fun n => planVfms n o) s)

/-- vfnma: −(a·b) − d (R282, R283). -/
def planVfnma (n : Nat) (o : Fields) (s : State) : Plan :=
  arithPlan n s o true 6 6 (fun z x y c => xadd z (xneg (xmul x y)) (xneg c)) (fun x y c => -(x * y) - c)

/-- `vfnma` alone in its bundle. -/
def execVfnma (o : Fields) (s : State) : Out := .next (issueAlone o (0x06) (fun n => planVfnma n o) s)

/-- vfnms: −(a·b) + d (R282, R283). -/
def planVfnms (n : Nat) (o : Fields) (s : State) : Plan :=
  arithPlan n s o true 6 6 (fun z x y c => xadd z (xneg (xmul x y)) c) (fun x y c => -(x * y) + c)

/-- `vfnms` alone in its bundle. -/
def execVfnms (o : Fields) (s : State) : Out := .next (issueAlone o (0x07) (fun n => planVfnms n o) s)

/-- vmin (R282, R283). -/
def planVmin (o : Fields) (s : State) : Plan :=
  choosePlan s o xbelow

/-- `vmin` alone in its bundle. -/
def execVmin (o : Fields) (s : State) : Out := .next (issueAlone o (0x08) (fun _ => planVmin o) s)

/-- vmax (R282, R283). -/
def planVmax (o : Fields) (s : State) : Plan :=
  choosePlan s o (fun x y => xbelow y x)

/-- `vmax` alone in its bundle. -/
def execVmax (o : Fields) (s : State) : Out := .next (issueAlone o (0x09) (fun _ => planVmax o) s)

/-! ### Signs (R284) -/

/-- The code of a lane with its sign bit set to `neg`; a zero of a binary8 type has one code. -/
def withSign (fc code : Nat) (neg : Bool) : Nat :=
  let m := code % 2 ^ (fmtWidth fc - 1)
  if isBinary8 fc && m = 0 then 0 else m + signBit fc neg

/-- The sign bit of a code. -/
def codeSign (fc code : Nat) : Bool := bitAt code (fmtWidth fc - 1)

/-- A NaN lane gives the canonical NaN; the others apply f. -/
def nanOr (fc code : Nat) (f : Nat → Nat) : Nat :=
  if xisNan (decodeNum fc code) then encodeNum fc false .nan else f code

/-- vabs of a lane. -/
def absLane (fc code : Nat) : Nat :=
  let w := fmtWidth fc
  if isInt fc then (if isSignedInt fc then intCode w (signedOf w code).natAbs else code)
  else nanOr fc code (fun c => if fmtSigned fc then withSign fc c false else c)

/-- vneg of a lane. -/
def negLane (fc code : Nat) : Nat :=
  let w := fmtWidth fc
  if isInt fc then intCode w (-(code : Int))
  else nanOr fc code (fun c => if fmtSigned fc then withSign fc c (!codeSign fc c) else 0)

/-- vabs (R284). -/
def planVabs (o : Fields) (s : State) : Plan :=
  let fc := etOf (me s) (vecCluster o)
  let w := fmtWidth fc
  let a := vrow s o o.srca.toNat
  rowPlan s o (noB o && (floatType fc || isInt fc)) [useA o] 2 false (fun _ => mapLanes w (fun i => absLane fc (lane a w i)))

/-- `vabs` alone in its bundle. -/
def execVabs (o : Fields) (s : State) : Out := .next (issueAlone o (0x0A) (fun _ => planVabs o) s)

/-- vneg (R284). -/
def planVneg (o : Fields) (s : State) : Plan :=
  let fc := etOf (me s) (vecCluster o)
  let w := fmtWidth fc
  let a := vrow s o o.srca.toNat
  rowPlan s o (noB o && (floatType fc || isInt fc)) [useA o] 2 false (fun _ => mapLanes w (fun i => negLane fc (lane a w i)))

/-- `vneg` alone in its bundle. -/
def execVneg (o : Fields) (s : State) : Out := .next (issueAlone o (0x0B) (fun _ => planVneg o) s)

/-- vcopysign: the magnitude of a with the sign of b (R284). -/
def planVcopysign (o : Fields) (s : State) : Plan :=
  let fc := etOf (me s) (vecCluster o)
  let w := fmtWidth fc
  let a := vrow s o o.srca.toNat
  let b := vrow s o o.srcb.toNat
  rowPlan s o (floatType fc && fmtSigned fc) [useA o, useB o] 2 false (fun _ => mapLanes w (fun i =>
    nanOr fc (lane a w i) (fun c => withSign fc c (codeSign fc (lane b w i)))))

/-- `vcopysign` alone in its bundle. -/
def execVcopysign (o : Fields) (s : State) : Out := .next (issueAlone o (0x0C) (fun _ => planVcopysign o) s)

/-! ### Bits, shifts and select (R285, R286) -/

/-- A bitwise entry. -/
def bitsPlan (s : State) (o : Fields) (f : Row → Row → Row) : Plan :=
  rowPlan s o true [useA o, useB o] 2 false (fun _ => f (vrow s o o.srca.toNat) (vrow s o o.srcb.toNat))

/-- A shift: the count of a lane from row B, or from the short field (R285). -/
def shiftPlan (s : State) (o : Fields) (f : Nat → Nat → Nat → Nat) : Plan :=
  let w := etWidth (me s) (vecCluster o)
  let a := vrow s o o.srca.toNat
  let b := vrow s o o.srcb.toNat
  let k := (shortSext o).toInt
  if o.twin then
    rowPlan s o (decide (0 ≤ k ∧ k < w)) [useA o] 2 false (fun _ => mapLanes w (fun i => f w (lane a w i) k.toNat))
  else rowPlan s o true [useA o, useB o] 2 false (fun _ => mapLanes w (fun i => f w (lane a w i) (lane b w i % w)))

/-- vand (R285). -/
def planVand (o : Fields) (s : State) : Plan :=
  bitsPlan s o (· &&& ·)

/-- `vand` alone in its bundle. -/
def execVand (o : Fields) (s : State) : Out := .next (issueAlone o (0x0D) (fun _ => planVand o) s)

/-- vor (R285). -/
def planVor (o : Fields) (s : State) : Plan :=
  bitsPlan s o (· ||| ·)

/-- `vor` alone in its bundle. -/
def execVor (o : Fields) (s : State) : Out := .next (issueAlone o (0x0E) (fun _ => planVor o) s)

/-- vxor (R285). -/
def planVxor (o : Fields) (s : State) : Plan :=
  bitsPlan s o (· ^^^ ·)

/-- `vxor` alone in its bundle. -/
def execVxor (o : Fields) (s : State) : Out := .next (issueAlone o (0x0F) (fun _ => planVxor o) s)

/-- vshl (R285). -/
def planVshl (o : Fields) (s : State) : Plan :=
  shiftPlan s o (fun w x k => x * 2 ^ k % 2 ^ w)

/-- `vshl` alone in its bundle. -/
def execVshl (o : Fields) (s : State) : Out := .next (issueAlone o (if o.twin then 0x60 else 0x10) (fun _ => planVshl o) s)

/-- vshr (R285). -/
def planVshr (o : Fields) (s : State) : Plan :=
  shiftPlan s o (fun _ x k => x / 2 ^ k)

/-- `vshr` alone in its bundle. -/
def execVshr (o : Fields) (s : State) : Out := .next (issueAlone o (if o.twin then 0x61 else 0x11) (fun _ => planVshr o) s)

/-- vsra (R285). -/
def planVsra (o : Fields) (s : State) : Plan :=
  shiftPlan s o (fun w x k => intCode w (signedOf w x / (2 ^ k : Nat)))

/-- `vsra` alone in its bundle. -/
def execVsra (o : Fields) (s : State) : Out := .next (issueAlone o (if o.twin then 0x62 else 0x12) (fun _ => planVsra o) s)

/-- vsel: lanes of b where the p bit is 1 (R286). -/
def planVsel (o : Fields) (s : State) : Plan :=
  let w := etWidth (me s) (vecCluster o)
  let p := readPred (me s) (vecCluster o) o.srca.toNat
  let b := vrow s o o.srcb.toNat
  let d := vrow s o o.dst.toNat
  rowPlan s o (o.srca.toNat < 16) [useB o, useD o] 2 false (fun _ => mapLanes w (fun i =>
    if p.getLsbD i then lane b w i else lane d w i))

/-- `vsel` alone in its bundle. -/
def execVsel (o : Fields) (s : State) : Out := .next (issueAlone o (0x13) (fun _ => planVsel o) s)

/-! ### Compares and predicate logic (R287, R288) -/

/-- A predicate from its first n bits. -/
def predOf (n : Nat) (f : Nat → Bool) : PBits :=
  BitVec.ofNat 512 ((List.range n).foldr (fun i acc => (if f i then 1 else 0) + 2 * acc) 0)

/-- The conditions of `vcmp`: 0 eq, 1 ne, 2 lt, 3 le, 4 gt, 5 ge; E8M0 compares its codes (R287). -/
def laneCond (fc cond x y : Nat) : Bool :=
  let a := if fc = 9 then xofInt x else decodeNum fc x
  let b := if fc = 9 then xofInt y else decodeNum fc y
  if cond = 0 then xeq a b else if cond = 1 then !xeq a b else if cond = 2 then xlt a b
  else if cond = 3 then xlt a b || xeq a b else if cond = 4 then xlt b a else xlt b a || xeq a b

/-- Two p operands. -/
def predPlan (s : State) (o : Fields) (f : PBits → PBits → PBits) : Plan :=
  let cl := vecCluster o
  let ok := o.dst.toNat < 16 && o.srca.toNat < 16 && o.srcb.toNat < 16
  vecPlan s (vecOk s o && ok) [] 1 false
    [(.pred cl o.dst.toNat, fun _ => .pbits (f (readPred (me s) cl o.srca.toNat) (readPred (me s) cl o.srcb.toNat)))]

/-- A p operand reduced over the cluster's lanes into a c register. -/
def anyPlan (s : State) (o : Fields) (f : Nat → PBits → Bool) : Plan :=
  let cl := vecCluster o
  let v : Word := if f (4096 / etWidth (me s) cl) (readPred (me s) cl o.srca.toNat) then 1 else 0
  vecPlan s (vecOk s o && noB o && o.dst.toNat < 16 && o.srca.toNat < 16) [] 1 false
    [(.scalar (0x58 + o.dst.toNat), fun _ => .word v (rho v))]

/-- vcmp: a bit for each lane, 0 beyond them (R287). -/
def planVcmp (o : Fields) (s : State) : Plan :=
  let cl := vecCluster o
  let fc := etOf (me s) cl
  let w := fmtWidth fc
  let a := vrow s o o.srca.toNat
  let b := vrow s o o.srcb.toNat
  let cond := field o.dst.toNat 4 3
  vecPlan s (vecOk s o && decide (cond < 6)) [useA o, useB o] 2 false
    [(.pred cl (field o.dst.toNat 0 4), fun _ => .pbits (predOf (4096 / w) (fun i => laneCond fc cond (lane a w i) (lane b w i))))]

/-- `vcmp` alone in its bundle. -/
def execVcmp (o : Fields) (s : State) : Out := .next (issueAlone o (0x14) (fun _ => planVcmp o) s)

/-- pand (R288). -/
def planPand (o : Fields) (s : State) : Plan :=
  predPlan s o (· &&& ·)

/-- `pand` alone in its bundle. -/
def execPand (o : Fields) (s : State) : Out := .next (issueAlone o (0x15) (fun _ => planPand o) s)

/-- por (R288). -/
def planPor (o : Fields) (s : State) : Plan :=
  predPlan s o (· ||| ·)

/-- `por` alone in its bundle. -/
def execPor (o : Fields) (s : State) : Out := .next (issueAlone o (0x16) (fun _ => planPor o) s)

/-- pxor (R288). -/
def planPxor (o : Fields) (s : State) : Plan :=
  predPlan s o (· ^^^ ·)

/-- `pxor` alone in its bundle. -/
def execPxor (o : Fields) (s : State) : Out := .next (issueAlone o (0x17) (fun _ => planPxor o) s)

/-- pnot (R288). -/
def planPnot (o : Fields) (s : State) : Plan :=
  let cl := vecCluster o
  vecPlan s (vecOk s o && noB o && o.dst.toNat < 16 && o.srca.toNat < 16) [] 1 false
    [(.pred cl o.dst.toNat, fun _ => .pbits (~~~(readPred (me s) cl o.srca.toNat)))]

/-- `pnot` alone in its bundle. -/
def execPnot (o : Fields) (s : State) : Out := .next (issueAlone o (0x18) (fun _ => planPnot o) s)

/-- pany (R288). -/
def planPany (o : Fields) (s : State) : Plan :=
  anyPlan s o (fun n p => (List.range n).any p.getLsbD)

/-- `pany` alone in its bundle. -/
def execPany (o : Fields) (s : State) : Out := .next (issueAlone o (0x24) (fun _ => planPany o) s)

/-- pall (R288). -/
def planPall (o : Fields) (s : State) : Plan :=
  anyPlan s o (fun n p => (List.range n).all p.getLsbD)

/-- `pall` alone in its bundle. -/
def execPall (o : Fields) (s : State) : Out := .next (issueAlone o (0x25) (fun _ => planPall o) s)

/-! ### Reductions (R289) -/

/-- One level of the tree: neighbouring lanes are paired. -/
def pairUp (f : Nat → Nat → Nat) (us : List Nat) : List Nat :=
  match us with
  | [] => []
  | [x] => [x]
  | x :: y :: t => f x y :: pairUp f t

/-- The fixed binary tree over the lanes. -/
def reduceTree (f : Nat → Nat → Nat) (fuel : Nat) (us : List Nat) : Nat :=
  match fuel with
  | 0 => us.headD 0
  | k + 1 => match us with
    | [] => 0
    | [x] => x
    | _ => reduceTree f k (pairUp f us)

/-- A lane as the reduction widens it, and the format of the result (R289). -/
def wideType (fc : Nat) : Nat :=
  if isInt fc then (if fmtWidth fc = 64 then fc else if isSignedInt fc then 0x0E else 0x0F) else 1

def wideLane (fc code : Nat) : Nat := encodeNum (wideType fc) false (decodeNum fc code)

/-- Pair for `vrsum`. -/
def sumPair (fc x y : Nat) : Nat :=
  let t := wideType fc
  if t = 1 then fp32 (xadd false (decodeNum 1 x) (decodeNum 1 y)) else (x + y) % 2 ^ fmtWidth t

/-- Pair for `vrmin` and `vrmax` (R172). -/
def pickPair (greater : Bool) (fc x y : Nat) : Nat :=
  let t := wideType fc
  encodeNum t false ((if greater then xmax else xmin) (decodeNum t x) (decodeNum t y))

/-- A reduction: the result in the low bits, 0 elsewhere; 4 + log2 n cycles (R280, R289). -/
def reducePlan (s : State) (o : Fields) (f : Nat → Nat → Nat → Nat) : Plan :=
  let fc := etOf (me s) (vecCluster o)
  let w := fmtWidth fc
  let a := vrow s o o.srca.toNat
  rowPlan s o (noB o && (floatType fc || isInt fc)) [useA o] (4 + Nat.log2 (4096 / w)) false (fun _ =>
    BitVec.ofNat 4096 (reduceTree (f fc) 10 ((List.range (4096 / w)).map (fun i => wideLane fc (lane a w i)))))

/-- vrsum (R289). -/
def planVrsum (o : Fields) (s : State) : Plan :=
  reducePlan s o sumPair

/-- `vrsum` alone in its bundle. -/
def execVrsum (o : Fields) (s : State) : Out := .next (issueAlone o (0x19) (fun _ => planVrsum o) s)

/-- vrmax (R289). -/
def planVrmax (o : Fields) (s : State) : Plan :=
  reducePlan s o (pickPair true)

/-- `vrmax` alone in its bundle. -/
def execVrmax (o : Fields) (s : State) : Out := .next (issueAlone o (0x1A) (fun _ => planVrmax o) s)

/-- vrmin (R289). -/
def planVrmin (o : Fields) (s : State) : Plan :=
  reducePlan s o (pickPair false)

/-- `vrmin` alone in its bundle. -/
def execVrmin (o : Fields) (s : State) : Out := .next (issueAlone o (0x1B) (fun _ => planVrmin o) s)

/-! ### Permute, rotate, broadcast, cross-cluster copy (R290, R291) -/

/-- A move of lanes: lane i of the result is lane `f n i` of A. -/
def movePlan (s : State) (o : Fields) (ok : Bool) (us : List RowUse) (f : Nat → Nat → Nat) : Plan :=
  let w := etWidth (me s) (vecCluster o)
  let a := vrow s o o.srca.toNat
  rowPlan s o ok us 3 false (fun _ => mapLanes w (fun i => lane a w (f (4096 / w) i)))

/-- Lane 0 of row B. -/
def laneZero (s : State) (o : Fields) : Nat := lane (vrow s o o.srcb.toNat) (etWidth (me s) (vecCluster o)) 0

/-- IMM as an operand of form L. -/
def immValue (s : State) : Word := ((me s).imm).getD 0

/-- The lanes of the slot's cluster. -/
def laneCount (s : State) (o : Fields) : Nat := 4096 / etWidth (me s) (vecCluster o)

/-- vperm: a[b[i] mod n] (R290). -/
def planVperm (o : Fields) (s : State) : Plan :=
  let w := etWidth (me s) (vecCluster o)
  let b := vrow s o o.srcb.toNat
  movePlan s o true [useA o, useB o] (fun n i => lane b w i % n)

/-- `vperm` alone in its bundle. -/
def execVperm (o : Fields) (s : State) : Out := .next (issueAlone o (0x1C) (fun _ => planVperm o) s)

/-- vrot by lane 0 of row B (R290). -/
def planVrot (o : Fields) (s : State) : Plan :=
  movePlan s o true [useA o, useB o] (fun n i => (i + laneZero s o) % n)

/-- `vrot` alone in its bundle. -/
def execVrot (o : Fields) (s : State) : Out := .next (issueAlone o (0x1D) (fun _ => planVrot o) s)

/-- vrot by a short count (R290). -/
def planVrotI (o : Fields) (s : State) : Plan :=
  movePlan s o true [useA o] (fun n i => (((i : Int) + (shortSext o).toInt) % n).toNat)

/-- `vrotI` alone in its bundle. -/
def execVrotI (o : Fields) (s : State) : Out := .next (issueAlone o (0x63) (fun _ => planVrotI o) s)

/-- vrot by IMM (R290). -/
def planVrotL (o : Fields) (s : State) : Plan :=
  movePlan s o (noB o) [useA o] (fun n i => (i + (immValue s).toNat) % n)

/-- `vrotL` alone in its bundle. -/
def execVrotL (o : Fields) (s : State) : Out := .next (issueAlone o (0x68) (fun _ => planVrotL o) s)

/-- vbcast of the lane that lane 0 of row B names (R290). -/
def planVbcast (o : Fields) (s : State) : Plan :=
  movePlan s o true [useA o, useB o] (fun n _ => laneZero s o % n)

/-- `vbcast` alone in its bundle. -/
def execVbcast (o : Fields) (s : State) : Out := .next (issueAlone o (0x1E) (fun _ => planVbcast o) s)

/-- vbcast of a lane by a short number (R290). -/
def planVbcastI (o : Fields) (s : State) : Plan :=
  let j := (shortSext o).toInt
  movePlan s o (decide (0 ≤ j ∧ j < laneCount s o)) [useA o] (fun _ _ => j.toNat)

/-- `vbcastI` alone in its bundle. -/
def execVbcastI (o : Fields) (s : State) : Out := .next (issueAlone o (0x64) (fun _ => planVbcastI o) s)

/-- vbcast of a lane by IMM (R290). -/
def planVbcastL (o : Fields) (s : State) : Plan :=
  let j := (immValue s).toNat
  movePlan s o (noB o && decide (j < laneCount s o)) [useA o] (fun _ _ => j)

/-- `vbcastL` alone in its bundle. -/
def execVbcastL (o : Fields) (s : State) : Out := .next (issueAlone o (0x69) (fun _ => planVbcastL o) s)

/-- vxfer: a row into the other cluster, after one cycle (R291). -/
def planVxfer (o : Fields) (s : State) : Plan :=
  vecPlan s (vecOk s o && noB o) [useA o] 1 false
    [(.row (otherCluster (vecCluster o)) o.dst.toNat, fun _ => .row (vrow s o o.srca.toNat))]

/-- `vxfer` alone in its bundle. -/
def execVxfer (o : Fields) (s : State) : Out := .next (issueAlone o (0x1F) (fun _ => planVxfer o) s)

/-! ### Special functions (R292, R293) -/

/-- The cycle in which a request of n lanes that issues now has entered the unit: after those ahead of it (R293). -/
def sfuEntered (core : Core) (n : Nat) : Nat :=
  max core.cycle ((core.sfu.map (·.entered)).foldl max 0) + n / 32

/-- A request to the special-function unit marks its row empty and takes its place in the queue (R293). -/
def sfuPlan (s : State) (o : Fields) (f : Nat → XVal → Nat) : Plan :=
  let cl := vecCluster o
  let fc := etOf (me s) cl
  let w := fmtWidth fc
  let a := vrow s o o.srca.toNat
  let r := o.dst.toNat
  if !vecOk s o || !noB o || fc < 1 || 3 < fc then illegalPlan
  else {
    emptyTrap := rowTraps s [useA o]
    blocks := rowWaits s [useA o] [.row cl r]
    stop := rowStop s [useA o]
    dests := [.row cl r]
    effect := fun t =>
      let c := me t
      let t1 := setMe t (emptyRow c cl r)
      let core := coreOf t1 (myCore t1)
      setCore t1 (myCore t1) { core with sfu := core.sfu ++
        [{ cid := t1.cur, cl := cl, row := r, val := mapLanes w (fun i => f fc (decodeNum fc (lane a w i)))
           gen := if c.seg.isSome then some c.segGen else none, entered := sfuEntered core (4096 / w) }] } }

/-- vrcp (R292). -/
def planVrcp (o : Fields) (s : State) : Plan :=
  sfuPlan s o sfRcp

/-- `vrcp` alone in its bundle. -/
def execVrcp (o : Fields) (s : State) : Out := .next (issueAlone o (0x20) (fun _ => planVrcp o) s)

/-- vrsqrt (R292). -/
def planVrsqrt (o : Fields) (s : State) : Plan :=
  sfuPlan s o sfRsqrt

/-- `vrsqrt` alone in its bundle. -/
def execVrsqrt (o : Fields) (s : State) : Out := .next (issueAlone o (0x21) (fun _ => planVrsqrt o) s)

/-- vexp2 (R292). -/
def planVexp2 (o : Fields) (s : State) : Plan :=
  sfuPlan s o sfExp2

/-- `vexp2` alone in its bundle. -/
def execVexp2 (o : Fields) (s : State) : Out := .next (issueAlone o (0x22) (fun _ => planVexp2 o) s)

/-- vlog2 (R292). -/
def planVlog2 (o : Fields) (s : State) : Plan :=
  sfuPlan s o sfLog2

/-- `vlog2` alone in its bundle. -/
def execVlog2 (o : Fields) (s : State) : Out := .next (issueAlone o (0x23) (fun _ => planVlog2 o) s)

/-- A result of the unit fills its row, of a context or of an image (R293, R403, R413). -/
def fillSfu (s : State) (q : SfuReq) : State := if stale s q.cid q.gen then s else arriveRow s q.cid q.gen q.cl q.row q.val

/-- The requests of a core's unit that a test picks are over: their results fill their rows in the order of the queue. -/
def endSfu (s : State) (core : Nat) (p : SfuReq → Bool) : State :=
  let k := coreOf s core
  (k.sfu.filter p).foldl fillSfu (setCore s core { k with sfu := k.sfu.filter (fun q => !p q) })

/-- The results that are due by a core's present cycle have filled their rows (R293). -/
def landSfu (s : State) (core : Nat) : State := endSfu s core (fun q => q.entered + 8 ≤ (coreOf s core).cycle)

/-- SFU_RESULT: the oldest request of a core's unit fills its row, 8 cycles after its last lanes have entered (R293,
R413). -/
def execSfuResult (core : Nat) (s : State) : Out :=
  match (coreOf s core).sfu with
  | [] => .next s
  | q :: rest =>
    if (coreOf s core).cycle < q.entered + 8 then .next s
    else
      let s1 := setCore s core { coreOf s core with sfu := rest }
      .next (fillSfu s1 q)

/-! ### Conversions (R294, R295) -/

/-- The effective mode of a mode field: 5 stands for RMODE.MODE (R159, R294). -/
def effMode (c : Ctx) (m : Nat) : Nat := if m = 5 then rmode c else m

/-- The draw of a lane: used under SR only. -/
def laneDraw (c : Ctx) (mode n i : Nat) : Nat := if mode = 4 then drawOf c (drawAt c n) i 0 else 0

/-- A conversion of Min(ns, nt) lanes, 0 above them; it draws whatever its mode (R168, R295). -/
def convertPlan (n : Nat) (s : State) (o : Fields) (m : Nat) (sat : Bool) : Plan :=
  let c := me s
  let fc := etOf c (vecCluster o)
  let t := shortK o
  let a := vrow s o o.srca.toNat
  let mode := effMode c m
  let k := min (4096 / fmtWidth fc) (4096 / fmtWidth t)
  rowPlan s o (clusterType t && !(fc == 9 && isInt t) && decide (m < 6)) [useA o] 4 true (fun _ =>
    rowOfLanes (fmtWidth t) ((List.range k).map (fun i =>
      convertNum fc t mode (laneDraw c mode n i) sat (lane a (fmtWidth fc) i))))

/-- vcvt: sat from RMODE.OVF (R295). -/
def planVcvt (n : Nat) (m : BitVec 3) (o : Fields) (s : State) : Plan := convertPlan n s o m.toNat (rovf (me s))

/-- `vcvt` alone in its bundle. -/
def execVcvt (m : BitVec 3) (o : Fields) (s : State) : Out :=
  .next (issueAlone o (0x40 + m.toNat) (fun n => planVcvt n m o) s)

/-- vcvt.sat (R295). -/
def planVcvtSat (n : Nat) (m : BitVec 3) (o : Fields) (s : State) : Plan := convertPlan n s o m.toNat true

/-- `vcvtSat` alone in its bundle. -/
def execVcvtSat (m : BitVec 3) (o : Fields) (s : State) : Out :=
  .next (issueAlone o (0x48 + m.toNat) (fun n => planVcvtSat n m o) s)

/-! ### MX blocks (R296 to R298) -/

/-- Element codes packed as R111 and R296 give. -/
def packMx (fc : Nat) (cs : List Nat) : Row := rowOfLanes (if fc = 6 then 4 else 8) cs

/-- Element k of a packed row. -/
def mxElement (fc : Nat) (row : Row) (k : Nat) : Nat := if fc = 6 then lane row 4 k else lane row 8 k % 64

/-- The blocks of a row, each quantised. -/
def mxBlocks (c : Ctx) (n fc f mode : Nat) (a : Row) : List (Nat × List Nat) :=
  let w := fmtWidth fc
  (List.range (4096 / w / 32)).map (fun b =>
    mxQuant f mode (fun k => laneDraw c mode n (32 * b + k))
      ((List.range 32).map (fun k => decodeNum fc (lane a w (32 * b + k)))))

/-- The K field names an MX element format. -/
def mxK (o : Fields) : Bool := 6 ≤ shortK o && shortK o ≤ 8

/-- vmxq: a row into a pair of codes and scales, after 8 cycles (R297). -/
def planVmxq (n : Nat) (m : BitVec 3) (o : Fields) (s : State) : Plan := 
  let c := me s
  let cl := vecCluster o
  let fc := etOf c cl
  let f := shortK o
  let a := vrow s o o.srca.toNat
  let blocks := fun (_ : Unit) => mxBlocks c n fc f (effMode c m.toNat) a
  let d := o.dst.toNat
  vecPlan s (vecOk s o && mxK o && d % 2 == 0 && floatType fc && decide (m.toNat < 6)) [useA o] 8 true
    [(.row cl d, fun u => .row (packMx f ((blocks u).flatMap (·.2)))),
     (.row cl (d + 1), fun u => .second (rowOfLanes 8 ((blocks u).map (·.1))))]

/-- `vmxq` alone in its bundle. -/
def execVmxq (m : BitVec 3) (o : Fields) (s : State) : Out :=
  .next (issueAlone o (0x50 + m.toNat) (fun n => planVmxq n m o) s)

/-- vmxd: a pair of codes and scales into the cluster type, after 6 cycles (R298). -/
def planVmxd (n : Nat) (m : BitVec 3) (o : Fields) (s : State) : Plan := 
  let c := me s
  let cl := vecCluster o
  let fc := etOf c cl
  let f := shortK o
  let r := o.srca.toNat
  let mode := effMode c m.toNat
  let el := vrow s o r
  let sc := vrow s o (r + 1)
  rowPlan s o (mxK o && r % 2 == 0 && floatType fc && decide (m.toNat < 6))
    [useA o, { useA o with r := r + 1 }] 6 true (fun _ => mapLanes (fmtWidth fc) (fun k =>
      roundEncode fc mode (laneDraw c mode n k) (rovf c) (mxValue f (lane sc 8 (k / 32)) (mxElement f el k))))

/-- `vmxd` alone in its bundle. -/
def execVmxd (m : BitVec 3) (o : Fields) (s : State) : Out :=
  .next (issueAlone o (0x58 + m.toNat) (fun n => planVmxd n m o) s)

/-- vtype: ETX in VX, ETY in VY (R277). -/
def planVtype (o : Fields) (s : State) : Plan :=
  let index := if vecCluster o = .x then 0x02 else 0x03
  vecPlan s (vecOk s o && o.dst == 0 && noA o && clusterType (shortK o)) [] 1 false
    [(.kspace index, fun _ => .word (BitVec.ofNat 64 (shortK o)) 0)]

/-- `vtype` alone in its bundle. -/
def execVtype (o : Fields) (s : State) : Out := .next (issueAlone o (0x66) (fun _ => planVtype o) s)

end Sys2Proof.Machine
end

