-- ==== Sys2Proof/Machine/Pred.lean ====
section
/-! DEFINITION. The probability predicates: softened compares, product rules, constants and lineage, copies,
blends, collapses and gradients (R91 to R108, R301 to R309). -/

namespace Sys2Proof.Machine

/-! ### What every entry shares (R301) -/

/-- The lanes a q entry works on (R93). -/
def qLanes (s : State) (o : Fields) : Nat := 4096 / etWidth (me s) (vecCluster o)

/-- The cluster types of the q entries: fp32, bf16, fp16 and the integers of 16 bits and more. -/
def qType (fc : Nat) : Bool := (1 ≤ fc && fc ≤ 3) || (isInt fc && 16 ≤ fmtWidth fc)

/-- A q entry may stand here: slot, core and cluster type. -/
def qOk (s : State) (o : Fields) : Bool := vecOk s o && qType (etOf (me s) (vecCluster o))

/-- A q or p source in SRCA: index below the bound, BT 0. -/
def idxA (o : Fields) (n : Nat) : Bool := decide (o.srca.toNat < n) && !o.bta

/-- The same in SRCB. -/
def idxB (o : Fields) (n : Nat) : Bool := decide (o.srcb.toNat < n) && !o.btb

/-- A q register of the slot's cluster. -/
def qreg (s : State) (o : Fields) (k : Nat) : QReg := readQ (me s) (vecCluster o) k

/-- The clamped code of lane i (R92). -/
def qcode (q : QReg) (i : Nat) : Nat := min (lane q.codes 16 i) 0x8000

/-- Some code among the n lanes worked is not canonical. -/
def qClamps (n : Nat) (q : QReg) : Bool := (List.range n).any (fun i => decide (0x8000 < lane q.codes 16 i))

/-- Codes of n lanes, 0 beyond them. -/
def qRow (n : Nat) (f : Nat → Nat) : Row := rowOfLanes 16 ((List.range n).map f)

/-- A plan of a q entry: the rows and q registers it reads, its result, and the QSTAT changes that land with it
(R97, R302). -/
def qPlan (s : State) (ok : Bool) (us : List RowUse) (qs : List QReg) (n lat : Nat) (out : Dest) (val : Unit → Payload)
    (overlap : Bool := false) : Plan :=
  if !ok then illegalPlan
  else {
    emptyTrap := rowTraps s us
    blocks := rowWaits s us [out]
    stop := rowStop s us
    dests := [out]
    qdep := overlap && (kget (me s) 0x09).getLsbD 1
    effect := fun t =>
      let t1 := sendResult t (inFlightAfter t lat out (val ()))
      let flags := (if overlap then 1 else 0) + (if qs.any (qClamps n) then 4 else 0)
      if flags = 0 then t1
      else sendResult t1 (inFlightAfter t1 lat (.kspace 0x0A) (.qstat (BitVec.ofNat 64 flags) (if overlap then 1 else 0))) }

/-- A result in a q register of the slot's cluster. -/
def qOut (o : Fields) : Dest := .qreg (vecCluster o) o.dst.toNat

/-! ### Softened compares (R98, R303) -/

/-- QSOFT.T as a number (R95). -/
def qsoft (c : Ctx) : XVal := decodeNum 1 (field (kget c 0x08).toNat 0 32)

/-- x divided by a positive number. -/
def xdivPos (x t : XVal) : XVal :=
  match x, t with
  | .fin s n d, .fin _ tn td => .fin s (n * td) (d * tn)
  | .inf s, .fin .. => .inf s
  | _, _ => .nan

/-- The code of one lane: 0 lt, 1 le, 2 gt, 3 ge. Round has an unbounded range upward (R98, R160). -/
def softCompare (fc cond : Nat) (t : XVal) (a b : Nat) : Nat :=
  let x := decodeNum fc a
  let y := decodeNum fc b
  if xisNan x || xisNan y then 0
  else if xisZero t then (if laneCond fc (cond + 2) a b then 0x8000 else 0)
  else
    let d := roundTo 1 0 0 (if cond < 2 then xadd false y (xneg x) else xadd false x (xneg y))
    if xisNan d then 0 else knot (roundTo 1 0 0 (xdivPos d t))

/-- qcmp: a code for each lane; LIN is the single bit L, DST[5:3] (R98, R303). -/
def planQcmp (cond : BitVec 2) (o : Fields) (s : State) : Plan :=
  let cl := vecCluster o
  let fc := etOf (me s) cl
  let w := fmtWidth fc
  let a := vrow s o o.srca.toNat
  let b := vrow s o o.srcb.toNat
  let n := qLanes s o
  qPlan s (qOk s o && !o.dst.getLsbD 6) [useA o, useB o] [] n 6 (.qreg cl (field o.dst.toNat 0 3)) (fun _ =>
    .q (some (qRow n (fun i => softCompare fc cond.toNat (qsoft (me s)) (lane a w i) (lane b w i))))
      (BitVec.ofNat 8 (2 ^ field o.dst.toNat 3 3)))

/-- `qcmp` alone in its bundle. -/
def execQcmp (cond : BitVec 2) (o : Fields) (s : State) : Out := .next (issueAlone o (0x28 + cond.toNat) (fun _ => planQcmp cond o) s)

/-! ### Product rules, constants, lineage (R99, R100, R304) -/

/-- Two q registers combined; overlapping lineages are noted (R100). -/
def qBinary (s : State) (o : Fields) (f : Nat → Nat → Nat) : Plan :=
  let a := qreg s o o.srca.toNat
  let b := qreg s o o.srcb.toNat
  let n := qLanes s o
  qPlan s (qOk s o && decide (o.dst.toNat < 8) && idxA o 8 && idxB o 8) [] [a, b] n 1 (qOut o) (fun _ =>
    .q (some (qRow n (fun i => f (qcode a i) (qcode b i)))) (a.lin ||| b.lin)) (a.lin &&& b.lin != 0)

/-- The product of two codes. -/
def qProduct (a b : Nat) : Nat := roundHalfEven (a * b) 32768

/-- A constant in every lane worked. -/
def qConstant (s : State) (o : Fields) (ok : Bool) (code : Nat) : Plan :=
  let n := qLanes s o
  qPlan s (qOk s o && decide (o.dst.toNat < 8) && noA o && ok && decide (code ≤ 0x8000)) [] [] n 1 (qOut o) (fun _ =>
    .q (some (qRow n (fun _ => code))) 0)

/-- qand (R99, R304). -/
def planQand (o : Fields) (s : State) : Plan :=
  qBinary s o qProduct

/-- `qand` alone in its bundle. -/
def execQand (o : Fields) (s : State) : Out := .next (issueAlone o (0x2C) (fun _ => planQand o) s)

/-- qor (R99, R304). -/
def planQor (o : Fields) (s : State) : Plan :=
  qBinary s o (fun a b => a + b - qProduct a b)

/-- `qor` alone in its bundle. -/
def execQor (o : Fields) (s : State) : Out := .next (issueAlone o (0x2D) (fun _ => planQor o) s)

/-- qnot: the complement, with the lineage of its source (R99, R100, R304). -/
def planQnot (o : Fields) (s : State) : Plan :=
  let a := qreg s o o.srca.toNat
  let n := qLanes s o
  qPlan s (qOk s o && decide (o.dst.toNat < 8) && idxA o 8 && noB o) [] [a] n 1 (qOut o) (fun _ =>
    .q (some (qRow n (fun i => 0x8000 - qcode a i))) a.lin)

/-- `qnot` alone in its bundle. -/
def execQnot (o : Fields) (s : State) : Out := .next (issueAlone o (0x2E) (fun _ => planQnot o) s)

/-- qfromp: one where the p bit is 1 (R103, R304). -/
def planQfromp (o : Fields) (s : State) : Plan :=
  let p := readPred (me s) (vecCluster o) o.srca.toNat
  let n := qLanes s o
  qPlan s (qOk s o && decide (o.dst.toNat < 8) && idxA o 16 && noB o) [] [] n 1 (qOut o) (fun _ =>
    .q (some (qRow n (fun i => if p.getLsbD i then 0x8000 else 0))) 0)

/-- `qfromp` alone in its bundle. -/
def execQfromp (o : Fields) (s : State) : Out := .next (issueAlone o (0x2F) (fun _ => planQfromp o) s)

/-- qconst of a multiple of 256 (R304). -/
def planQconst (o : Fields) (s : State) : Plan :=
  qConstant s o true (256 * shortK o)

/-- `qconst` alone in its bundle. -/
def execQconst (o : Fields) (s : State) : Out := .next (issueAlone o (0x65) (fun _ => planQconst o) s)

/-- qconst of a code in IMM (R304). -/
def planQconstL (o : Fields) (s : State) : Plan :=
  qConstant s o (noB o) (immValue s).toNat

/-- `qconst` alone in its bundle. -/
def execQconstL (o : Fields) (s : State) : Out := .next (issueAlone o (0x6A) (fun _ => planQconstL o) s)

/-- qlin: a lineage mask, the codes unchanged (R100, R304). -/
def planQlin (o : Fields) (s : State) : Plan :=
  qPlan s (qOk s o && decide (o.dst.toNat < 8) && noA o) [] [] 0 1 (qOut o) (fun _ =>
    .q none (BitVec.ofNat 8 (shortK o)))

/-- `qlin` alone in its bundle. -/
def execQlin (o : Fields) (s : State) : Out := .next (issueAlone o (0x67) (fun _ => planQlin o) s)

/-! ### Copies (R305) -/

/-- qmov within the cluster: clamped codes and the lineage (R100, R305). -/
def planQmov (o : Fields) (s : State) : Plan :=
  let a := qreg s o o.srca.toNat
  let n := qLanes s o
  qPlan s (qOk s o && decide (o.dst.toNat < 8) && idxA o 8 && noB o) [] [a] n 1 (qOut o) (fun _ =>
    .q (some (qRow n (qcode a))) a.lin)

/-- `qmov` alone in its bundle. -/
def execQmov (o : Fields) (s : State) : Out := .next (issueAlone o (0x33) (fun _ => planQmov o) s)

/-- qmov into the other cluster, DST[3] = 1 (R305). -/
def planQmovCross (o : Fields) (s : State) : Plan :=
  let a := qreg s o o.srca.toNat
  let n := qLanes s o
  qPlan s (qOk s o && o.dst.toNat / 8 == 1 && idxA o 8 && noB o) [] [a] n 1
    (.qreg (otherCluster (vecCluster o)) (o.dst.toNat % 8)) (fun _ => .q (some (qRow n (qcode a))) a.lin)

/-- `qmov` alone in its bundle. -/
def execQmovCross (o : Fields) (s : State) : Out := .next (issueAlone o (0x33) (fun _ => planQmovCross o) s)

/-- qmov from a row: codes as they stand, LIN 0 (R92, R305). -/
def planQmovFromRow (o : Fields) (s : State) : Plan :=
  let a := vrow s o o.srca.toNat
  let n := qLanes s o
  qPlan s (qOk s o && decide (o.dst.toNat < 8) && noB o) [useA o] [] n 1 (qOut o) (fun _ => .q (some (qRow n (lane a 16))) 0)

/-- `qmov` alone in its bundle. -/
def execQmovFromRow (o : Fields) (s : State) : Out := .next (issueAlone o (0x34) (fun _ => planQmovFromRow o) s)

/-- qmov to a row: stored codes, unclamped (R305). -/
def planQmovToRow (o : Fields) (s : State) : Plan :=
  let a := qreg s o o.srca.toNat
  let n := qLanes s o
  qPlan s (qOk s o && idxA o 8 && noB o) [] [] n 2 (.row (vecCluster o) o.dst.toNat) (fun _ => .row (qRow n (lane a.codes 16)))

/-- `qmov` alone in its bundle. -/
def execQmovToRow (o : Fields) (s : State) : Out := .next (issueAlone o (0x35) (fun _ => planQmovToRow o) s)

/-! ### Blend, collapse, gradients (R101, R102, R104, R306 to R308) -/

/-- A blend of one lane (R101). -/
def blendLane (fc q a b : Nat) : Nat :=
  if q = 0x8000 then a
  else if q = 0 then b
  else
    let x := xmul (.fin false q 32768) (decodeNum fc a)
    let y := xmul (.fin false (32768 - q) 32768) (decodeNum fc b)
    roundEncode fc 0 0 false (xadd false x y)

/-- The gradient of a soft compare in one lane (R104, R308). -/
def softGrad (fc : Nat) (t : XVal) (ste : Bool) (q g : Nat) : Nat :=
  if xisZero t then (if ste then g else 0)
  else
    let x := decodeNum fc g
    if xisNan x then encodeNum fc false .nan
    else if q = 0 || q = 0x8000 then signBit fc (xsign x)
    else roundEncode fc 0 0 false (xdivPos (xmul x (.fin false (q * (32768 - q)) (2 ^ 30))) t)

/-- vblend.q: both rows in proportion; no draw, RMODE not read (R101, R306). -/
def planVblendQ (k : BitVec 3) (o : Fields) (s : State) : Plan :=
  let fc := etOf (me s) (vecCluster o)
  let w := fmtWidth fc
  let a := vrow s o o.srca.toNat
  let b := vrow s o o.srcb.toNat
  let q := qreg s o k.toNat
  qPlan s (qOk s o) [useA o, useB o] [q] (qLanes s o) 4 (.row (vecCluster o) o.dst.toNat) (fun _ =>
    .row (mapLanes w (fun i => blendLane fc (qcode q i) (lane a w i) (lane b w i))))

/-- `vblend.q` alone in its bundle. -/
def execVblendQ (k : BitVec 3) (o : Fields) (s : State) : Out := .next (issueAlone o (0x38 + k.toNat) (fun _ => planVblendQ k o) s)

/-- qcol: bit i is 1 where a 15-bit draw lies below the code (R102, R307). -/
def planQcol (n : Nat) (o : Fields) (s : State) : Plan :=
  let q := qreg s o o.srca.toNat
  let c := me s
  let w := qLanes s o
  let p := qPlan s (qOk s o && decide (o.dst.toNat < 16) && idxA o 8 && noB o) [] [q] w 3 (.pred (vecCluster o) o.dst.toNat)
    (fun _ => .pbits (predOf w (fun i => decide (field (drawOf c (drawAt c n) i 0) 17 15 < qcode q i))))
  { p with draws := p.illegal.isNone }

/-- `qcol` alone in its bundle. -/
def execQcol (o : Fields) (s : State) : Out := .next (issueAlone o (0x30) (fun n => planQcol n o) s)

/-- qgcmp: the gradient of a compare (R104, R308). -/
def planQgcmp (o : Fields) (s : State) : Plan :=
  let c := me s
  let fc := etOf c (vecCluster o)
  let w := fmtWidth fc
  let q := qreg s o o.srca.toNat
  let g := vrow s o o.srcb.toNat
  qPlan s (qOk s o && decide (fc ≤ 3) && idxA o 8) [useB o] [q] (qLanes s o) 6 (.row (vecCluster o) o.dst.toNat) (fun _ =>
    .row (mapLanes w (fun i => softGrad fc (qsoft c) ((kget c 0x09).getLsbD 0) (qcode q i) (lane g w i))))

/-- `qgcmp` alone in its bundle. -/
def execQgcmp (o : Fields) (s : State) : Out := .next (issueAlone o (0x31) (fun _ => planQgcmp o) s)

/-- qgblend: the gradient of a blend; DST is read as g (R104, R308). -/
def planQgblend (o : Fields) (s : State) : Plan :=
  let fc := etOf (me s) (vecCluster o)
  let w := fmtWidth fc
  let a := vrow s o o.srca.toNat
  let b := vrow s o o.srcb.toNat
  let g := vrow s o o.dst.toNat
  qPlan s (qOk s o && decide (fc ≤ 3)) [useA o, useB o, useD o] [] (qLanes s o) 6 (.row (vecCluster o) o.dst.toNat) (fun _ =>
    .row (mapLanes w (fun i =>
      roundEncode fc 0 0 false
        (xmul (xadd false (decodeNum fc (lane a w i)) (xneg (decodeNum fc (lane b w i)))) (decodeNum fc (lane g w i))))))

/-- `qgblend` alone in its bundle. -/
def execQgblend (o : Fields) (s : State) : Out := .next (issueAlone o (0x32) (fun _ => planQgblend o) s)

end Sys2Proof.Machine
end

