-- ==== Sys2Proof/Machine/MatrixSlot.lean ====
section
/-! DEFINITION. The matrix slot: parameter registers, tile headers, calls of routines, engine status (R310 to
R315). -/

namespace Sys2Proof.Machine

/-- The matrix slot, on a matrix core (R202). -/
def mxOk (s : State) (o : Fields) : Bool := slotOk s o [.mx]

/-! ### mset (R311) -/

def msetPlan (o : Fields) (s : State) (ok : Bool) (v : Word) : Plan :=
  let k := o.dst.toNat
  if !mxOk s o || 8 ≤ k || !noA o || !ok then illegalPlan
  else {
    dests := [.mreg k]
    effect := fun t => sendResult t (inFlightAfter t 1 (.mreg k) (.word v 0)) }

/-- mset of a short value. -/
def planMset (o : Fields) (s : State) : Plan := msetPlan o s true (shortSext o)

/-- `mset` alone in its bundle. -/
def execMset (o : Fields) (s : State) : Out := .next (issueAlone o 0x02 (fun _ => planMset o) s)

/-- mset of IMM. -/
def planMsetL (o : Fields) (s : State) : Plan := msetPlan o s (noB o) (immValue s)

/-- `mset` alone in its bundle. -/
def execMsetL (o : Fields) (s : State) : Out := .next (issueAlone o 0x03 (fun _ => planMsetL o) s)

/-! ### mtile (R312) -/

/-- The bits of a header word that `mtile` may set, and its FMT codes (R154). -/
def mtileHdrOk (h : Word) : Bool := h &&& ~~~(0xFFFE : Word) == 0 && (hFmt h < 18 || hFmt h == 31)

/-- mtile: LAYOUT, TRANS, FMT and SWZ of a slot, at issue. -/
def planMtile (o : Fields) (s : State) : Plan :=
  let k := o.srca.toNat
  let v := (readM (me s) k).toNat
  let h := immValue s
  if !mxOk s o || o.dst != 0 || !noB o || 8 ≤ k || 192 ≤ v || !mtileHdrOk h then illegalPlan
  else {
    blocks := slotWaits s v o.bta
    stop := slotStop s (16384 * v) o.bta
    effect := fun t =>
      let core := coreOf t (myCore t)
      setCore t (myCore t) { core with
        heads := fset core.heads v (withShape (headOf core v) (hLayout h) (hTrans h) (hFmt h) (hSwz h)) } }

/-- `mtile` alone in its bundle. -/
def execMtile (o : Fields) (s : State) : Out := .next (issueAlone o 0x04 (fun _ => planMtile o) s)

/-! ### mcall (R116 to R118, R313) -/

/-- Slots that an operand of 128 rows takes in a format (R111). -/
def operandSlots (fc : Nat) : Nat := if fc = 2 || fc = 3 || fc = 7 || fc = 8 then 2 else 1

/-- Slots that a drain to a format fills (R119). -/
def drainSlots (fc : Nat) : Nat := max 1 (fmtWidth fc / 8)

/-- The slots of a directly named operand. -/
def direct (so : BitVec 8) (n : Nat) : List TileRef :=
  if so.toNat < 192 then (List.range n).map (fun i => .slot (so.toNat + i)) else []

/-- Slots of an `act`'s rows: rows of 256 bytes reach the second slot from row 64 on, where an index register moves them, or
where the header transposes them (R111, R125; log 40). -/
def actSlots (core : Core) (slot fc last ix : Nat) : Nat :=
  if operandSlots fc = 2 && (ix != 0 || decide (63 < last) || hTrans (headOf core slot)) then 2 else 1

/-- The tiles that a micro-op names (R313). -/
def uopTiles (core : Core) (i : Instr) : List TileRef :=
  match i with
  | .wld wslot wfc sslot _ _ _ => direct wslot (operandSlots wfc.toNat) ++ direct sslot 1
  | .act aslot afc acc _ _ nr srow0 ix scslot _ =>
    direct aslot (actSlots core aslot.toNat afc.toNat (srow0.toNat + nr.toNat) ix.toNat) ++ direct scslot 1 ++ [.acc acc]
  | .drn src dkind dacc dslot dfc _ _ _ _ _ _ =>
    [.acc src] ++ (if dkind = 0 then [.acc dacc] else direct dslot (drainSlots dfc.toNat))
  | .cks write cacc _ racc _ => if write then [.acc cacc, .acc racc] else []
  | _ => []

/-- The micro-op at an address of a core's store (R116); an unwritten one is `mnop`. -/
def uopAt (core : Core) (k : Nat) : Instr := (decodeUop (fget core.uops k 0)).getD .mnop

/-- The micro-ops of a routine. -/
def uopsOf (core : Core) (start len : Nat) : List Instr := (List.range len).map (fun i => uopAt core (start + i))

/-- The eight bytes of a parameter register (R310). -/
def paramBytes (v : Word) : List Nat := (List.range 8).map (fun i => field v.toNat (8 * i) 8)

/-- A routine-table entry: first micro-op and length (R205). -/
def rtabEntry (core : Core) (k : Nat) : Option (Nat × Nat) :=
  let e := (fget core.rtab k 0).toNat
  if bitAt e 21 then some (field e 0 10, field e 10 11) else none

/-- The tile set of a routine under the copies of m0 and m1. -/
def tileSet (core : Core) (start len : Nat) (m0 m1 : Word) : List TileRef :=
  ((uopsOf core start len).flatMap (uopTiles core)
    ++ (paramBytes m0 ++ paramBytes m1).filterMap (fun v => if v = 0 then none else some (TileRef.slot (v - 1)))).eraseDups

/-- The slots among tiles. -/
def slotsIn (ts : List TileRef) : List Nat := ts.filterMap (fun t => match t with | .slot k => some k | .acc _ => none)

/-- A tile that another engine than the matrix engine holds. -/
def heldElsewhere (s : State) (t : TileRef) : Bool :=
  let w := tileOwner s s.cur t
  w == .copy || w == .channel

/-- The tile-access traps of a call: a slot not allocated to the task, or a tile of the copy engine with BTA 1. -/
def callStop (s : State) (ts : List TileRef) (bt : Bool) : Option Stop :=
  let core := coreOf s (myCore s)
  match (slotsIn ts).find? (fun k => !allocatedTo core (s.cur % 4) k) with
  | some k => some (.trap { cause := 5, qual := 0, addr := BitVec.ofNat 64 (16384 * k) })
  | none => if bt && ts.any (heldElsewhere s) then some (.trap { cause := 5, qual := 1 }) else none

/-- A full queue, or the context's bound (R43, R315). -/
def queueFull (s : State) : Bool :=
  let core := coreOf s (myCore s)
  decide (Config.matrixQueueDepth ≤ core.mqueue.length + core.cuts.length + (if core.run.isSome then 1 else 0))
    || decide ((me s).arch.mbound ≤ (routinesOf s s.cur).length)

/-- The queue entry takes its place and its tiles. -/
def queueRoutine (t : State) (r : Routine) : State :=
  let t1 := giveTiles t t.cur r.tiles .matrix
  let core := coreOf t1 (myCore t1)
  setCore t1 (myCore t1) { core with mqueue := core.mqueue ++ [{ r with waits := (me t1).seg.isSome, num := core.issued }], issued := core.issued + 1 }

/-- A call of a routine by its index. -/
def callPlan (o : Fields) (s : State) (ok : Bool) (index : Nat) : Plan :=
  let c := me s
  let core := coreOf s (myCore s)
  let params := (List.range 8).map (readM c)
  if !mxOk s o || !ok || o.dst != 0 || 64 ≤ index
      || (paramBytes (readM c 0) ++ paramBytes (readM c 1)).any (fun v => 192 < v) then illegalPlan
  else match rtabEntry core index with
    | none => illegalPlan
    | some (start, len) =>
      let ts := tileSet core start len (readM c 0) (readM c 1)
      { blocks := (if queueFull s then [.matrixQueue] else [])
          ++ (if o.bta then [] else (ts.filter (heldElsewhere s)).map Reason.tile)
        stop := callStop s ts o.bta
        effect := fun t => queueRoutine t
          { cid := t.cur, start := start, len := len, mcopy := params, mode := rmode c, tiles := ts } }

/-- mcall of a routine number. -/
def planMcall (o : Fields) (s : State) : Plan := callPlan o s (o.srca == 0) (shortK o)

/-- `mcall` alone in its bundle. -/
def execMcall (o : Fields) (s : State) : Out := .next (issueAlone o 0x01 (fun _ => planMcall o) s)

/-- mcall of the routine that mK names. -/
def planMcallM (o : Fields) (s : State) : Plan :=
  callPlan o s (decide (o.srca.toNat < 8) && noB o) (readM (me s) o.srca.toNat).toNat

/-- `mcall` alone in its bundle. -/
def execMcallM (o : Fields) (s : State) : Out := .next (issueAlone o 0x07 (fun _ => planMcallM o) s)

/-! ### mstat and mbound (R132, R314, R315) -/

/-- The engine status word of a context (R132). -/
def statusWord (s : State) (cid : Nat) : Word :=
  let core := coreOf s (cid / 4)
  let c := ctxOf s cid
  BitVec.ofNat 64
    ((core.mqueue.filter (fun r => r.cid == cid) ++ (core.cuts.map (·.r)).filter (fun r => r.cid == cid)).length % 8
      + (match core.run with | some r => if r.r.cid = cid then 8 else 0 | none => 0)
      + c.ecause % 256 * 2 ^ 8 + (if c.iovf then 2 ^ 16 else 0) + min c.bhold (2 ^ 32 - 1) * 2 ^ 32)

/-- The value that a selector names. -/
def mstatValue (s : State) (cid sel : Nat) : Word :=
  let c := ctxOf s cid
  if sel = 1 then BitVec.ofNat 64 c.tileX.amax.toNat
  else if sel = 2 then BitVec.ofNat 64 c.tileY.amax.toNat
  else if sel = 3 then BitVec.ofNat 64 c.arch.mbound
  else statusWord s cid

def mstatPlan (o : Fields) (s : State) (ok : Bool) : Plan :=
  let code := o.dst.toNat
  if !mxOk s o || !noA o || !scalarDest code || !ok then illegalPlan
  else {
    blocks := destWaits s (.scalar code)
    dests := [.scalar code]
    effect := fun t => startPending t code (.mstat (shortK o)) }

/-- mstat of a selector 0 to 3: its destination is empty until the engine is sampled. -/
def planMstat (o : Fields) (s : State) : Plan := mstatPlan o s (decide (shortK o < 4))

/-- `mstat` alone in its bundle. -/
def execMstat (o : Fields) (s : State) : Out := .next (issueAlone o 0x05 (fun _ => planMstat o) s)

/-- mstat status.clr. -/
def planMstatStatusClr (o : Fields) (s : State) : Plan := mstatPlan o s (decide (shortK o = 0x40))

/-- `mstat status.clr` alone in its bundle. -/
def execMstatStatusClr (o : Fields) (s : State) : Out := .next (issueAlone o 0x05 (fun _ => planMstatStatusClr o) s)

/-- MSTAT_SAMPLE: the value fills the destination; `status.clr` then clears IOVF (R314). -/
def execMstatSample (id : Nat) (s : State) : Out :=
  match s.pends.find? (fun p => p.id == id) with
  | none => .next s
  | some p =>
    match p.kind with
    | .mstat sel =>
      if (coreOf s (p.cid / 4)).cycle < p.since + 3 then .next s else
      let s1 := { s with pends := s.pends.filter (fun q => q.id != id) }
      let s2 := if sel = 0x40 then setCtx s1 p.cid { ctxOf s1 p.cid with iovf := false } else s1
      if stale s p.cid p.gen then .next s2
      else .next (arriveScalar s2 p.cid p.gen p.code (mstatValue s p.cid sel))
    | _ => .next s

/-- mbound: the context's queue bound. -/
def planMbound (o : Fields) (s : State) : Plan :=
  let n := shortK o
  if !mxOk s o || !noA o || o.dst != 0 || n = 0 || 4 < n then illegalPlan
  else { effect := fun t => setMe t { me t with arch := { (me t).arch with mbound := n } } }

/-- `mbound` alone in its bundle. -/
def execMbound (o : Fields) (s : State) : Out := .next (issueAlone o 0x06 (fun _ => planMbound o) s)

end Sys2Proof.Machine
end

