-- ==== Sys2Proof/Machine/Superstep.lean ====
section
/-! DEFINITION. The step boundary of a step group on this package: arrival, decision, delivery, application,
commit, exclusion and sealing, the loss scale, the record ring and replay (R134 to R146, R436 to R438). -/

namespace Sys2Proof.Machine

/-! ### The record ring (R436, R437) -/

/-- The 40 bytes of a payload from the widths and values of its fields, in their order. -/
def ringPayload (fields : List (Nat × Nat)) : List Byte :=
  let bs := fields.flatMap (fun f => leBytes f.1 f.2)
  (bs ++ List.replicate (40 - bs.length) 0).take 40

/-- Bit k for each number k of a list. -/
def bitmap (ns : List Nat) : Nat := (ns.eraseDups.map (fun n => 2 ^ n)).foldl (· + ·) 0

/-- Write an entry; a full ring loses its oldest one. `fields` holds the widths in bytes and the values of the payload's fields. -/
def ringAppend (s : State) (kind sgid : Nat) (fields : List (Nat × Nat)) : State :=
  let e : RingEntry := { seq := s.ringSeq + 1, gts := s.gts, kind := kind, sgid := sgid, payload := ringPayload fields }
  let r := s.ring ++ [e]
  { s with ringSeq := s.ringSeq + 1, ring := r.drop (r.length - s.ringCap) }

/-! ### Groups -/

def setGroup (s : State) (g : StepGroup) : State := { s with groups := fset s.groups g.sgid g }

/-- The leader is the member with the lowest package number (R134). -/
def leaderOf (g : StepGroup) : Nat := g.members.foldl min (g.members.headD 0)

def isLeader (s : State) (g : StepGroup) : Bool := leaderOf g == s.pkg

/-- The other members. -/
def others (s : State) (g : StepGroup) : List Nat := g.members.filter (fun p => p != s.pkg)

/-- Send something to every other member. -/
def toOthers (s : State) (g : StepGroup) (m : Nat → Outgoing) : State :=
  { s with outbox := s.outbox ++ (others s g).map m }

/-- The indices of a launch's body tasks on this package; one that is skipped is awaited as the others are, and never arrives (log 87). -/
def bodyIndices (s : State) (launch : Nat) : List Nat :=
  s.nodes.filterMap (fun e =>
    match e.2.kind with
    | .code _ _ _ _ index _ _ true => if e.2.launch = launch then some index else none
    | _ => none)

/-- The indices of the launch's other tasks that have been placed: one that waits in the harbour is not awaited (log 87). -/
def extraIndices (s : State) (launch : Nat) : List Nat :=
  s.nodes.filterMap (fun e =>
    match e.2.kind, e.2.state with
    | .code _ _ _ _ _ _ _ false, .waiting => none
    | .code _ _ _ _ _ _ _ false, .ready => none
    | .code _ _ _ _ _ _ _ false, .unborn => none
    | .code _ _ _ _ _ _ _ false, .done => none
    | .code _ _ _ _ _ _ _ false, _ => if e.2.launch = launch then some (2 ^ 32 + e.1) else none
    | _, _ => none)

/-- The tasks of a launch on this package that its step group awaits. -/
def stepTasks (s : State) (launch : Nat) : List Nat := bodyIndices s launch ++ extraIndices s launch

/-- The contexts that hold a task of a step group. -/
def groupCids (s : State) (sgid : Nat) : List Nat :=
  (s.ctxs.filter (fun e => e.2.status != .free && e.2.task.any (fun t => t.sgid == some sgid))).map (·.1)

/-- The contexts with the saved ones. -/
def groupCtxs (s : State) (sgid : Nat) : List Ctx :=
  ((groupCids s sgid).map (ctxOf s)) ++ (s.saved.filter (fun e => e.2.ctx.task.any (fun t => t.sgid == some sgid))).map (·.2.ctx)

/-! ### Decision (R136, R142) -/

/-- A load of a pod-shared address by a context of the group has not returned; the header of a `jtab` counts, for its entry may
lie in a pod-shared plane. A copy does not: its later rows find the package sealed, and it takes the fault of that (log 87). -/
def sharedLoads (s : State) (sgid : Nat) : Bool :=
  s.loads.any (fun l => l.acc.shared == some sgid
    || (isTable l.use && ((ctxOf s l.cid).task.any (fun t => t.sgid == some sgid))))

/-- The hub seals this package: its tasks whose slack is open load no pod-shared address (R142). -/
def sealPackage (s : State) (g : StepGroup) : State :=
  let live := ((groupCtxs s g.sgid).map taskIndex ++ stepTasks s g.launch).eraseDups.filter (fun k => !g.ended.contains k)
  toOthers (setGroup s { g with closing := false, sealed := live, seals := g.seals ++ [s.pkg] }) g (fun _ => .sealed g.sgid)

/-- A member takes the decision: it discards what it has buffered from excluded packages (R137), and seals itself
where it is one of them, once its pod-shared loads have returned. -/
def takeDecision (s : State) (g : StepGroup) (rvote : Half) (excluded : List Nat) (skew : Bool) : State :=
  let gone := g.writes.filter (fun w => excluded.contains (packageOf w.source))
  let g1 := { g with
    decided := true, rvote := rvote, excluded := excluded, skewed := skew
    writes := g.writes.filter (fun w => !excluded.contains (packageOf w.source))
    stcexcl := g.stcexcl + gone.countP (fun w => !w.bytes.isEmpty) }
  let s1 := setGroup s g1
  if !excluded.contains s.pkg then s1
  else if sharedLoads s1 g.sgid then setGroup s1 { g1 with closing := true }
  else sealPackage s1 g1

/-- The packages that replay excludes from a step (R438). -/
def replayExcluded (g : StepGroup) : List Nat :=
  match g.replay with
  | none => []
  | some (_, es) => ((es.find? (fun e => e.1 == g.stepno.toNat)).map (·.2)).getD []

/-- The leader decides (R136): reduced vote over the packages not excluded, exclusion set. -/
def leaderDecides (s : State) (g : StepGroup) : State :=
  let excl := (g.excluded ++ replayExcluded g).eraseDups
  let rv := (g.arrivals.filter (fun a => !excl.contains a.1)).foldl (fun v a => v ||| a.2.1) 0
  let s1 := if excl.isEmpty then s else ringAppend s 2 g.sgid [(4, g.stepno.toNat), (36, bitmap excl)]
  takeDecision (toOthers s1 g (fun _ => .decision g.sgid rv excl g.skewed)) g rv excl g.skewed

/-- Every member's record of the step has come. -/
def allIn (g : StepGroup) : Bool := g.members.all (fun p => g.arrivals.any (fun a => a.1 == p))

/-- The group has no boundary left: every task of it has ended, and no write of the step is on its way (R336; log 101). -/
def stepsOver (g : StepGroup) : Bool := g.members.all g.gone.contains && g.arrivals.all (fun a => a.2.2.all (fun e => e.2 == 0))

/-- Once every member's record has come the leader decides, but for a step after the last one (R136; log 101). -/
def settleArrivals (s : State) (g : StepGroup) : State :=
  if g.decided || !allIn g then s
  else if stepsOver g then setGroup s { g with live := false }
  else if isLeader s g then leaderDecides s g else s

/-- A package's arrival record: every member notes the writes stated for it; the leader counts the arrival, starts
the skew timer at the first one, and decides when every member has arrived (R136, R141). -/
def noteArrival (s : State) (g : StepGroup) (pkg : Nat) (vote : Half) (counts : List (Nat × Nat)) : State :=
  let g1 := { g with
    stated := fset g.stated pkg (fget counts s.pkg 0)
    arrivals := g.arrivals ++ [(pkg, vote, counts)]
    skewFrom := if g.skewFrom.isNone && g.replay.isNone then some s.gts else g.skewFrom }
  settleArrivals (setGroup s g1) g1

/-! ### Arrival (R136) -/

/-- The vote of this package: what failed tasks left, and the VOTE of the tasks that have arrived. -/
def packageVote (s : State) (g : StepGroup) : Half :=
  ((groupCtxs s g.sgid).filter (fun c => g.arrived.contains (taskIndex c))).foldl
    (fun v c => v ||| (kget c 0x1A).setWidth 32) g.vote

/-- Every task of the launch on this package has arrived or ended. -/
def allArrived (s : State) (g : StepGroup) : Bool :=
  (stepTasks s g.launch).all (fun k => g.arrived.contains k || g.ended.contains k)

/-- The package arrives when its last task has: its record goes to the other members. -/
def checkArrival (s : State) (sgid : Nat) : State :=
  match fget? s.groups sgid with
  | none => s
  | some g =>
    if g.pkgArrived || (g.decided && g.excluded.contains s.pkg) || !allArrived s g || !g.live then s
    else
      let v := packageVote s g
      let g1 := { g with pkgArrived := true }
      noteArrival (toOthers (setGroup s g1) g (fun p => .arrival sgid p v g.sent)) g1 s.pkg v g.sent

/-- The task of the acting context arrives at the boundary. -/
def arriveTask (s : State) : State :=
  match groupOfCtx s (me s) with
  | none => s
  | some g => checkArrival (setGroup s { g with arrived := g.arrived ++ [taskIndex (me s)] }) g.sgid

/-- Every task of the launch here has ended, and no CODE node of it waits (log 101). -/
def packageGone (s : State) (g : StepGroup) : Bool :=
  (stepTasks s g.launch).all g.ended.contains
    && s.nodes.all (fun e => e.2.launch != g.launch || e.2.state == .done || (match e.2.kind with
      | .code _ _ _ _ _ _ _ false => g.ended.contains (2 ^ 32 + e.1)
      | .code _ _ _ _ index _ _ true => g.ended.contains index
      | _ => true))

/-- A member's tasks have all ended, or one has come after all: a group whose boundaries seemed over then goes on (log 101). -/
def noteOver (s : State) (g : StepGroup) (pkg : Nat) (ended : Bool) : State :=
  let g1 := if ended then { g with gone := (g.gone ++ [pkg]).eraseDups }
    else { g with gone := g.gone.filter (fun p => p != pkg), live := true }
  settleArrivals (setGroup s g1) g1

/-- This package's tasks of a step group have all ended: the other members learn of it. -/
def leaveSteps (s : State) (sgid : Nat) : State :=
  match fget? s.groups sgid with
  | none => s
  | some g =>
    if !g.live || g.gone.contains s.pkg || !packageGone s g then s
    else noteOver (toOthers s g (fun _ => .stepOver sgid true)) g s.pkg true

/-- A task of a launch comes to a package whose tasks have all ended. -/
def rejoinSteps (s : State) (launch : Nat) : State :=
  match s.groups.find? (fun e => e.2.launch == launch && e.2.gone.contains s.pkg) with
  | none => s
  | some (_, g) =>
    if packageGone s g then s else noteOver (toOthers s g (fun _ => .stepOver g.sgid false)) g s.pkg false

/-- Another member reports it. -/
def podStepOver (s : State) (sgid pkg : Nat) (ended : Bool) : State :=
  match fget? s.groups sgid with
  | none => s
  | some g => if pkg = s.pkg || !g.members.contains pkg then s else noteOver s g pkg ended

/-- A launch has ended here: its tasks that never ran count as those that have ended. -/
def endSteps (s : State) (launch : Nat) : State :=
  match s.groups.find? (fun e => e.2.live && e.2.launch == launch) with
  | none => s
  | some (_, g) => checkArrival (leaveSteps (setGroup s { g with ended := (g.ended ++ stepTasks s launch).eraseDups }) g.sgid) g.sgid

/-- A task of a stepped launch has ended: it counts as arrived from now on (R136); a failed one votes 1
(R405, R415). -/
def taskEnds (s : State) (sgid index : Nat) (failed : Bool) : State :=
  match fget? s.groups sgid with
  | none => s
  | some g =>
    checkArrival
      (leaveSteps (setGroup s { g with
        ended := g.ended ++ [index]
        sealed := g.sealed.filter (fun k => k != index)
        vote := if failed then g.vote ||| 1 else g.vote }) sgid) sgid

/-- A task that is saved has not arrived, unless its package's record has gone (R136, R252). -/
def taskLeaves (s : State) (sgid index : Nat) : State :=
  match fget? s.groups sgid with
  | none => s
  | some g => if g.pkgArrived then s else setGroup s { g with arrived := g.arrived.filter (fun k => k != index) }

/-! ### Application (R138, R139, R143) -/

/-- Where a deferred write lies on its owning package (R90). -/
inductive Landing where
  | gone
  | paged (k : PageKey)
  /-- frame address, descriptor, position bytes for each element -/
  | at (addr d step : Nat)
deriving DecidableEq, Repr

/-- Translate a deferred write at application. -/
def landing (s : State) (w : DWrite) : Landing :=
  let p := field w.va.toNat 60 4
  let pos := field w.va.toNat 0 60
  match lookupPage s .hub w.asid pos with
  | .found psize pse rpd =>
    let d := descOf rpd p
    let x := slotBits pse p
    let page := pos / Config.pageBytes psize * Config.pageBytes psize
    if !dEn d || !dShared d then .gone
    else if sState x = 2 then .paged { asid := w.asid, page := page, plane := p }
    else if sState x = 1 then
      .at (sFrame x + frameBitOff rpd p pos page / 8) d (if p = 0 then dBits d / 8 else width0 rpd * 2 ^ dGran d)
    else .gone
  | _ => .gone

/-- One write to one conflict unit. -/
structure UnitWrite where
  addr   : Nat
  /-- the first address of its element, or of its byte on plane 0; and which byte of the element at that address it is, where one
  address names several units -/
  va     : Word
  part   : Nat
  /-- the positions that one element covers, or one byte on plane 0 -/
  step   : Nat
  desc   : Nat
  source : Nat
  order  : Nat
  gts    : Nat
  bytes  : List Byte
deriving DecidableEq, Repr

/-- The bytes of a conflict unit (R138). -/
def unitSize (d : Nat) : Nat := if dRtype d = 0 then 1 else dBits d / 8

/-- The first position of the element, or of the byte on plane 0, that an address names. -/
def firstVa (va : Word) (step : Nat) : Word := va - BitVec.ofNat 64 (field va.toNat 0 60 % max 1 step)

/-- Cut a write into its conflict units. On plane 0 each byte has its address; elsewhere an address names an element, and the bytes
of one that is a unit by bytes are numbered (R57, R138, R436; log 91). -/
def unitWrites (w : DWrite) (addr d step : Nat) : List UnitWrite :=
  let k := unitSize d
  let first := field w.va.toNat 60 4 == 0
  let each := if first then k else step
  (List.range (w.bytes.length / k)).map (fun j =>
    { addr := addr + j * k
      va := firstVa w.va each + BitVec.ofNat 64 (if first then j * k else 8 * j * k / dBits d * step)
      part := if first then 0 else j * k % max 1 (dBits d / 8), step := each, desc := d, source := w.source
      order := w.order, gts := w.gts, bytes := (w.bytes.drop (j * k)).take k })

/-- The format of an RTYPE code (R54). -/
def rtypeFormat (t : Nat) : Nat :=
  if t = 1 then 1 else if t = 2 then 2 else if t = 3 then 0x0E else if t = 4 then 0x0F else if t = 5 then 0x10
  else if t = 6 then 0x11 else 3

/-- Source order (R138). -/
def sourceLe (a b : UnitWrite) : Bool := a.source < b.source || (a.source == b.source && a.order ≤ b.order)

/-- The order of LAST: issue time, then source, then program order (R139). -/
def laterThan (a b : UnitWrite) : Bool :=
  b.gts < a.gts || (a.gts == b.gts && (b.source < a.source || (a.source == b.source && b.order ≤ a.order)))

/-- The winner of LAST. -/
def lastOf (ws : List UnitWrite) : Option UnitWrite :=
  match ws with
  | [] => none
  | w :: t => match lastOf t with | none => some w | some x => if laterThan w x && !laterThan x w then some w else some x

/-- ADD in fp32 steps. -/
def addFloats (fc old : Nat) (vs : List Nat) : Nat :=
  let acc := vs.foldl (fun a v => fp32 (xadd false (decodeNum 1 a) (decodeNum fc v))) (fp32 (decodeNum fc old))
  if fc = 1 then acc else roundEncode fc 0 0 false (decodeNum 1 acc)

/-- The new value of a unit from its writes in source order (R139). -/
def combine (d old : Nat) (ws : List UnitWrite) (winner : Option UnitWrite) : Nat :=
  let fc := rtypeFormat (dRtype d)
  let vs := ws.map (fun w => leNat w.bytes)
  let w := 8 * unitSize d
  if dRule d = 1 then
    (if isFloat fc then addFloats fc old vs else vs.foldl (fun a v => (a + v) % 2 ^ w) old)
  else if dRule d = 2 then encodeNum fc false (vs.foldl (fun a v => xmax a (decodeNum fc v)) (decodeNum fc old))
  else if dRule d = 3 then encodeNum fc false (vs.foldl (fun a v => xmin a (decodeNum fc v)) (decodeNum fc old))
  else if dRule d = 4 then vs.foldl Nat.lor old
  else if dRule d = 5 then (match winner with | some x => leNat x.bytes | none => old)
  else (match ws with
    | [] => old
    | x :: _ => if ws.all (fun y => y.source == x.source) then vs.getLastD old else old)

/-- A REJECT unit that more than one source wrote. -/
def rejected (ws : List UnitWrite) : Bool :=
  match ws with
  | [] => false
  | x :: _ => dRule x.desc == 6 && ws.any (fun y => y.source != x.source)

/-- The winner of a LAST unit; replay names its source (R438). Of several entries for one address the k-th is that of its k-th unit
(log 91). -/
def winnerOf (g : StepGroup) (ws : List UnitWrite) : Option UnitWrite :=
  let named := match g.replay, ws with
    | some (wins, _), x :: _ =>
      ((wins.filter (fun e => e.1 == g.stepno.toNat && firstVa e.2.1 x.step == x.va))[x.part]?).bind (fun e =>
        (ws.filter (fun w => w.source == e.2.2)).getLast?)
    | _, _ => none
  match named with
  | some w => some w
  | none => lastOf ws

/-- Cut bytes from an address on at the bounds of 32-byte sectors. -/
def sectorChunks (fuel a : Nat) (bs : List Byte) : List (Nat × List Byte) :=
  match fuel, bs with
  | 0, _ => []
  | _, [] => []
  | k + 1, b :: t => (a, (b :: t).take (32 - a % 32)) :: sectorChunks k (a + (32 - a % 32)) ((b :: t).drop (32 - a % 32))

/-- Write the bytes of a plane as the hub does; what fails its colour check is not performed, and is recorded (R65, R409). -/
def hubWrite (s : State) (addr colour : Nat) (bs : List Byte) : State :=
  let put (t : State) (q : Nat × List Byte) : State :=
    performPkg t { id := t.nextId, cid := 0, seq := 0, addr := q.1, bytes := q.2, colour := colour, va := 0, keys := []
                   grp := true, cover := q.2.length == 32 }
  if (spanSectors [(addr, bs.length)]).any (fun k => sectorClass s k colour == .tag) then recordRead s [(addr, bs.length)] colour none
  else wakeWaiters ((sectorChunks (bs.length + 1) addr bs).foldl put s) addr bs.length

/-- The new value of one unit: its address, its colour, its bytes. -/
def unitValue (s : State) (g : StepGroup) (ws : List UnitWrite) : Option (Nat × Nat × List Byte) :=
  ws.head?.map (fun x =>
    (x.addr, dColour x.desc, leBytes (unitSize x.desc) (combine x.desc (memNat s.mem x.addr (unitSize x.desc)) ws (winnerOf g ws))))

/-- The winner of a LAST unit goes into the record ring (R436). -/
def recordWinner (g : StepGroup) (s : State) (ws : List UnitWrite) : State :=
  match ws, winnerOf g ws with
  | x :: _, some w =>
    if dRule x.desc = 5 then
      ringAppend s 1 g.sgid [(4, g.stepno.toNat), (8, w.va.toNat), (4, w.source), (8, leNat w.bytes), (8, w.gts)]
    else s
  | _, _ => s

/-- Cut bytes as a list of addresses and lengths says. -/
def cutBytes (w : DWrite) (ps : List (Word × Nat)) (bs : List Byte) : List DWrite :=
  match ps with
  | [] => []
  | (va, n) :: t => { w with va := va, bytes := bs.take n, parts := [] } :: cutBytes w t (bs.drop n)

/-- A write page by page. -/
def piecesOf (w : DWrite) : List DWrite := if w.parts.isEmpty then [w] else cutBytes w w.parts w.bytes

/-- The writes of the step that were not dropped and can be read. -/
def kept (g : StepGroup) : List DWrite := g.writes.filter (fun w => !w.bytes.isEmpty && !w.bad)

/-- Where a write lands, page by page. -/
def landingsOf (s : State) (w : DWrite) : List (DWrite × Landing) := (piecesOf w).map (fun p => (p, landing s p))

/-- The landings of the step's writes. -/
def landings (s : State) (g : StepGroup) : List (DWrite × Landing) := (kept g).flatMap (landingsOf s)

def isGone (l : Landing) : Bool := match l with | .gone => true | _ => false

/-- A gradient write that an overflow vote discards (R143). -/
def voided (g : StepGroup) (l : Landing) : Bool :=
  match l with
  | .at _ d _ => g.rvote.getLsbD 0 && dRole d == 1
  | _ => false

/-- The first page of a deferred store at which it fails its colour check: the store is not performed (R65). -/
def failingPart (s : State) (g : StepGroup) (w : DWrite) : Option DWrite :=
  ((landingsOf s w).find? (fun e => match e.2 with
    | .at a d _ => !voided g e.2 && (spanSectors [(a, e.1.bytes.length)]).any (fun k => sectorClass s k (dColour d) == .tag)
    | _ => false)).map (·.1)

/-- The writes that are applied: those that pass their colour checks. -/
def passing (s : State) (g : StepGroup) : List DWrite := (kept g).filter (fun w => (failingPart s g w).isNone)

/-- The fault of a deferred store is deferred: it goes to the context that issued it, or to its saved image (R65, R88). -/
def noteStoreFailed (s : State) (source sgid : Nat) (t : TrapInfo) : State :=
  let cid := cidOf source
  let mine (c : Ctx) : Bool := c.task.any (fun x => x.sgid == some sgid)
  if mine (ctxOf s cid) then setCtx s cid (withTagFail (ctxOf s cid) t)
  else match s.saved.find? (fun e => e.2.cid == cid && mine e.2.ctx) with
    | some (n, _) => changeSaved s n (fun c => withTagFail c t)
    | none => s

/-- A deferred store fails its colour check at application: recorded, and deferred to its context, on another package by a message
(R65, R409; log 92). -/
def failDeferred (g : StepGroup) (s : State) (w : DWrite) : State :=
  match failingPart s g w with
  | none => s
  | some p =>
    let t : TrapInfo := { cause := 0x0A, addr := p.va, plane := field p.va.toNat 60 4, wr := true, dfr := true, slot := w.slot }
    let s1 := (landingsOf s w).foldl (fun u e => match e.2 with
      | .at a d _ => recordRead u [(a, e.1.bytes.length)] (dColour d) none
      | _ => u) s
    if packageOf w.source = s.pkg then noteStoreFailed s1 w.source g.sgid t
    else { s1 with outbox := s1.outbox ++ [.storeFailed (packageOf w.source) w.source g.sgid t] }

/-- The unit writes to apply, in source order. -/
def stepUnits (g : StepGroup) (ls : List (DWrite × Landing)) : List UnitWrite :=
  sortBy sourceLe (ls.flatMap (fun e => match e.2 with
    | .at a d k => if voided g e.2 then [] else unitWrites e.1 a d k
    | _ => []))

/-- The pages that hold the boundary (R90). -/
def pagedKeys (ls : List (DWrite × Landing)) : List PageKey :=
  (ls.filterMap (fun e => match e.2 with | .paged k => some k | _ => none)).eraseDups

/-- Writes of the step that were dropped for want of room (R140). -/
def droppedCount (g : StepGroup) : Nat := g.dropped

/-- An uncorrectable tidepool entry is discarded, counted and recorded; the spec gives its place no address (R410, R417, R420;
log 20). -/
def loseEntry (s : State) (_w : DWrite) : State :=
  recordError (count { s with free := s.free + 1 } 3 1) .tidepool false { kind := 6, addr := (Config.freeWord s.free).toNat }

/-- The walk that a page of a deferred write needs (R409, R410). -/
def noteLanding (s : State) (w : DWrite) : State :=
  noteHubWalks s {
    parts := [{ va := w.va, n := w.bytes.length, frame := none, remote := none
                key := { asid := w.asid, page := field w.va.toNat 0 60, plane := field w.va.toNat 60 4 } }]
    colour := 0, shared := none }

/-- Apply the buffered writes, each unit once, in the order of their addresses. Memory takes the new values at the commit: until then
every reader gets the value of the last step (R34, R88). -/
def applyWrites (s : State) (g : StepGroup) : State :=
  let us := stepUnits g ((passing s g).flatMap (landingsOf s))
  let groups := (sortBy (fun a b => decide (a ≤ b)) ((us.map (·.addr)).eraseDups)).map (fun a => us.filter (fun u => u.addr == a))
  let walked := ((kept g).flatMap piecesOf).foldl noteLanding s
  let s0 := (kept g).foldl (failDeferred g) ((g.writes.filter (fun w => w.bad && !w.bytes.isEmpty)).foldl loseEntry walked)
  let s1 := groups.foldl (recordWinner g) s0
  let s2 := setGroup s1 { g with
    applied := true
    pending := groups.filterMap (unitValue s g)
    stcdel := g.stcdel + (kept g).countP (fun w => (landingsOf s w).any (fun e => isGone e.2))
    stcovf := g.stcovf + (kept g).countP (fun w => (landingsOf s w).any (fun e => voided g e.2))
    stcrej := g.stcrej + (groups.filter rejected).length }
  if droppedCount g = 0 then s2 else ringAppend s2 7 g.sgid [(4, g.stepno.toNat), (8, droppedCount g)]

/-! ### Commit (R136, R142, R144, R145) -/

/-- The loss scale after a step (R145); an fp32 power of two is halved or doubled in its exponent. -/
def lossAfter (g : StepGroup) (overflow : Bool) : StepGroup :=
  if overflow then
    if g.scale = g.lsmin then { g with clean := 0, skip := min (g.skip + 1) 0xFFFF_FFFF }
    else { g with clean := 0, scale := g.scale - 0x0080_0000 }
  else if g.scale = g.lsmax then { g with clean := min (g.clean + 1) g.lswin }
  else if g.clean + 1 = g.lswin then { g with clean := 0, scale := g.scale + 0x0080_0000 }
  else { g with clean := g.clean + 1 }

/-- STEPSTAT of a step (R135). -/
def stepstatOf (s : State) (g : StepGroup) (overflow : Bool) : Word :=
  BitVec.ofNat 64
    (g.rvote.toNat + (if g.rvote.getLsbD 0 then 2 ^ 32 else 0) + (if overflow then 2 ^ 33 else 0)
      + (if g.excluded.isEmpty then 0 else 2 ^ 34) + (if g.excluded.contains s.pkg then 2 ^ 35 else 0)
      + (if g.skewed then 2 ^ 36 else 0))

/-- The group in its next step: STEPNO, STEPSTAT and the loss scale move on (R136). Tasks that have not arrived stay sealed
until their own slack (R142). -/
def nextStep (s : State) (g : StepGroup) (overflow : Bool) : StepGroup :=
  let g1 := lossAfter g (g.rvote.getLsbD 0)
  { g1 with
    stepno := g.stepno + 1, stepstat := stepstatOf s g overflow
    sealed := g.sealed.filter (fun k => !g.arrived.contains k)
    vote := 0, arrived := [], sent := g.sentNext, sentNext := [], pkgArrived := false, arrivals := [], nextArrivals := []
    skewFrom := none, skewed := false
    excluded := [], decided := false, rvote := 0, writes := g.early, early := [], dropped := g.droppedNext, droppedNext := 0
    stated := [], applied := false, pending := []
    reports := [], seals := [], closing := false, answered := [] }

/-- Memory takes the values of a step (R136). -/
def placeValues (s : State) (g : StepGroup) : State := g.pending.foldl (fun t e => hubWrite t e.1 e.2.1 e.2.2) s

/-- The commit: memory takes the step's values, the slacks that wait complete; the arrival records of the next step that have come
already are noted, and a package whose tasks have all ended arrives at it at once (R136). -/
def commitGroup (s : State) (g : StepGroup) (overflow : Bool) : State :=
  let s1 := setGroup (placeValues s g) (nextStep s g overflow)
  let note (t : State) (a : Nat × Half × List (Nat × Nat)) : State :=
    match fget? t.groups g.sgid with | some h => noteArrival t h a.1 a.2.1 a.2.2 | none => t
  checkArrival (g.nextArrivals.foldl note s1) g.sgid

/-- The leader has a member's report; after the last one it commits (R136). -/
def noteReport (s : State) (g : StepGroup) (pkg : Nat) (overflow : Bool) : State :=
  let g1 := { g with reports := g.reports ++ [(pkg, overflow)] }
  if g.members.all (fun p => g1.reports.any (fun r => r.1 == p)) then
    let ov := g1.reports.any (·.2)
    commitGroup (toOthers s g (fun _ => .commit g.sgid ov)) g1 ov
  else setGroup s g1

/-- Report this package's application. -/
def reportApplied (s : State) (g : StepGroup) : State :=
  let ov := droppedCount g != 0
  if isLeader s g then noteReport s g s.pkg ov
  else { s with outbox := s.outbox ++ [.report g.sgid ov] }

/-! ### Events -/

/-- ARRIVAL_RECORD of another member (R136, R141). A member's second record is of the next step, and waits; so is one that an
excluded member sends after it has sealed, while one that it sent before it knew of the decision counts no more (log 87). -/
def execArrivalRecord (sgid pkg : Nat) (vote : Half) (counts : List (Nat × Nat)) (s : State) : Out :=
  match fget? s.groups sgid with
  | none => .next s
  | some g =>
    let out := g.decided && g.excluded.contains pkg
    if pkg = s.pkg || !g.members.contains pkg || (out && !g.seals.contains pkg) || g.nextArrivals.any (fun a => a.1 == pkg) then .next s
    else if out || g.arrivals.any (fun a => a.1 == pkg) then
      .next (setGroup s { g with nextArrivals := g.nextArrivals ++ [(pkg, vote, counts)] })
    else .next (noteArrival s g pkg vote counts)

/-- STEP_DECISION, at a member that is not the leader (R136, R137, R142). -/
def execStepDecision (sgid : Nat) (rvote : Half) (excluded : List Nat) (skew : Bool) (s : State) : Out :=
  match fget? s.groups sgid with
  | none => .next s
  | some g => if isLeader s g || g.decided then .next s else .next (takeDecision s g rvote excluded skew)

/-- DEFERRED_WRITE_ARRIVES from another package (R137, R140). -/
def execDeferredWriteArrives (w : DWrite) (s : State) : Out := .next (acceptWrite s w)

/-- Delivery is complete: every excluded package has sealed, every other one's writes have come (R136, R142). -/
def delivered (g : StepGroup) : Bool :=
  g.excluded.all g.seals.contains
    && g.members.all (fun p => g.excluded.contains p
        || (g.stated.any (fun e => e.1 == p)
          && decide (fget g.stated p 0 ≤ (g.writes.filter (fun w => packageOf w.source == p)).length)))

/-- STEP_APPLY: a page that is paged out holds the boundary (R90), and so does an HBM timing hold (R431); the loads of pod-shared
addresses that this package's contexts have issued in the step return before (R88; log 87). -/
def execStepApply (sgid : Nat) (s : State) : Out :=
  match fget? s.groups sgid with
  | none => .next s
  | some g =>
    if s.cold.hbmHold || !g.decided || g.applied || !delivered g || sharedLoads s sgid then .next s
    else match pagedKeys (landings s g) with
      | [] =>
        let s1 := applyWrites s g
        .next (match fget? s1.groups sgid with | some g1 => reportApplied s1 g1 | none => s1)
      | ks => .next (ks.foldl startPageIn s)

/-- APPLY_REPORT of another member, at the leader. A commit writes HBM, and waits for the end of an HBM timing hold (R431). -/
def execApplyReport (sgid pkg : Nat) (overflow : Bool) (s : State) : Out :=
  match fget? s.groups sgid with
  | none => .next s
  | some g =>
    if s.cold.hbmHold || !isLeader s g || pkg = s.pkg || !g.members.contains pkg || g.reports.any (fun r => r.1 == pkg) then .next s
    else .next (noteReport s g pkg overflow)

/-- STEP_COMMIT, at a member that is not the leader; its values are written to HBM, after any HBM timing hold (R431). -/
def execStepCommit (sgid : Nat) (overflow : Bool) (s : State) : Out :=
  match fget? s.groups sgid with
  | none => .next s
  | some g => if s.cold.hbmHold || isLeader s g || !g.applied then .next s else .next (commitGroup s g overflow)

/-- SKEW_EXPIRY, at the leader: the event is recorded; with EXCLUDE = 1 every member that has not arrived is
excluded (R141). -/
def execSkewExpiry (sgid : Nat) (s : State) : Out :=
  match fget? s.groups sgid with
  | none => .next s
  | some g =>
    match g.skewFrom with
    | none => .next s
    | some t =>
      if !isLeader s g || g.decided || g.skewed || !g.live || g.skewlim = 0 || s.gts < t + 1000 * g.skewlim then .next s
      else
        let s1 := ringAppend s 3 sgid [(4, g.stepno.toNat)]
        let late := g.members.filter (fun p => !g.arrivals.any (fun a => a.1 == p))
        let g1 := { g with skewed := true, excluded := if g.exclude then late else [] }
        .next (if g.exclude then leaderDecides (setGroup s1 g1) g1 else setGroup s1 g1)

/-- PACKAGE_SEALED: this package, once its pod-shared loads have returned, or else the next excluded package
(R142). -/
def execPackageSealed (sgid : Nat) (s : State) : Out :=
  match fget? s.groups sgid with
  | none => .next s
  | some g =>
    if g.closing then (if sharedLoads s sgid then .next s else .next (sealPackage s g))
    else match g.excluded.find? (fun p => p != s.pkg && !g.seals.contains p) with
      | some p => .next (setGroup s { g with seals := g.seals ++ [p] })
      | none => .next s

/-- REPLAY_ARM: the operator's winner and exclusion lists, for the next launch of the step group (R438). -/
def execReplayArm (sgid : Nat) (winners : List (Nat × Word × Nat)) (exclusions : List (Nat × List Nat)) (s : State) : Out :=
  let g : StepGroup := match fget? s.groups sgid with
    | some g => g
    | none => { sgid := sgid, launch := 0, members := [], skewlim := 0, exclude := false, live := false }
  .next (setGroup s { g with nextReplay := some (winners, exclusions) })

end Sys2Proof.Machine
end

