-- ==== Sys2Proof/Machine/Sync.lean ====
section
/-! DEFINITION. `vote`, `wait`, fences, `drain`, `slack`, `rdv` and `errinj` (R80, R81, R89, R252 to R255, R274). -/

namespace Sys2Proof.Machine

/-! ### vote (R254) -/

/-- vote: bits OR'd into VOTE after one cycle. -/
def planVote (o : Fields) (s : State) : Plan :=
  match srcA s o, srcB s o with
  | some a, some b =>
    if !slotOk s o [.sy] || o.dst != 0 || (mySgid s).isNone then illegalPlan
    else {
      emptyTrap := anyEmptyTrap [a, b]
      blocks := emptyWaits [a, b]
      dests := [.kspace 0x1A]
      effect := fun t =>
        sendResult t (inFlightAfter t 1 (.kspace 0x1A) (.orWord ((a.v ||| b.v) &&& 0xFFFF_FFFF))) }
  | _, _ => illegalPlan

/-- `vote` alone in its bundle. -/
def execVote (o : Fields) (s : State) : Out := .next (issueAlone o ((twinOpcode 0x35 o).toNat) (fun _ => planVote o) s)

/-! ### What fences wait for (R79 to R81) -/

/-- A local load or atomic of the acting context has not returned. -/
def loadsOut (s : State) : Bool := s.loads.any (fun l => l.cid == s.cur && isLocal l.acc)

def atomsOut (s : State) : Bool := s.loads.any (fun l => l.cid == s.cur && isAtom l)

/-- Stores short of a stage, those of the open segment among them. -/
def storesOut (s : State) (stage : Nat) : Bool :=
  storesShort s s.cur stage || (match (me s).seg with | some g => !g.stores.isEmpty | none => false)

/-- What a fence of a stage waits for: 1 grp, 2 pkg. -/
def fenceWaits (s : State) (stage : Nat) : List Reason :=
  (if loadsOut s then [.loads] else []) ++ (if storesOut s stage then [.stores stage] else [])

/-- The stage that a scope needs: ctx, core and grp the first, die and pkg the second (R79). -/
def stageOf (scope : Nat) : Nat := if scope ≤ 2 then 1 else 2

/-! ### fence, drain, slack (R252) -/

/-- fence of a scope. -/
def planFence (o : Fields) (s : State) : Plan :=
  if !slotOk s o [.sy] || !noA o || !noB o || 4 < o.dst.toNat then illegalPlan
  else { endsSeg := true, takesTag := true, blocks := fenceWaits s (stageOf o.dst.toNat) }

/-- `fence` alone in its bundle. -/
def execFence (o : Fields) (s : State) : Out := .next (issueAlone o ((twinOpcode 0x3F o).toNat) (fun _ => planFence o) s)

/-- drain: stores and atomics at pkg scope (R81). -/
def planDrain (o : Fields) (s : State) : Plan :=
  if !slotOk s o [.sy] || !noA o || !noB o || o.dst != 5 then illegalPlan
  else {
    endsSeg := true
    takesTag := true
    blocks := (if atomsOut s then [.loads] else []) ++ (if storesOut s 2 then [.stores 2] else []) }

/-- `drain` alone in its bundle. -/
def execDrain (o : Fields) (s : State) : Out := .next (issueAlone o ((twinOpcode 0x3F o).toNat) (fun _ => planDrain o) s)

/-- The attempt of a `slack` whose drain is done: it passes when the step has been committed, else it arrives and
blocks (R89, R136, R142). -/
def slackGate (t : State) : Option (State × Reason) :=
  match groupOfCtx t (me t) with
  | none => none
  | some g =>
    if (kget (me t) 0x18).toNat ≠ g.stepno.toNat then none
    else if g.arrived.contains (taskIndex (me t)) then some (t, .slack)
    else some (arriveTask t, .slack)

/-- A `slack` completes: STEPNO, STEPSTAT, VOTE cleared, the seal ends (R135, R142). DESIGN CHOICE (log 87): one `slack` catches up
with every step that its group has committed since it was due. -/
def slackDone (t : State) : State :=
  match groupOfCtx t (me t) with
  | none => t
  | some g =>
    let c := kset (kset (kset (me t) 0x18 (g.stepno.setWidth 64)) 0x19 g.stepstat) 0x1A 0
    setGroup (setMe t c) { g with sealed := g.sealed.filter (fun k => k != taskIndex c) }

/-- slack (R89, R252). -/
def planSlack (o : Fields) (s : State) : Plan :=
  if !slotOk s o [.sy] || !noA o || !noB o || o.dst != 6 || (groupOfCtx s (me s)).isNone then illegalPlan
  else {
    endsSeg := true
    takesTag := true
    blocks := fenceWaits s 2
    gate := slackGate
    effect := slackDone }

/-- `slack` alone in its bundle. -/
def execSlack (o : Fields) (s : State) : Out := .next (issueAlone o ((twinOpcode 0x3F o).toNat) (fun _ => planSlack o) s)

/-! ### rdv (R253) -/

/-- The scope of the launch's rendezvous level. -/
def rdvScope (s : State) (c : Ctx) : Option Nat :=
  c.task.bind (fun t => (fget? s.launches t.launch).bind (fun l => l.record.rdvLevel.bind (fun k =>
    (l.record.levels[k]?).map (·.scope))))

/-- Two tasks belong to one rendezvous instance. -/
def partners (a b : Ctx) : Bool :=
  match a.task, b.task with
  | some x, some y => x.launch == y.launch && x.rdvInst == y.rdvInst
  | _, _ => false

/-- A partner has issued generation `gen` of rendezvous n, or has ended. -/
def hasIssued (n gen : Nat) (c : Ctx) : Bool :=
  c.task.any (fun t => t.ending != .running) || decide (gen ≤ fget c.arch.rdvGen n 0)

/-- Every partner has arrived; one that is SAVED while it waits has not (R253). -/
def allMet (s : State) (n gen : Nat) : Bool :=
  (s.ctxs.filter (fun e => e.2.status != .free && partners e.2 (me s))).all (fun e => hasIssued n gen e.2)
    && (s.saved.filter (fun e => partners e.2.ctx (me s))).all (fun e =>
      hasIssued n gen e.2.ctx && e.2.ctx.phase != .rdvIssued n gen)

/-- The context issues its next generation of `rdv n`. -/
def issueRdv (n : Nat) (t : State) : State :=
  match (me t).phase with
  | .rdvIssued .. => t
  | _ =>
    let c := me t
    let gen := fget c.arch.rdvGen n 0 + 1
    setMe t { c with phase := .rdvIssued n gen, arch := { c.arch with rdvGen := fset c.arch.rdvGen n gen } }

/-- The attempt of a `rdv` whose fence is done. -/
def rdvGate (n : Nat) (t : State) : Option (State × Reason) :=
  let t1 := issueRdv n t
  let gen := fget (me t1).arch.rdvGen n 0
  if allMet t1 n gen then none else some (t1, .rendezvous n gen)

/-- rdv n. -/
def planRdv (o : Fields) (s : State) : Plan :=
  match srcB s o, rdvScope s (me s) with
  | some b, some scope =>
    let n := b.v.toNat
    if !slotOk s o [.sy] || !noA o || o.dst != 7 || 5 ≤ scope || (b.full && decide (16 ≤ n)) then illegalPlan
    else {
      emptyTrap := anyEmptyTrap [b]
      blocks := emptyWaits [b] ++ fenceWaits s (stageOf scope)
      endsSeg := true
      takesTag := true
      gate := rdvGate n
      effect := issueRdv n }
  | _, _ => illegalPlan

/-- `rdv` alone in its bundle. -/
def execRdv (o : Fields) (s : State) : Out := .next (issueAlone o ((twinOpcode 0x3F o).toNat) (fun _ => planRdv o) s)

/-! ### wait (R255) -/

/-- The earlier loads of the acting context perform before the read of a `wait` (R78.1). -/
def performEarlier (t : State) : State :=
  (t.loads.filter (fun m => m.cid == t.cur && m.sample.isNone && isLocal m.acc)).foldl (fun u m => sampleLoad u m []) t

/-- The attempt of a `wait`: it reads, once no HBM timing hold lasts (R431), and blocks while its condition fails. A read that fails
its check leaves a deferred trap (R65, R410). -/
def waitGate (acc : Access) (va : Word) (cond : Nat) (c : Half) (t : State) : Option (State × Reason) :=
  if (me t).phase = .waitDone then none
  else
    let t1 := performEarlier t
    let cls := readClass t1 t.cur (me t).seq acc
    let t2 := recordSeen (noteWalks t1 (threadPipe (myCore t1)) (myCore t1) acc) t.cur (me t).seq acc
    if t.cold.hbmHold then some (t, .waiting)
    else if cls ≠ 0 then
      let l : PLoad := { id := 0, cid := t.cur, seq := 0, va := va, acc := acc, use := .scalar 0 4 false, slot := 1 }
      some (deferTrap t2 t.cur (loadFault l cls), .loads)
    else if waitHolds cond (waitUnit t1 t1.cur acc) c then none
    else some (setMe (answers t2 acc []).1 { me t2 with phase := .waitFor va cond c }, .waiting)

/-- A failing first read of a pod-shared unit (R255); one that fails its check is a fault of its own (R410). -/
def waitStop (s : State) (acc : Access) (cond : Nat) (c : Half) (va : Word) : Option Stop :=
  if acc.shared.isSome && readClass s s.cur (me s).seq acc == 0 && !waitHolds cond (waitUnit s s.cur acc) c then
    some (.trap { cause := 3, qual := 1, addr := va, plane := field va.toNat 60 4 })
  else none

/-- wait.cond: its read follows the reads of the earlier loads of its context, the entry read of an earlier `jtab` among
them, which is not known before the header returns (R78.1, R223). -/
def planWait (o : Fields) (s : State) : Plan :=
  match memAddr s o with
  | none => illegalPlan
  | some a =>
    let d := srcD s (memReg o)
    let x := translate s (threadReq s a.va 4 4 false)
    let c := d.v.setWidth 32
    let acc := xlateAcc x
    if !slotOk s o [.sy] || memWide o then illegalPlan
    else {
      emptyTrap := anyEmptyTrap a.srcs
      errs := addrErrs o a
      blocks := emptyWaits (a.srcs ++ [d])
        ++ (if atomsOut s || s.loads.any (fun l => l.cid == s.cur && (l.held || torn s l || isLocal l.acc && isHeader l.use)) then [.loads] else [])
      stop := match xlateStop x a.va false with | some st => some st | none => waitStop s acc (variantOf o) c a.va
      endsSeg := true
      await := waitGate acc a.va (variantOf o) c
      effect := fun t =>
        let t1 := performEarlier t
        let t2 := if (me t).phase = .waitDone then t1 else recordSeen (noteWalks t1 (threadPipe (myCore t1)) (myCore t1) acc) t1.cur (me t1).seq acc
        (answers (noteReads t2 t2.cur (accReads t2 t2.cur (me t2).seq acc)) acc []).1 }

/-- `wait` alone in its bundle. -/
def execWait (o : Fields) (s : State) : Out := .next (issueAlone o ((twinOpcode 0x36 o).toNat) (fun _ => planWait o) s)

/-- WAIT_REREAD: at least once every 1 µs (R255). -/
def execWaitReread (cid : Nat) (s : State) : Out := .next (rereadWait s cid)

/-! ### errinj (R274) -/

/-- Flip a bit of a register and leave its residue, or a residue bit. -/
def flipReg (c : Ctx) (code : Nat) (v : Word) (m : BitVec 4) : Ctx :=
  if hardZero code then c
  else
    let r := readReg c code
    { c with arch := { c.arch with regs := fset c.arch.regs code { r with val := r.val ^^^ v, res := r.res ^^^ m } } }

/-- KIND 0 and 1: a bit of an s or a register, or of its residue. -/
def injectReg (o : Fields) (s : State) (a : Src) (residue : Bool) : Plan :=
  let code := o.dst.toNat
  let n := a.v.toNat
  let d := srcD s code
  if 0x50 ≤ code || o.short.toNat / 8 != 0 || (a.full && decide ((if residue then 4 else 64) ≤ n)) then illegalPlan
  else {
    emptyTrap := anyEmptyTrap [a]
    blocks := emptyWaits [a, d]
    last := true
    effect := fun t => setMe t
      (if residue then flipReg (me t) code 0 (BitVec.ofNat 4 (2 ^ n)) else flipReg (me t) code (BitVec.ofNat 64 (2 ^ n)) 0) }

/-- KIND 2: a bit of a tile. -/
def injectTile (o : Fields) (s : State) (a : Src) : Plan :=
  let n := a.v.toNat
  let cl := if bitAt n 0 then Cluster.y else Cluster.x
  let r := field n 1 7
  let k := 32 * field n 8 7 + field n 15 5
  let taken := a.full && tileTaken s cl
  if o.dst != 0 || o.short.toNat / 8 != 0 || (a.full && decide (2 ^ 20 ≤ n)) then illegalPlan
  else {
    emptyTrap := anyEmptyTrap [a]
    blocks := emptyWaits [a] ++ (if taken && !o.bta then [.tile (accRef cl)] else [])
    stop := if taken && o.bta then some (.trap { cause := 5, qual := 1 }) else none
    last := true
    effect := fun t =>
      let t1 := logRow t cl r
      let old := readRow (me t1) cl r
      setMe t1 (putRow (me t1) cl r { old with bits := old.bits ^^^ BitVec.ofNat 4096 (2 ^ k) }) }

/-- KIND 3: a bit of a scratchpad byte, its check bits kept consistent. -/
def injectSpad (o : Fields) (a : Src) : Plan :=
  let n := a.v.toNat
  let byte := field n 0 22
  if o.dst != 0 || o.short.toNat / 8 != 0 || (a.full && (decide (2 ^ 25 ≤ n) || decide (3145728 ≤ byte))) then illegalPlan
  else {
    emptyTrap := anyEmptyTrap [a]
    blocks := emptyWaits [a]
    last := true
    effect := fun t =>
      let t1 := logSpad t (byte / 512)
      let core := coreOf t1 (myCore t1)
      let v := spadBits core byte 8
      setCore t1 (myCore t1) (putSpadBits core byte 8 (v ^^^ 2 ^ field n 22 3)) }

/-- The same access one byte off within its aligned pair. -/
def pairByte (acc : Access) : Access :=
  { acc with parts := acc.parts.map (fun p => { p with frame := p.frame.map (fun f => f ^^^ 1) }) }

/-- KIND 4 and 5: symbols of an HBM sector, or its tag. DESIGN CHOICE (log 33): at a page of another package it does nothing. -/
def injectHbm (o : Fields) (s : State) (a : Src) (retag : Bool) : Plan :=
  let param := o.short.toNat / 8
  let x := translate s (threadReq s a.v 1 1 true)
  let acc := { xlateAcc x with shared := none }
  let m := BitVec.ofNat 8 (2 ^ (param % 8))
  if o.dst != 0 || 16 ≤ param then illegalPlan
  else {
    emptyTrap := anyEmptyTrap [a]
    blocks := emptyWaits [a]
    stop := xlateStop x a.v true
    segEntries := 1
    segBytes := 1
    last := true
    effect := fun t =>
      let t1 :=
        if retag then issueStore t t.cur .retag false acc a.v [BitVec.ofNat 8 (param % 16)]
        else
          let t2 := issueStore t t.cur .flip false acc a.v [m]
          if bitAt param 3 then issueStore t2 t2.cur .flip false (pairByte acc) a.v [m] else t2
      chargeSegment t1 1 1 }

/-- errinj, in debug mode only. -/
def planErrinj (o : Fields) (s : State) : Plan :=
  match srcA s o with
  | none => illegalPlan
  | some a =>
    let kind := o.short.toNat % 8
    if !slotOk s o [.sx, .sy] || !inDebug (me s) then illegalPlan
    else if kind = 0 then injectReg o s a false
    else if kind = 1 then injectReg o s a true
    else if kind = 2 then injectTile o s a
    else if kind = 3 then injectSpad o a
    else if kind = 4 then injectHbm o s a false
    else if kind = 5 then injectHbm o s a true
    else illegalPlan

/-- `errinj` alone in its bundle. -/
def execErrinj (o : Fields) (s : State) : Out := .next (issueAlone o 0x7E (fun _ => planErrinj o) s)

end Sys2Proof.Machine
end

