-- ==== Sys2Proof/Machine/Copy.lean ====
section
/-! DEFINITION. The copy engine: copy operations and their rows (R45, R69, R85, R256 to R262, R400), and bank images
of the control-word table (R180, R181, R271 to R273). -/

namespace Sys2Proof.Machine

/-! ### Issuing a copy (R43, R118, R256) -/

/-- The copy slot of a core. -/
def cpOk (s : State) (o : Fields) : Bool := slotOk s o [.cp]

/-- The tile of a C-map entry: the K field, or the value of B in the twins (R201, R256). -/
structure TileArg where
  n    : Nat
  srcs : List Src
  ok   : Bool

def tileK (o : Fields) : TileArg := { n := shortK o, srcs := [], ok := decide (shortK o < 192) }

def tileReg (s : State) (o : Fields) : TileArg :=
  match scalarSrc s o.srcb.toNat o.btb with
  | some b => { n := b.v.toNat, srcs := [b], ok := !b.full || decide (b.v.toNat < 192) }
  | none => { n := 0, srcs := [], ok := false }

/-- A control or send word read through DST: any scalar source code, IMM among them; it has no BT bit (R194, R195,
R256). -/
def wordD (s : State) (o : Fields) : Src := (scalarSrc s o.dst.toNat false).getD (immSrc 0)

/-- DST holds a scalar source code. -/
def wordCode (o : Fields) : Bool := o.dst.toNat ≤ 0x68

/-- The slots from a tile on. -/
def slotRun (n k : Nat) : List Nat := (List.range k).map (fun i => n + i)

/-- A tile that any engine holds. -/
def tileHeld (s : State) (t : TileRef) : Bool := tileOwner s s.cur t != .thread

/-- What a copy waits for: room in the queue, and its tiles (R20, R43). -/
def copyWaits (s : State) (ts : List TileRef) (bt : Bool) : List Reason :=
  (if Config.copyQueueDepth ≤ (coreOf s (myCore s)).cqueue.length then [.copyQueue] else [])
    ++ (if bt then [] else (ts.filter (tileHeld s)).map Reason.tile)

/-- The tile-access traps of a copy (R20, R243). -/
def tilesStop (s : State) (ts : List TileRef) (bt : Bool) : Option Stop :=
  let core := coreOf s (myCore s)
  match (slotsIn ts).find? (fun k => !allocatedTo core (s.cur % 4) k) with
  | some k => some (.trap { cause := 5, qual := 0, addr := BitVec.ofNat 64 (16384 * k) })
  | none => if bt && ts.any (tileHeld s) then some (.trap { cause := 5, qual := 1 }) else none

/-- The operation enters the queue; inside an open segment it waits for the segment's end (R118). -/
def queueCopy (t : State) (o : CopyOp) : State :=
  let c := me t
  let t1 := giveTiles { t with nextId := t.nextId + 1 } t.cur (copyTiles o) .copy
  let core := coreOf t1 (myCore t1)
  setCore t1 (myCore t1) { core with cqueue := core.cqueue ++
    [{ o with id := t.nextId, cid := t.cur, seq := c.seq, waits := c.seg.isSome }] }

/-- A plan of a copy operation over its tiles. -/
def copyPlan (s : State) (o : Fields) (ok : Bool) (srcs : List Src) (errs : List (Nat × Nat)) (ts : List TileRef)
    (effect : State → State) : Plan :=
  if !cpOk s o || !ok then illegalPlan
  else {
    emptyTrap := anyEmptyTrap srcs
    errs := errs
    blocks := emptyWaits srcs ++ copyWaits s ts o.bta
    stop := tilesStop s ts o.bta
    effect := effect }

/-! ### cpin and cpout (R257, R258, R260) -/

/-- A CCW taken apart (R257). -/
structure Ccw where
  nslot  : Nat
  xpose  : Bool
  tg     : Bool
  layout : Bool
  swz    : Nat
  fmt    : Nat
  htrans : Bool
  stride : Nat
  start  : Nat
  rest   : Nat
deriving DecidableEq, Repr

def ccwOf (v : Word) : Ccw where
  nslot := field v.toNat 0 2
  xpose := bitAt v.toNat 2
  tg := bitAt v.toNat 3
  layout := bitAt v.toNat 4
  swz := field v.toNat 5 8
  fmt := field v.toNat 13 5
  htrans := bitAt v.toNat 18
  stride := field v.toNat 19 32
  start := field v.toNat 51 7
  rest := v.toNat / 2 ^ 58

/-- The element width that an FMT stands for. -/
def fmtBits (f : Nat) : Nat := if f = 0 || f = 31 then 8 else fmtWidth f

/-- The width of a copy's elements. -/
def ccwWidth (x : Ccw) : Nat := if x.xpose then (if x.tg then 16 else 8) else fmtBits x.fmt

/-- Rows of the copy. -/
def ccwRows (x : Ccw) : Nat := (x.nslot + 1) * 16384 / (16 * ccwWidth x)

/-- The checks of R257 at issue. -/
def ccwOk (tile : Nat) (x : Ccw) : Bool :=
  decide (tile + x.nslot ≤ 191) && !(18 ≤ x.fmt && x.fmt ≤ 30) && decide (ccwRows x ≤ 128)
    && (!x.xpose || ccwRows x == 128) && (!x.layout || ccwWidth x == 8 || ccwWidth x == 16)
    && decide (x.start < ccwRows x) && x.rest == 0

/-- Headers of slots are written at issue (R258). -/
def writeHeads (core : Core) (ks : List Nat) (x : Ccw) : Core :=
  { core with heads := ks.foldl (fun h k => fset h k (withShape (fget h k 0) x.layout x.htrans x.fmt x.swz)) core.heads }

/-- cpin. -/
def cpinPlan (o : Fields) (s : State) (tile : TileArg) : Plan :=
  match srcA s o with
  | none => illegalPlan
  | some a =>
    let d := wordD s o
    let x := ccwOf d.v
    let ks := slotRun tile.n (x.nslot + 1)
    copyPlan s o (wordCode o && tile.ok && (!allFull (d :: tile.srcs) || ccwOk tile.n x)) ([a, d] ++ tile.srcs)
      (resErr 2 o.srca.toNat a) (ks.map TileRef.slot)
      (fun t =>
        let t1 := setCore t (myCore t) (writeHeads (coreOf t (myCore t)) ks x)
        queueCopy t1
          { id := 0, cid := 0, kind := .cpin, va := a.v, word := d.v, slot := tile.n, nslots := x.nslot + 1
            row := x.start, nrows := ccwRows x, rowBytes := 16 * ccwWidth x })

/-- The CCW of a `cpout` with the format of the first slot's header; LAYOUT is that of any of its slots. DESIGN CHOICE (log 106): a
format that R257 refuses for `cpin`, and a Z-ordered slot of a width that is neither 8 nor 16, raise the illegal-operation trap at
issue here too. -/
def outShape (s : State) (tile : Nat) (x : Ccw) : Ccw :=
  let head (k : Nat) : Word := headOf (coreOf s (myCore s)) k
  { x with fmt := hFmt (head tile), layout := (slotRun tile (x.nslot + 1)).any (fun k => hLayout (head k)) }

/-- cpout: XPOSE, TG, LAYOUT, SWZ, FMT and HTRANS are 0. -/
def cpoutPlan (o : Fields) (s : State) (tile : TileArg) : Plan :=
  match srcA s o with
  | none => illegalPlan
  | some a =>
    let d := wordD s o
    let x := outShape s tile.n (ccwOf d.v)
    let ks := slotRun tile.n (x.nslot + 1)
    copyPlan s o
      (wordCode o && tile.ok
        && (!allFull (d :: tile.srcs) || (field d.v.toNat 2 17 == 0 && ccwOk tile.n x)))
      ([a, d] ++ tile.srcs) (resErr 2 o.srca.toNat a) (ks.map TileRef.slot)
      (fun t => queueCopy t
        { id := 0, cid := 0, kind := .cpout, va := a.v, word := d.v, slot := tile.n, nslots := x.nslot + 1
          row := x.start, nrows := ccwRows x, rowBytes := 16 * ccwWidth x })

def planCpin (o : Fields) (s : State) : Plan := cpinPlan o s (tileK o)

/-- `cpin` alone in its bundle. -/
def execCpin (o : Fields) (s : State) : Out := .next (issueAlone o 0x01 (fun _ => planCpin o) s)

def planCpinReg (o : Fields) (s : State) : Plan := cpinPlan o s (tileReg s o)

/-- `cpin` with its tile in a register, alone in its bundle. -/
def execCpinReg (o : Fields) (s : State) : Out := .next (issueAlone o 0x41 (fun _ => planCpinReg o) s)

def planCpout (o : Fields) (s : State) : Plan := cpoutPlan o s (tileK o)

/-- `cpout` alone in its bundle. -/
def execCpout (o : Fields) (s : State) : Out := .next (issueAlone o 0x02 (fun _ => planCpout o) s)

def planCpoutReg (o : Fields) (s : State) : Plan := cpoutPlan o s (tileReg s o)

/-- `cpout` with its tile in a register, alone in its bundle. -/
def execCpoutReg (o : Fields) (s : State) : Out := .next (issueAlone o 0x42 (fun _ => planCpoutReg o) s)

/-! ### cpacc and cpfill (R261, R262) -/

/-- An ACW taken apart (R261). -/
def acwOut (v : Word) : Bool := v.getLsbD 0
def acwY (v : Word) : Bool := v.getLsbD 1
def acwPlane (v : Word) : Bool := v.getLsbD 2
def acwRow0 (v : Word) : Nat := field v.toNat 3 7
def acwRows (v : Word) : Nat := field v.toNat 10 7

/-- cpacc. -/
def cpaccPlan (o : Fields) (s : State) (tile : TileArg) : Plan :=
  match srcA s o with
  | none => illegalPlan
  | some a =>
    let d := wordD s o
    let v := d.v
    let n := if acwPlane v then 0 else (acwRows v + 1 + 31) / 32
    let ok := acwRow0 v + acwRows v ≤ 127 && v.toNat / 2 ^ 17 == 0 && (!acwPlane v || tile.n == 0)
    copyPlan s o (wordCode o && tile.ok && (!allFull (d :: tile.srcs) || ok)) ([a, d] ++ tile.srcs)
      (if acwPlane v then resErr 2 o.srca.toNat a else [])
      ((slotRun tile.n n).map TileRef.slot ++ [.acc (acwY v)])
      (fun t => queueCopy t
        { id := 0, cid := 0, kind := if acwOut v then .cpaccOut else .cpaccIn, va := a.v, word := v, slot := tile.n
          nslots := n, accY := some (acwY v), row := acwRow0 v, nrows := acwRow0 v + acwRows v + 1, rowBytes := 512 })

def planCpacc (o : Fields) (s : State) : Plan := cpaccPlan o s (tileK o)

/-- `cpacc` alone in its bundle. -/
def execCpacc (o : Fields) (s : State) : Out := .next (issueAlone o 0x03 (fun _ => planCpacc o) s)

def planCpaccReg (o : Fields) (s : State) : Plan := cpaccPlan o s (tileReg s o)

/-- `cpacc` with its tile in a register, alone in its bundle. -/
def execCpaccReg (o : Fields) (s : State) : Out := .next (issueAlone o 0x43 (fun _ => planCpaccReg o) s)

/-- cpfill. -/
def cpfillPlan (o : Fields) (s : State) (tile : TileArg) : Plan :=
  match srcA s o with
  | none => illegalPlan
  | some a =>
    copyPlan s o (o.dst == 0 && tile.ok) (a :: tile.srcs) [] [.slot tile.n]
      (fun t => queueCopy t
        { id := 0, cid := 0, kind := .cpfill, va := 0, word := a.v &&& 0xFFFF_FFFF, slot := tile.n, nslots := 1
          row := 0, nrows := 32, rowBytes := 512 })

def planCpfill (o : Fields) (s : State) : Plan := cpfillPlan o s (tileK o)

/-- `cpfill` alone in its bundle. -/
def execCpfill (o : Fields) (s : State) : Out := .next (issueAlone o 0x04 (fun _ => planCpfill o) s)

def planCpfillReg (o : Fields) (s : State) : Plan := cpfillPlan o s (tileReg s o)

/-- `cpfill` with its tile in a register, alone in its bundle. -/
def execCpfillReg (o : Fields) (s : State) : Out := .next (issueAlone o 0x44 (fun _ => planCpfillReg o) s)

/-! ### The control-word table (R180, R181, R271 to R273) -/

/-- Write CWTS now, in the checkpoint too (R176, R413). -/
def putCwts (s : State) (cid : Nat) (ls : Nat) : State :=
  let f (c : Ctx) : Ctx := kset c 0x0B (cwtsWord (runBank c) ls)
  setCtx s cid (f (alsoCheckpoint (ctxOf s cid) none f))

/-- cwtw: LSTATE becomes LOADING at issue; a failure is forgotten when LSTATE leaves READY or BAD (R271). -/
def planCwtw (o : Fields) (s : State) : Plan :=
  match srcA s o with
  | none => illegalPlan
  | some a =>
    copyPlan s o (o.dst == 0 && noB o) [a] (resErr 2 o.srca.toNat a) []
      (fun t =>
        let c := me t
        let fail := if lstate c = 1 then c.cwtwFail else false
        let t1 := setMe t (kset { c with cwtwOut := c.cwtwOut + 1, cwtwFail := fail } 0x0B (cwtsWord (runBank c) 1))
        queueCopy t1
          { id := 0, cid := 0, kind := .cwtw, va := a.v, word := 0, slot := 0, nslots := 0, row := 0, nrows := 1
            rowBytes := 32 })

/-- `cwtw` alone in its bundle. -/
def execCwtw (o : Fields) (s : State) : Out := .next (issueAlone o 0x10 (fun _ => planCwtw o) s)

/-- cwtr: an entry to memory (R272). -/
def planCwtr (o : Fields) (s : State) : Plan :=
  match srcA s o, scalarSrc s o.srcb.toNat o.btb with
  | some a, some b =>
    copyPlan s o (o.dst == 0 && (!b.full || decide (b.v.toNat < 512))) [a, b] (resErr 2 o.srca.toNat a) []
      (fun t => queueCopy (setMe t { me t with cwtrOut := (me t).cwtrOut + 1 })
        { id := 0, cid := 0, kind := .cwtr, va := a.v, word := b.v, slot := 0, nslots := 0, row := 0, nrows := 1
          rowBytes := 32 })
  | _, _ => illegalPlan

/-- `cwtr` alone in its bundle. -/
def execCwtr (o : Fields) (s : State) : Out := .next (issueAlone o 0x11 (fun _ => planCwtr o) s)

/-- ifence: every earlier `cwtw` and `cwtr` has completed; then its destination is empty until LSTATE arrives (R273,
R344, R403; log 38). -/
def planIfence (o : Fields) (s : State) : Plan :=
  let code := o.dst.toNat
  let c := me s
  if !cpOk s o || !noA o || !noB o || !scalarDest code then illegalPlan
  else {
    blocks := (if c.cwtwOut + c.cwtrOut = 0 then [] else [.cwtOps]) ++ destWaits s (.scalar code)
    dests := [.scalar code]
    effect := fun t => startPending t code (.query (BitVec.ofNat 64 (lstate c))) }

/-- `ifence` alone in its bundle. -/
def execIfence (o : Fields) (s : State) : Out := .next (issueAlone o 0x12 (fun _ => planIfence o) s)

/-- The parts of an HCW from its most significant bit: position and width of the header and the six slots (R182). -/
def hcwParts : List (Nat × Nat) := [(210, 46), (175, 35), (140, 35), (105, 35), (70, 35), (35, 35), (0, 35)]

/-- Replace the named parts of an HCW by the bytes that follow; none where the bytes end or a spare bit is set. -/
def replaceParts (parts : List (Nat × Nat)) (k repl hcw : Nat) (bs : List Byte) : Option (Nat × List Byte) :=
  match parts with
  | [] => some (hcw, bs)
  | (pos, w) :: rest =>
    if bitAt repl k then
      let n := (w + 7) / 8
      let v := leNat (bs.take n)
      if bs.length < n || 2 ^ w ≤ v then none
      else replaceParts rest (k + 1) repl (hcw - field hcw pos w * 2 ^ pos + v * 2 ^ pos) (bs.drop n)
    else replaceParts rest (k + 1) repl hcw bs

/-- COUNT entry records: the entries decoded before the first bad record, and what is left where none is bad. -/
def parseRecords (n : Nat) (tpls : List Nat) (bs : List Byte) : List Nat × Option (List Byte) :=
  match n with
  | 0 => ([], some bs)
  | k + 1 =>
    let tag := leNat (bs.take 2)
    let tpl := tag % 16
    let base := if tpl = 15 then some 0 else tpls[tpl]?
    match base with
    | none => ([], none)
    | some b =>
      if bs.length < 2 || 2 ^ 11 ≤ tag then ([], none)
      else match replaceParts hcwParts 0 (field tag 4 7) b (bs.drop 2) with
        | none => ([], none)
        | some (h, rest) =>
          let r := parseRecords k tpls rest
          (h :: r.1, r.2)

/-- A bank image but for its checksum (R180): first index, the entries it gives, and whether its counts, lengths, tags and reserved
bits are those of R180. -/
def imageForm (bs : List Byte) : Nat × List Nat × Bool :=
  let n := leNat (bs.take 2)
  let first := leNat ((bs.drop 2).take 1)
  let ntpl := leNat ((bs.drop 3).take 1)
  let len := leNat ((bs.drop 4).take 4)
  if n = 0 || 256 < n || 256 < first + n || 8 < ntpl || 16384 < len || len < 32 + 32 * ntpl || bs.length < len
      || leNat ((bs.drop 12).take 20) ≠ 0 then (first, [], false)
  else
    let tpls := (List.range ntpl).map (fun i => leNat ((bs.drop (32 + 32 * i)).take 32))
    let r := parseRecords n tpls ((bs.take len).drop (32 + 32 * ntpl))
    (first, r.1, match r.2 with | some rest => rest.isEmpty | none => false)

/-- A bank image (R180, R181): first index, the entries it gives, and whether it is good. -/
def parseImage (bs : List Byte) : Nat × List Nat × Bool :=
  let f := imageForm bs
  (f.1, f.2.1, f.2.2 && crc32c (f.2.1.flatMap (leBytes 32)) == leNat ((bs.drop 8).take 4))

/-- Write entries into a bank from an index on. -/
def putEntries (c : Ctx) (i : Nat) (hs : List Nat) : Ctx :=
  match hs with
  | [] => c
  | h :: t =>
    let d := { c with
      cwt := fset c.cwt i (BitVec.ofNat 256 h)
      cwtBad := c.cwtBad.filter (fun w => w / 4 != i)
      cwtOne := c.cwtOne.filter (fun w => w / 4 != i) }
    putEntries d (i + 1) t

/-- One `cwtw` of a context is done; with the last one LSTATE becomes READY or BAD (R271). -/
def cwtwDone (s : State) (cid : Nat) (ok : Bool) : State :=
  let c := ctxOf s cid
  let c1 := { c with cwtwOut := c.cwtwOut - 1, cwtwFail := c.cwtwFail || !ok }
  let s1 := setCtx s cid c1
  if c1.cwtwOut = 0 then putCwts s1 cid (if c1.cwtwFail then 3 else 2) else s1

/-- Drop the head of a core's copy queue. -/
def popCopy (s : State) (core : Nat) : State :=
  let k := coreOf s core
  setCore s core { k with cqueue := k.cqueue.drop 1 }

/-- The copy engine of a matrix core that is held does not work (R425). -/
def copyHeld (s : State) (core : Nat) : Bool := !isService core && engineHeld s

/-- CWTW_COMPLETE: the image is in; its entries go into the load bank (R177, R181), unless the engine is stopped (R425, R430). -/
def execCwtwComplete (cid : Nat) (s : State) : Out :=
  match (coreOf s (cid / 4)).cqueue with
  | [] => .next s
  | o :: _ =>
    if s.cold.pause || copyHeld s (cid / 4) || o.kind ≠ .cwtw || o.cid ≠ cid || !o.started || o.row < o.nrows then .next s
    else
      let (first, hs, ok) := parseImage o.data
      let s1 := popCopy s (cid / 4)
      let c := ctxOf s1 cid
      .next (cwtwDone (setCtx s1 cid (putEntries c (256 * (1 - runBank c) + first) hs)) cid ok)

/-! ### Rows (R258 to R262, R400) -/

/-- Replace the head of a core's copy queue. -/
def setHead (s : State) (core : Nat) (o : CopyOp) : State :=
  let k := coreOf s core
  setCore s core { k with cqueue := o :: k.cqueue.drop 1 }

/-- The address of a position plus an offset, in the same plane. -/
def posAdd (va : Word) (n : Nat) : Word :=
  BitVec.ofNat 64 (field va.toNat 60 4 * 2 ^ 60 + (field va.toNat 0 60 + n) % 2 ^ 60)

/-- Position bytes that 128 elements of the plane of an address cover: 128·2^gP·w0. -/
def rowStep (s : State) (core asid : Nat) (va : Word) (rb : Nat) : Nat :=
  match lookupPage s (.copy core 0) asid (field va.toNat 0 60) with
  | .found _ _ rpd =>
    let d := descOf rpd (field va.toNat 60 4)
    if field va.toNat 60 4 = 0 then 128 * width0 rpd else 128 * 2 ^ dGran d * width0 rpd
  | _ => rb

/-- The load pipe of a copy's next row: the pipes take rows in turn (R400). -/
def copyPipe (core : Nat) (o : CopyOp) : CacheId := if isService core then .hub else .copy core (o.row % 2)

/-- A copy row's request. -/
def rowReq (s : State) (o : CopyOp) (va : Word) (n align : Nat) (write : Bool) (dw : Option Nat) : AccessReq :=
  { ctxReq s o.cid va n align write with cache := copyPipe (o.cid / 4) o, dwidth := dw }

/-- A read for a context through a pipe, at the place of the reading operation in its program order (R85). -/
def readFor (s : State) (pipe : CacheId) (cid place : Nat) (acc : Access) : State × List Byte :=
  let s0 := noteWalks s pipe (cid / 4) acc
  let s1 := recordSeen (noteReads s0 cid (accReads s0 cid place acc)) cid place acc
  let r := answers s1 acc []
  (r.1, accBytes s cid place acc r.2)

/-- A row's read. -/
def copyRead (s : State) (core : Nat) (o : CopyOp) (acc : Access) : State × List Byte := readFor s (copyPipe core o) o.cid o.seq acc

/-- The trap of a read that fails its check (R65, R410). -/
def readTrap (va : Word) (cls : Nat) : TrapInfo :=
  if cls = 1 then { cause := 0x0A, addr := va, plane := field va.toNat 60 4 }
  else { cause := 0x15, code := cls, addr := va, plane := field va.toNat 60 4 }

/-- The stores of a copy are placed in its context's program order (R85, R260). -/
def placeStores (s : State) (o : CopyOp) : State :=
  o.outs.foldl (fun t (va, bs, acc) => issueStore t o.cid .data false acc va bs 7) s

/-- A copy completes: its tiles flip back, then its stores are placed (R20, R85). -/
def finishCopy (s : State) (core : Nat) (o : CopyOp) : State :=
  let s1 := giveTiles (popCopy s core) o.cid (copyTiles o) .thread
  let s2 := if o.kind = .cpfill || (o.kind = .cpin && field o.word.toNat 51 7 == 0) then
      setCore s1 core (freshSlots (coreOf s1 core) (slotRun o.slot o.nslots)) else s1
  let s3 := placeStores s2 o
  if o.kind = .cwtr then setCtx s3 o.cid { ctxOf s3 o.cid with cwtrOut := (ctxOf s3 o.cid).cwtrOut - 1 } else s3

/-- A copy stops at a fault: its tiles return, rows already written stay, the context takes the fault at its next
bundle (R69, R259, R260, R400). -/
def stopCopy (s : State) (core : Nat) (o : CopyOp) (t : TrapInfo) : State :=
  let s1 := giveTiles (popCopy s core) o.cid (copyTiles o) .thread
  let s2 := placeStores s1 o
  let s3 := if o.kind = .cwtw then cwtwDone s2 o.cid false
    else if o.kind = .cwtr then setCtx s2 o.cid { ctxOf s2 o.cid with cwtrOut := (ctxOf s2 o.cid).cwtrOut - 1 } else s2
  deferTrap s3 o.cid { t with copy := true, pipe := o.row % 2 == 1, row := o.row }

/-- The pipe's fault record (R400); of a failed check it keeps the kind of R408 as the qualifier. -/
def recordPipe (s : State) (core : Nat) (o : CopyOp) (va : Word) (code qual : Nat) : State :=
  let k := coreOf s core
  setCore s core { k with pipes := fset k.pipes (o.row % 2) { kind := o.kind, addr := va, code := code, qual := qual, row := o.row } }

/-- A row that does not translate: held until the page is present, else stopped (R69). -/
def rowFault (s : State) (core : Nat) (o : CopyOp) (va : Word) (x : Xlate) : State :=
  match x with
  | .notPresent k => startPageIn (setHead (recordPipe s core o va 0 0) core { o with held := some k }) k
  | .trap t => stopCopy (noteFailed (recordPipe s core o va t.cause t.qual) (.copy core (o.row % 2)) (asidOf (ctxOf s o.cid)) t) core o t
  | .ok _ => s

/-- A row that fails a check stops the copy as another fault does; the record holds the address that TADDR will (R65, R400, R410). -/
def rowFails (s : State) (core : Nat) (o : CopyOp) (t : TrapInfo) : State :=
  stopCopy (recordPipe s core o t.addr t.cause t.code) core o t

/-- A row that meets an uncorrectable word of the scratchpad (R410, R411). -/
def rowMeetsBad (s : State) (core : Nat) (o : CopyOp) (w : Nat) : State :=
  rowFails (noteBad s core w (some o.cid)) core o { cause := 0x15, code := 8, addr := BitVec.ofNat 64 (8 * w) }

/-- The row is done. -/
def rowDone (s : State) (core : Nat) (o : CopyOp) : State :=
  let o1 := { o with row := o.row + 1 }
  if o1.row < o1.nrows then setHead s core o1 else finishCopy s core o1

/-- Write bytes from an offset of the scratchpad, in pieces of 128 that lie in one row each. -/
def putSpan (core : Core) (off : Nat) (bs : List Byte) (fuel : Nat) : Core :=
  match fuel, bs with
  | 0, _ => core
  | _, [] => core
  | k + 1, b :: t =>
    putSpan (putSpadBits core off 1024 (leNat ((b :: t).take 128))) (off + 128) ((b :: t).drop 128) k

/-- Row r of a tile takes 128 elements of w bits (R125, R258). -/
def putTileRow (core : Core) (slot : Nat) (layout xpose : Bool) (w r : Nat) (bs : List Byte) : Core :=
  let base := 16384 * slot
  if layout || xpose then
    let v := leNat bs
    let place (c : Nat) : Nat := base + (if xpose then elemOffset layout w c r else elemOffset layout w r c)
    freshFilled ((List.range 128).foldl (fun k c => putSpadBits k (place c) w (field v (w * c) w)) core)
      ((List.range 128).map (fun c => (place c, w / 8)))
  else putSpan core (base + 16 * w * r) bs (bs.length / 128 + 1)

/-- Row r of a tile. -/
def tileRowBytes (core : Core) (slot : Nat) (layout : Bool) (w r : Nat) : List Byte :=
  let base := 16384 * slot
  let v := if layout then
      (List.range 128).foldr (fun c acc => spadBits core (base + elemOffset true w r c) w + 2 ^ w * acc) 0
    else (List.range (16 * w / 128)).foldr (fun i acc => spadBits core (base + 16 * w * r + 128 * i) 1024 + 2 ^ 1024 * acc) 0
  leBytes (16 * w) v

/-- The 8-byte words of row r of a tile, or of its column r where it is transposed. -/
def tileRowWords (slot : Nat) (layout xpose : Bool) (w r : Nat) : List Nat :=
  let base := 16384 * slot
  if layout || xpose then
    ((List.range 128).map (fun c => (base + (if xpose then elemOffset layout w c r else elemOffset layout w r c)) / 8)).eraseDups
  else (List.range (2 * w)).map (fun i => (base + 16 * w * r) / 8 + i)

/-- The LAYOUT of the slot that holds row r of a tile of w-bit elements: under either layout a row lies in one slot, the same (R125,
R260). -/
def rowLayout (core : Core) (slot w r : Nat) : Bool := hLayout (headOf core (slot + 16 * w * r / 16384))

/-- The scratchpad words that a copy's next row reads or writes. -/
def copyWords (core : Core) (o : CopyOp) : List Nat :=
  match o.kind with
  | .cpin =>
    let x := ccwOf o.word
    tileRowWords o.slot x.layout x.xpose (ccwWidth x) o.row
  | .cpout =>
    let w := fmtBits (hFmt (headOf core o.slot))
    tileRowWords o.slot (rowLayout core o.slot w o.row) false w o.row
  | .cpaccIn => if acwPlane o.word then [] else rowWords [32 * o.slot + o.row - acwRow0 o.word]
  | .cpaccOut => if acwPlane o.word then [] else rowWords [32 * o.slot + o.row - acwRow0 o.word]
  | .cpfill => rowWords [32 * o.slot + o.row]
  | _ => []

/-- A row of `cpin`. -/
def cpinRow (s : State) (core : Nat) (o : CopyOp) : State :=
  let x := ccwOf o.word
  let w := ccwWidth x
  let va := posAdd o.va (o.row * (if x.stride = 0 then rowStep s core (asidOf (ctxOf s o.cid)) o.va o.rowBytes else x.stride))
  match translate s (rowReq s o va o.rowBytes 1 false (some w)) with
  | .ok acc =>
    let cls := readClass s o.cid o.seq acc
    let r := copyRead s core o acc
    if cls ≠ 0 then rowFails r.1 core o (readTrap va cls)
    else rowDone (setCore r.1 core (putTileRow (coreOf r.1 core) o.slot x.layout x.xpose w o.row r.2)) core o
  | f => rowFault s core o va f

/-- A row of `cpout`: the width is that of the first slot's header, the LAYOUT that of the row's own slot (R260). -/
def cpoutRow (s : State) (core : Nat) (o : CopyOp) : State :=
  let w := fmtBits (hFmt (headOf (coreOf s core) o.slot))
  let st := field o.word.toNat 19 32
  let va := posAdd o.va (o.row * (if st = 0 then rowStep s core (asidOf (ctxOf s o.cid)) o.va o.rowBytes else st))
  match translate s (rowReq s o va o.rowBytes 1 true (some w)) with
  | .ok acc =>
    match badWord (coreOf s core) (copyWords (coreOf s core) o) with
    | some b => rowMeetsBad s core o b
    | none =>
      rowDone (noteWords s core (copyWords (coreOf s core) o) (some o.cid)) core
        { o with outs := o.outs ++ [(va, tileRowBytes (coreOf s core) o.slot (rowLayout (coreOf s core) o.slot w o.row) w o.row, acc)] }
  | f => rowFault s core o va f

/-- The cluster of an accumulator copy. -/
def accOf (o : CopyOp) : Cluster := if o.accY = some true then .y else .x

/-- A row of `cpacc` into the accumulator tile. -/
def cpaccInRow (s : State) (core : Nat) (o : CopyOp) : State :=
  let k := o.row - acwRow0 o.word
  let put (t : State) (v : Row) : State := setCtx t o.cid (writeRow (ctxOf t o.cid) (accOf o) o.row v)
  if acwPlane o.word then
    let va := posAdd o.va (512 * k)
    match translate s (rowReq s o va 512 4 false none) with
    | .ok acc =>
      let cls := readClass s o.cid o.seq acc
      let r := copyRead s core o acc
      if cls ≠ 0 then rowFails r.1 core o (readTrap va cls) else rowDone (put r.1 (rowOfBytes r.2)) core o
    | f => rowFault s core o va f
  else match badWord (coreOf s core) (copyWords (coreOf s core) o) with
    | some b => rowMeetsBad s core o b
    | none =>
      rowDone (put (noteWords s core (copyWords (coreOf s core) o) (some o.cid)) (spadRow (coreOf s core) (32 * o.slot + k))) core o

/-- A row of `cpacc` out of it. -/
def cpaccOutRow (s : State) (core : Nat) (o : CopyOp) : State :=
  let k := o.row - acwRow0 o.word
  let v := (readRow (ctxOf s o.cid) (accOf o) o.row).bits
  if acwPlane o.word then
    let va := posAdd o.va (512 * k)
    match translate s (rowReq s o va 512 4 true none) with
    | .ok acc => rowDone s core { o with outs := o.outs ++ [(va, rowBytes v, acc)] }
    | f => rowFault s core o va f
  else rowDone (setCore s core (putSpad (coreOf s core) (32 * o.slot + k) v)) core o

/-- A row of `cpfill`. -/
def cpfillRow (s : State) (core : Nat) (o : CopyOp) : State :=
  let v := rowOfLanes 32 (List.replicate 128 (field o.word.toNat 0 32))
  rowDone (setCore s core (putSpad (coreOf s core) (32 * o.slot + o.row) v)) core o

/-- Position bytes that 32 bytes of the plane of an address cover. -/
def imageStep (s : State) (core asid : Nat) (va : Word) : Nat :=
  match lookupPage s (.copy core 0) asid (field va.toNat 0 60) with
  | .found _ _ rpd =>
    let d := descOf rpd (field va.toNat 60 4)
    if field va.toNat 60 4 = 0 then 32 else 256 / dBits d * 2 ^ dGran d * width0 rpd
  | _ => 32

/-- The next 32 bytes of a bank image; its header gives its length (R180, R271). -/
def cwtwRow (s : State) (core : Nat) (o : CopyOp) : State :=
  let va := posAdd o.va (o.row * imageStep s core (asidOf (ctxOf s o.cid)) o.va)
  match translate s (rowReq s o va 32 32 false none) with
  | .ok acc =>
    let cls := readClass s o.cid o.seq acc
    let r := copyRead s core o acc
    if cls ≠ 0 then rowFails r.1 core o (readTrap va cls)
    else
      let data := o.data ++ r.2
      let len := leNat ((data.drop 4).take 4)
      setHead r.1 core { o with data := data, row := o.row + 1, nrows := if 16384 < len then 1 else max 1 ((len + 31) / 32) }
  | f => rowFault s core o va f

/-- A word of a control-word entry is uncorrectable (R411). -/
def entryBad (c : Ctx) (i : Nat) : Bool := c.cwtBad.any (fun w => w / 4 == i)

/-- A read of a control-word entry corrects a single wrong bit of each of its words and records it (R411). -/
def noteEntry (s : State) (cid i : Nat) : State :=
  let c := ctxOf s cid
  (c.cwtOne.filter (fun w => w / 4 == i)).foldl
    (fun t _ => recordError t (.core (cid / 4)) true { kind := 0, addr := i, cid := some cid })
    (if c.cwtOne.any (fun w => w / 4 == i) then setCtx s cid { c with cwtOne := c.cwtOne.filter (fun w => w / 4 != i) } else s)

/-- A control-word entry to memory (R272). -/
def cwtrRow (s : State) (core : Nat) (o : CopyOp) : State :=
  let c := ctxOf s o.cid
  match translate s (rowReq s o o.va 32 32 true none) with
  | .ok acc =>
    if entryBad c o.word.toNat then
      rowFails (recordError s (.core core) false { kind := 9, addr := o.word.toNat, cid := some o.cid }) core o
        { cause := 0x15, code := 9, addr := o.word }
    else rowDone (noteEntry s o.cid o.word.toNat) core { o with outs := [(o.va, leBytes 32 (fget c.cwt o.word.toNat 0).toNat, acc)] }
  | f => rowFault s core o o.va f

/-! ### COPY nodes (R31) -/

/-- A node of the harbour fails its launch; none of its successors is decremented (R36). -/
def failNode (s : State) (n : Nat) : State :=
  match fget? s.nodes n with
  | none => s
  | some nd =>
    let s1 := { s with nodes := fset s.nodes n { nd with state := .done } }
    match fget? s1.launches nd.launch with
    | none => s1
    | some l => { s1 with launches := fset s1.launches nd.launch { l with failed := true } }

/-- The planes of a mask. -/
def planesOf (mask : Nat) : List Nat := (List.range 16).filter (bitAt mask)

/-- Position bytes that one 512-byte piece of plane p covers, and the bytes of plane p for len position bytes. -/
def nodeShape (s : State) (core asid p pos len : Nat) : Nat × Nat :=
  match lookupPage s (.copy core 0) asid pos with
  | .found _ _ rpd =>
    let d := descOf rpd p
    if p = 0 then (512, len)
    else (4096 / dBits d * 2 ^ dGran d * width0 rpd,
      (len * dBits d + 8 * width0 rpd * 2 ^ dGran d - 1) / (8 * width0 rpd * 2 ^ dGran d))
  | _ => (512, len)

/-- The pieces of a COPY node: (plane, piece, bytes). -/
def nodePieces (s : State) (core asid pos len mask : Nat) : List (Nat × Nat × Nat) :=
  (planesOf mask).flatMap (fun p =>
    let n := (nodeShape s core asid p pos len).2
    (List.range ((n + 511) / 512)).map (fun k => (p, k, min 512 (n - 512 * k))))

/-- A request for the harbour in an address space (R31, R33). -/
def hubReq (cache : CacheId) (asid : Nat) (va : Word) (n align : Nat) (write : Bool) : AccessReq :=
  { cache := cache, asid := asid, va := va, n := n, align := align, write := write, ctx := false }

/-- The address of a piece in a plane. -/
def pieceVa (s : State) (core asid p : Nat) (base : Word) (k len : Nat) : Word :=
  let pos := field base.toNat 0 60
  posAdd (BitVec.ofNat 64 (p * 2 ^ 60 + pos)) (k * (nodeShape s core asid p pos len).1)

/-- The ASID of a node's launch. -/
def nodeAsid (s : State) (n : Nat) : Nat :=
  ((fget? s.nodes n).bind (fun nd => (fget? s.launches nd.launch).map (·.asid))).getD 0

/-- The length and plane mask of a COPY node. -/
def nodeLen (s : State) (n : Nat) : Nat × Nat :=
  match fget? s.nodes n with
  | some nd => (match nd.kind with | .copy _ _ len mask => (len, mask) | _ => (0, 0))
  | none => (0, 0)

/-- A piece that does not translate, recorded in its pipe (R400): held, or the launch fails. -/
def nodeFault (s : State) (core : Nat) (o : CopyOp) (va : Word) (x : Xlate) : State :=
  match x with
  | .notPresent k => startPageIn (setHead (recordPipe s core o va 0 0) core { o with held := some k }) k
  | .trap t =>
    failNode (popCopy (noteFailed (recordPipe s core o va t.cause t.qual) (.copy core (o.row % 2)) (nodeAsid s o.word.toNat) t) core) o.word.toNat
  | .ok _ => s

/-- A piece that fails a check: the launch fails (R36, R65, R410). -/
def nodeFails (s : State) (core : Nat) (o : CopyOp) (va : Word) (t : TrapInfo) : State :=
  failNode (popCopy (recordPipe s core o va t.cause t.code) core) o.word.toNat

/-- A store over spans fails its colour check (R65, R409). -/
def tagBad (s : State) (spans : List (Nat × Nat)) (colour : Nat) : Bool :=
  (spanSectors spans).any (fun k => sectorClass s k colour == .tag)

/-- A piece of a COPY node: the core's copy engine reads as an observer of its group (R31, R76, R79), and what it writes performs
as the hub's write, at package scope: it waits until the stores that it reads have performed there, and those that cover a part of a unit
that it writes (R78.5, R79). A read or a write that fails its check fails the launch (R36, R65, R410). -/
def nodeRow (s : State) (core : Nat) (o : CopyOp) : State :=
  let n := o.word.toNat
  let asid := nodeAsid s n
  let (len, mask) := nodeLen s n
  match (nodePieces s core asid (field o.va.toNat 0 60) len mask)[o.row]? with
  | none => setHead s core { o with row := o.nrows }
  | some (p, k, m) =>
    let c : CacheId := .copy core (o.row % 2)
    let va := pieceVa s core asid p o.va k len
    let vb := pieceVa s core asid p o.word2 k len
    match translate s (hubReq c asid va m 1 false) with
    | .ok a =>
      match translate s (hubReq c asid vb m 1 true) with
      | .ok b =>
        let cls := readClass s (4 * core) 0 a
        let s0 := { recordRead (seenSectors (noteWalks (noteWalks s c core a) c core b) (4 * core) 0) (accSpans a) a.colour none
          with sectors := s.sectors }
        if halfSeen s (accSpans b) || !(accReads s (4 * core) 0 a).isEmpty then s
        else if cls ≠ 0 then nodeFails s0 core o va (readTrap va cls)
        else if tagBad s0 (accSpans b) b.colour then nodeFails (recordRead s0 (accSpans b) b.colour none) core o vb (readTrap vb 1)
        else
          let r := answers s0 a []
          let s1 := (splitParts b.parts (accBytes s (4 * core) 0 a r.2)).foldl (fun t (q : Part × List Byte) =>
            match q.1.frame with | some f => hubWrite t f b.colour q.2 | none => t) r.1
          setHead s1 core { o with row := o.row + 1 }
      | f => nodeFault s core o vb f
    | f => nodeFault s core o va f

/-! ### Events -/

/-- The row that a copy transfers next. -/
def copyRow (s : State) (core : Nat) (o : CopyOp) : State :=
  match o.kind with
  | .cpin => cpinRow s core o
  | .cpout => cpoutRow s core o
  | .cpaccIn => cpaccInRow s core o
  | .cpaccOut => cpaccOutRow s core o
  | .cpfill => cpfillRow s core o
  | .cwtw => cwtwRow s core o
  | .cwtr => cwtrRow s core o
  | .node => nodeRow s core o
  | .chsnd => s

/-- COPY_ROW: the head of the copy queue, once started and not held, transfers its next row (R258, R400), in a cycle in which
no bank of the row is taken (R127). -/
def execCopyRow (core : Nat) (s : State) : Out :=
  match (coreOf s core).cqueue with
  | [] => .next s
  | o :: _ =>
    let k := coreOf s core
    let bs := wordBanks (copyWords k o)
    if s.cold.hbmHold || s.cold.pause || copyHeld s core || !o.started || o.held.isSome || o.nrows ≤ o.row || bs.any (bankTaken k k.cycle) then .next s
    else .next (copyRow (if bs.isEmpty then s else setCore s core (useBanks k bs 1 false)) core o)

end Sys2Proof.Machine
end

