-- ==== Sys2Proof/Machine/Channel.lean ====
section
/-! DEFINITION. Channels: posting a slot, sending words, delivery, head latches (R45, R86, R147 to R152, R189, R263 to
R265), and the start of a queued copy. -/

namespace Sys2Proof.Machine

/-! ### Channel entries (R147) -/

def eDepth (e : Word) : Nat := field e.toNat 1 4 + 1
def eType (e : Word) : Nat := field e.toNat 5 3
def eRows (e : Word) : Nat := field e.toNat 8 5 + 1
def eCtx (e : Word) : Nat := field e.toNat 13 2
def eExpect (e : Word) : Nat := field e.toNat 15 20

/-- The channel exists and none of its fields is invalid. -/
def entryOk (e : Word) : Bool := e.getLsbD 0 && eType e < 5 && eExpect e != 0

def chanOf (s : State) (core ch : Nat) : Chan := fget (coreOf s core).chans ch {}

def setChan (s : State) (core ch : Nat) (x : Chan) : State :=
  setCore s core { coreOf s core with chans := fset (coreOf s core).chans ch x }

/-- The fill slot: the oldest posted slot that is not complete (R148). One that waits for its poster's segment takes
no words yet (R152). -/
def fillSlot (x : Chan) : Option Posted :=
  match x.posted.find? (fun p => !p.ready) with
  | some p => if p.waits then none else some p
  | none => none

/-! ### Check bits of the table (R411) -/

/-- An uncorrectable entry is an error of kind 8 at the bundle that reads it (log 73). -/
def chanErr (x : Chan) (ch : Nat) : List (Nat × Nat) := if x.bad then [(8, ch)] else []

/-- The entry names a channel that works, or it cannot be read. -/
def chanGood (x : Chan) : Bool := x.bad || entryOk x.entry

/-- A read of an entry corrects its single wrong bit and records it. -/
def noteChan (s : State) (core ch : Nat) (cid : Nat) : State :=
  if (chanOf s core ch).one then
    recordError (setChan s core ch { chanOf s core ch with one := false }) (.core core) true { kind := 0, addr := ch, cid := some cid }
  else s

/-! ### chpost (R148, R263) -/

/-- chpost acts at issue; in an open segment it waits for the segment's end (R152). -/
def chpostPlan (o : Fields) (s : State) (tile : TileArg) : Plan :=
  match srcA s o with
  | none => illegalPlan
  | some a =>
    let core := myCore s
    let ch := field a.v.toNat 0 6
    let keep := bitAt a.v.toNat 6
    let x := chanOf s core ch
    let ok := a.v.toNat / 2 ^ 7 == 0 && chanGood x && (x.bad || eCtx x.entry == s.cur % 4)
    let srcs := a :: tile.srcs
    let t0 : TileRef := .slot tile.n
    if !cpOk s o || o.dst != 0 || !tile.ok || (allFull srcs && !ok) then illegalPlan
    else {
      emptyTrap := anyEmptyTrap srcs
      errs := if allFull srcs then chanErr x ch else []
      blocks := emptyWaits srcs
        ++ (if allFull srcs && decide (eDepth x.entry ≤ x.posted.length) then [.chanDepth ch] else [])
        ++ (if o.bta then [] else if tileHeld s t0 then [.tile t0] else [])
      stop := tilesStop s [t0] o.bta
      effect := fun t' =>
        let t := noteChan t' core ch t'.cur
        let inSeg := (me t).seg.isSome
        let t1 := giveTiles t t.cur [t0] .channel
        let k := coreOf t1 core
        let t2 := if keep || inSeg then t1 else setCore t1 core (freshSlots { k with spad := zeroSlot k.spad tile.n } [tile.n])
        let y := chanOf t2 core ch
        setChan t2 core ch { y with posted := y.posted ++
          [{ slot := tile.n, count := 0, ready := false, waits := inSeg, zero := inSeg && !keep }] } }

def planChpost (o : Fields) (s : State) : Plan := chpostPlan o s (tileK o)

/-- `chpost` alone in its bundle. -/
def execChpost (o : Fields) (s : State) : Out := .next (issueAlone o 0x05 (fun _ => planChpost o) s)

def planChpostReg (o : Fields) (s : State) : Plan := chpostPlan o s (tileReg s o)

/-- `chpost` with its tile in a register, alone in its bundle. -/
def execChpostReg (o : Fields) (s : State) : Out := .next (issueAlone o 0x45 (fun _ => planChpostReg o) s)

/-! ### chsnd (R149, R150, R264) -/

/-- The destination and send words of a `chsnd`: channel, receiving core; words, offset. -/
def dChan (v : Word) : Nat := field v.toNat 0 6
def dCore (v : Word) : Nat := field v.toNat 6 9
def sWords (v : Word) : Nat := field v.toNat 0 13
def sOff (v : Word) : Nat := field v.toNat 13 12

/-- The checks of R264 at issue. -/
def sendOk (s : State) (dst snd : Word) : Bool :=
  dst.toNat / 2 ^ 15 == 0 && snd.toNat / 2 ^ 25 == 0 && decide (dCore dst < Config.nCores)
    && sWords snd != 0 && decide (sOff snd + sWords snd ≤ 4096) && chanGood (chanOf s (dCore dst) (dChan dst))

/-- chsnd. -/
def chsndPlan (o : Fields) (s : State) (tile : TileArg) : Plan :=
  match srcA s o with
  | none => illegalPlan
  | some a =>
    let d := wordD s o
    let srcs := [a, d] ++ tile.srcs
    copyPlan s o (wordCode o && tile.ok && (!allFull srcs || sendOk s a.v d.v)) srcs
      (if allFull srcs then chanErr (chanOf s (dCore a.v) (dChan a.v)) (dChan a.v) else []) [.slot tile.n]
      (fun t => queueCopy (noteChan t (dCore a.v) (dChan a.v) t.cur)
        { id := 0, cid := 0, kind := .chsnd, va := 0, word := d.v, word2 := a.v, slot := tile.n, nslots := 1
          row := 0, nrows := 1, rowBytes := 512 })

def planChsnd (o : Fields) (s : State) : Plan := chsndPlan o s (tileK o)

/-- `chsnd` alone in its bundle. -/
def execChsnd (o : Fields) (s : State) : Out := .next (issueAlone o 0x06 (fun _ => planChsnd o) s)

def planChsndReg (o : Fields) (s : State) : Plan := chsndPlan o s (tileReg s o)

/-- `chsnd` with its tile in a register, alone in its bundle. -/
def execChsndReg (o : Fields) (s : State) : Out := .next (issueAlone o 0x46 (fun _ => planChsndReg o) s)

/-! ### chq (R265) -/

/-- Send-wait entries of a channel over the cores of the module. -/
def waitingSends (s : State) (core ch : Nat) : Nat :=
  (s.cores.flatMap (fun e => e.2.sendWait.filter (fun o => dCore o.word2 == core && dChan o.word2 == ch))).length

/-- The report on a channel (R265). DESIGN CHOICE (log 104): WAITQ shows 15 for more than 15 entries. -/
def chanReport (s : State) (core ch : Nat) : Word :=
  let x := chanOf s core ch
  BitVec.ofNat 64
    (x.posted.length % 32 + (x.posted.filter (·.ready)).length % 32 * 2 ^ 5 + (if x.ovr then 2 ^ 10 else 0)
      + (match fillSlot x with | some p => p.count % 2 ^ 20 | none => 0) * 2 ^ 11 + min (waitingSends s core ch) 15 * 2 ^ 31)

/-- chq of a channel of the issuing core: the report lands after 2 cycles and the read clears OVR. -/
def planChq (o : Fields) (s : State) : Plan :=
  match srcA s o with
  | none => illegalPlan
  | some a =>
    let ch := field a.v.toNat 0 6
    let v := chanReport s (myCore s) ch
    let p := scalarPlan s (cpOk s o && decide (shortK o = 0)) o.dst.toNat 2 [a] v (rho v)
    { p with
      errs := p.errs ++ (if a.full then chanErr (chanOf s (myCore s) ch) ch else [])
      effect := fun t =>
        let t1 := noteChan (p.effect t) (myCore t) ch t.cur
        setChan t1 (myCore t1) ch { chanOf t1 (myCore t1) ch with ovr := false } }

/-- `chq` alone in its bundle. -/
def execChq (o : Fields) (s : State) : Out := .next (issueAlone o 0x07 (fun _ => planChq o) s)

/-- chq of a head latch: the oldest ready slot; an empty latch blocks, or traps with BTA 1. -/
def planChqLatch (o : Fields) (s : State) : Plan :=
  let k := shortK o - 8
  let q := latchReady (me s) k
  let v := BitVec.ofNat 64 (q.headD 0)
  let p := scalarPlan s (cpOk s o && o.srca == 0 && decide (8 ≤ shortK o && shortK o < 16)) o.dst.toNat 2 [] v (rho v)
  { p with
    emptyTrap := q.isEmpty && o.bta
    blocks := (if q.isEmpty then [.latch k] else []) ++ p.blocks }

/-- `chq` of a latch alone in its bundle. -/
def execChqLatch (o : Fields) (s : State) : Out := .next (issueAlone o 0x07 (fun _ => planChqLatch o) s)

/-! ### Starting a queued operation (R45, R150) -/

/-- An earlier send of the channel waits in the core's send-wait buffer, which keeps their order. -/
def sendAhead (core : Core) (o : CopyOp) : Bool :=
  core.sendWait.any (fun w => dChan w.word2 == dChan o.word2 && dCore w.word2 == dCore o.word2)

/-- A copy reads after every earlier load of its context has performed (R85). -/
def loadsAhead (s : State) (o : CopyOp) : Bool :=
  s.loads.any (fun l => l.cid == o.cid && decide (l.seq < o.seq) && isLocal l.acc && l.sample.isNone)

/-- Start the head of a queue. -/
def startCopy (s : State) (core : Nat) (o : CopyOp) : State :=
  let k := coreOf s core
  if o.kind = .chsnd && ((fillSlot (chanOf s (dCore o.word2) (dChan o.word2))).isNone || sendAhead k o) then
    if k.sendWait.length < Config.sendWaitDepth then
      setCore s core { k with cqueue := k.cqueue.drop 1, sendWait := k.sendWait ++ [{ o with started := true }] }
    else s
  else setHead s core { o with started := true }

/-- COPY_START: the head of the queue starts, once its segment has ended, the earlier loads of its context have performed, and
so has what the context had issued to its accumulator tile (R85). -/
def execCopyStart (core : Nat) (s : State) : Out :=
  match (coreOf s core).cqueue with
  | [] => .next s
  | o :: _ =>
    if s.cold.pause || copyHeld s core || o.started || o.waits || loadsAhead s o || !handedOver s o.cid (copyTiles o) then .next s
    else .next (startCopy (landReady s o.cid) core o)

/-! ### Delivery (R149 to R151) -/

/-- A word combined with the word in the slot, as ETYPE gives. -/
def combineWord (etype old new : Nat) : Nat :=
  if etype = 1 then fp32 (xadd false (decodeNum 1 old) (decodeNum 1 new))
  else if etype = 2 then
    roundEncode 2 0 0 false (xadd false (decodeNum 2 (old % 65536)) (decodeNum 2 (new % 65536)))
      + 65536 * roundEncode 2 0 0 false (xadd false (decodeNum 2 (old / 65536)) (decodeNum 2 (new / 65536)))
  else if etype = 0 then new
  else (old + new) % 2 ^ 32

/-- The words of a slot from an offset on. -/
def slotWords (core : Core) (slot off n : Nat) : List Nat :=
  (List.range n).map (fun k => spadBits core (16384 * slot + 4 * (off + k)) 32)

/-- Combine words into a slot from an offset on. -/
def combineInto (core : Core) (etype slot off : Nat) (ws : List Nat) : Core :=
  ws.zipIdx.foldl (fun k (w, i) =>
    let a := 16384 * slot + 4 * (off + i)
    putSpadBits k a 32 (combineWord etype (spadBits k a 32) w)) core

/-- A completed slot goes to the receiver's latch: to the latches of the saved context where the slot is its task's and it binds
the channel (R151, R152). -/
def pushLatch (s : State) (core ch slot : Nat) (x : Chan) : State :=
  match x.latch with
  | none => s
  | some k =>
    let cid := 4 * core + eCtx x.entry
    let push (c : Ctx) : Ctx := { c with latches := fset c.latches k (ch, (fget c.latches k (ch, [])).2 ++ [slot]) }
    match s.saved.find? (fun e => e.2.cid == cid && (fget? e.2.ctx.latches k).any (fun l => l.1 == ch)
        && e.2.ctx.task.any (fun t => t.slots.contains slot)) with
    | some (n, _) => changeSaved s n push
    | none => setCtx s cid (push (ctxOf s cid))

/-- Count n words into the fill slot; at EXPECT it is ready and returns to the thread (R149, R151). -/
def countWords (s : State) (core ch n : Nat) (x : Chan) (p : Posted) : State :=
  let p1 := { p with count := p.count + n, ready := decide (eExpect x.entry ≤ p.count + n) }
  let y := { x with
    posted := x.posted.map (fun q => if q.slot = p.slot && !q.ready then p1 else q)
    ovr := x.ovr || decide (eExpect x.entry < p.count + n) }
  let s1 := setChan s core ch y
  if p1.ready then pushLatch (setCore s1 core (setOwner (coreOf s1 core) p.slot .thread)) core ch p.slot y else s1

/-- The operation leaves the queue's head (position 0) or the send-wait buffer; its tile returns to the thread. -/
def dropSend (s : State) (core pos : Nat) (o : CopyOp) : State :=
  let k := coreOf s core
  let s1 := if pos = 0 then popCopy s core else setCore s core { k with sendWait := k.sendWait.eraseIdx (pos - 1) }
  giveTiles s1 o.cid (copyTiles o) .thread

/-- The contribution cannot be delivered: the sender takes the fault at its next bundle (R150). -/
def failSend (s : State) (core pos : Nat) (o : CopyOp) (t : TrapInfo) : State :=
  deferTrap (dropSend s core pos o) o.cid { t with copy := true }

/-- A send that meets an uncorrectable word of a slot: TINFO.ROW names the word's row (R410, R411). -/
def sendMeetsBad (s : State) (core pos bad : Nat) (o : CopyOp) (w : Nat) : State :=
  failSend (noteBad s bad w (some o.cid)) core pos o { cause := 0x15, code := 8, addr := BitVec.ofNat 64 (8 * w), row := w / 64 % 32 }

/-- The 8-byte words that hold 4-byte words of a slot from an offset on. -/
def sendWords (slot off n : Nat) : List Nat :=
  (List.range ((off + n + 1) / 2 - off / 2)).map (fun i => 2048 * slot + off / 2 + i)

/-- A delivery reads its slot and writes the fill slot, a row a cycle (R127; log 71). -/
def sendBanks (s : State) (core rc : Nat) (o : CopyOp) (p : Posted) (n : Nat) : State :=
  let s1 := setCore s core (useBanks (coreOf s core) [o.slot / 4] ((n + 127) / 128) false)
  setCore s1 rc (useBanks (coreOf s1 rc) [p.slot / 4] ((n + 127) / 128) false)

/-- Deliver a contribution whole. -/
def deliver (s : State) (core pos : Nat) (o : CopyOp) (x : Chan) (p : Posted) : State :=
  let n := sWords o.word
  let off := sOff o.word
  let rc := dCore o.word2
  let src := sendWords o.slot 0 n
  let dst := sendWords p.slot off n
  if eRows x.entry * 128 < off + n then failSend s core pos o { cause := 0x13 }
  else match badWord (coreOf s core) src, (if eType x.entry = 0 then none else badWord (coreOf s rc) dst) with
    | some w, _ => sendMeetsBad s core pos core o w
    | none, some w => sendMeetsBad s core pos rc o w
    | none, none =>
      let ws := slotWords (coreOf s core) o.slot 0 n
      let s0 := noteWords (noteWords s core src (some o.cid)) rc dst (some o.cid)
      let whole := dst.filter (fun w => 4096 * p.slot + off ≤ 2 * w && 2 * w + 2 ≤ 4096 * p.slot + off + n)
      let s1 := setCore s0 rc (clearWords (combineInto (coreOf s0 rc) (eType x.entry) p.slot off ws) whole)
      dropSend (countWords (sendBanks s1 core rc o p n) rc (dChan o.word2) n x p) core pos o

/-- The send at a position: 0 is the started head of the copy queue, k + 1 the k-th send-wait entry, the first of its
channel. -/
def sendAt (k : Core) (pos : Nat) : Option CopyOp :=
  match pos with
  | 0 => k.cqueue.head?.filter (fun o => o.kind == .chsnd && o.started)
  | j + 1 => k.sendWait[j]?.filter (fun o =>
      (k.sendWait.take j).all (fun w => dChan w.word2 != dChan o.word2 || dCore w.word2 != dCore o.word2))

/-- The send does not go ahead in this cycle: a bank that it needs is taken (R127). -/
def sendHeld (s : State) (core : Nat) (o : CopyOp) (p : Posted) : Bool :=
  let k := coreOf s core
  let rk := coreOf s (dCore o.word2)
  bankTaken k k.cycle (o.slot / 4) || bankTaken rk rk.cycle (p.slot / 4)

/-- CHSND_DELIVER. A started send whose fill slot another sender has completed steps aside as one that finds none (R150). -/
def execChsndDeliver (core pos : Nat) (s : State) : Out :=
  if s.cold.pause || copyHeld s core then .next s
  else match sendAt (coreOf s core) pos with
    | none => .next s
    | some o =>
      let rc := dCore o.word2
      let x := chanOf s rc (dChan o.word2)
      if x.bad then
        .next (failSend (recordError s (.core rc) false { kind := 8, addr := dChan o.word2, cid := some o.cid }) core pos o
          { cause := 0x15, code := 8, addr := BitVec.ofNat 64 (dChan o.word2) })
      else if !entryOk x.entry then .next (failSend s core pos o { cause := 0x13 })
      else match fillSlot x with
        | none => .next (if pos = 0 then startCopy s core o else s)
        | some p =>
          if sendHeld s core o p then .next s
          else .next (deliver (noteChan s rc (dChan o.word2) o.cid) core pos o { x with one := false } p)

end Sys2Proof.Machine
end

