-- ==== Sys2Proof/Machine/Tables.lean ====
section
/-! DEFINITION. The translation tables as the Heresh service keeps them: allocation, tables and leaves, page set
entries, descriptors, regions (R53, R57, R63, R387 to R390, R443). -/

namespace Sys2Proof.Machine

/-! ### Allocation (log 14) -/

/-- The next free byte of a stack, at an alignment; numbers from 8 on stand for the windows of the dies (log 81). -/
def allocAt (s : State) (stack align : Nat) : Nat :=
  let first := if stack < 8 then stack * 2 ^ 36 + 0x200_0000 else 2 ^ 39 + (stack - 8) * 2 ^ 37
  (fget s.alloc stack first + align - 1) / align * align

/-- Zero bytes of HBM for the service or for a frame: clean sectors that carry a colour (R71), to which patrol scrub writes nothing
back (R428). -/
def allocate (s : State) (stack n align colour : Nat) : State × Nat :=
  let a := allocAt s stack align
  ({ s with
     alloc := fset s.alloc stack (a + n)
     mem := memZero s.mem a (a + n)
     sectors := s.sectors.filter (fun e => 32 * e.1 < a / 32 * 32 || a + n ≤ 32 * e.1)
     cold := { s.cold with scrubs := s.cold.scrubs.filter (fun k => 32 * k < a / 32 * 32 || a + n ≤ 32 * k) }
     colours := if colour = 0 then s.colours else (a, a + n, colour) :: s.colours }, a)

/-- A frame goes out of use. -/
def freeFrame (s : State) (a : Nat) : State := { s with colours := s.colours.filter (fun e => e.1 != a) }

/-- Replace w bits of a number. -/
def putField (v pos w x : Nat) : Nat := v - field v pos w * 2 ^ pos + x % 2 ^ w * 2 ^ pos

/-- Write a little-endian number of n bytes of the tables: a store as to its sectors' check state and their write-backs (R409, R428). -/
def putNat (s : State) (a n v : Nat) : State :=
  let hit (k : Nat) : Bool := (sectorsOf a n).contains k
  let part (k : Nat) : PStore :=
    { id := 0, cid := 0, seq := 0, addr := 32 * k, bytes := [], colour := 0, va := 0, keys := []
      cover := decide (a ≤ 32 * k ∧ 32 * k + 32 ≤ a + n) }
  { s with
    mem := memPutAll s.mem a (leBytes n v)
    sectors := s.sectors.map (fun e => if hit e.1 then (e.1, sectorAfterStore s e.1 (part e.1)) else e)
    cold := { s.cold with scrubs := s.cold.scrubs.filter (fun k => !hit k) } }

/-! ### Regions and planes -/

/-- The first position of each page of a region. -/
def regionPages (r : Region) : List Nat :=
  let size := Config.pageBytes r.psize
  (List.range ((r.hi - r.lo + size - 1) / size)).map (fun k => r.lo + k * size)

/-- The stored descriptor of a plane. -/
def descAt (s : State) (r : Region) (p : Nat) : Nat := memNat s.mem (r.rpd + 8 * p) 8

/-- The bytes of a plane's frame under a descriptor (R57). -/
def frameSize (s : State) (r : Region) (d : Nat) : Nat :=
  let d0 := descAt s r 0
  let w0 := if 3 ≤ dWidth d0 && dWidth d0 ≤ 6 then dBits d0 / 8 else 1
  max 64 (Config.pageBytes r.psize * dBits d / (8 * w0 * 2 ^ dGran d))

/-- The owning package of a page, with its ASID for the region (R443). -/
def ownerAt (s : State) (r : Region) (page : Nat) : Nat × Nat :=
  (r.owners[(page - r.lo) / Config.pageBytes r.psize]?).getD (r.owners.getLast?.getD (s.pkg, r.asid))

/-- A page of the plane has its frame on another package (R443). -/
def heldRemote (s : State) (r : Region) (d page : Nat) : Bool := dShared d && (ownerAt s r page).1 != s.pkg

/-- What a plane costs this package's quota: the frames that lie here (R70, R443). -/
def planeCost (s : State) (r : Region) (d : Nat) : Nat :=
  ((regionPages r).filter (fun page => !heldRemote s r d page)).length * frameSize s r d

/-- The packages that own pages of the region. -/
def regionOwners (s : State) (r : Region) : List Nat := ((regionPages r).map (fun page => (ownerAt s r page).1)).eraseDups

/-! ### Leaves and page set entries -/

/-- The leaf entry of a position and the page set entry it names. -/
def leafFrom (s : State) (pos : Nat) (levels : List Nat) (table : Nat) : Option (Nat × Nat) :=
  match levels with
  | [] => none
  | level :: rest =>
    let entry := table + 8 * tableIndex level pos
    let e := memNat s.mem entry 8
    if e % 4 = 1 then leafFrom s pos rest (e / 256 * 256)
    else if e % 4 = 2 then some (entry, e / 256 * 256)
    else none

def pageLeaf (s : State) (asid pos : Nat) : Option (Nat × Nat) :=
  let e := memNat s.mem (s.rootBase + 16 * asid) 8
  if bitAt e 0 then leafFrom s pos [1, 2, 3, 4, 5] (e / 8192 * 8192) else none

/-- The slot of a plane on the page of a position: 14 bytes of the page set entry from byte 32 + 14·P on (R389). -/
def slotAt (s : State) (asid pos p : Nat) : Nat :=
  match pageLeaf s asid pos with
  | some (_, pse) => memNat s.mem (pse + 32 + 14 * p) 14
  | none => 0

/-- Change a page: a new page set entry, then the leaf (R390). -/
def changePse (s : State) (asid pos : Nat) (f : Nat → Nat) : State :=
  match pageLeaf s asid pos with
  | none => s
  | some (entry, pse) =>
    let v := f (memNat s.mem pse 256)
    let (s1, a) := allocate s 0 256 256 0
    putNat (putNat s1 a 256 v) entry 8 (a + 2)

/-- Write the slot of a plane. -/
def setSlot (s : State) (asid pos p x : Nat) : State :=
  changePse s asid pos (fun v => putField v (256 + 112 * p) 112 x)

/-- Write a descriptor in place (R390). -/
def setDesc (s : State) (r : Region) (p d : Nat) : State := putNat s (r.rpd + 8 * p) 8 d

/-- A slot: present in a frame with a permission; paged with its backing; remote. -/
def presentSlot (frame perm : Nat) : Nat := frame / 64 + 2 ^ 42 + perm * 2 ^ 44
def pagedSlot (block perm : Nat) : Nat := 2 * 2 ^ 42 + perm * 2 ^ 44 + block * 2 ^ 48
def remoteSlot (pkg asid perm : Nat) : Nat := pkg + asid * 2 ^ 9 + 3 * 2 ^ 42 + perm * 2 ^ 44

/-- Where a plane's frame is allocated (R54, R63): its own stack, that of the page's plane-0 frame or, where plane 0 has no frame on
the page, the one that it will have (log 14), or the window over both stacks of that die (log 81). -/
def placeStack (s : State) (r : Region) (page d : Nat) : Nat :=
  if 8 ≤ dPlace d then dPlace d - 8
  else
    let x := slotAt s r.asid page 0
    let own := dPlace (descAt s r 0)
    let stack := if sState x = 1 then stackOf (sFrame x) else if 8 ≤ own then own - 8 else 0
    if dPlace d = 1 || (if sState x = 1 then decide (2 ^ 39 ≤ sFrame x) else own == 1) then 8 + stack / 2 else stack

/-- Give one page of a plane its frame: zero, present and RW, or remote (R70, R443). -/
def givePage (s : State) (r : Region) (p d page : Nat) : State :=
  if heldRemote s r d page then setSlot s r.asid page p (remoteSlot (ownerAt s r page).1 (ownerAt s r page).2 2)
  else
    let (s1, a) := allocate s (placeStack s r page d) (frameSize s r d) 64 (dColour d)
    setSlot s1 r.asid page p (presentSlot a 2)

/-- Create a plane: its descriptor and every frame. -/
def createPlane (s : State) (r : Region) (p d : Nat) : State :=
  (regionPages r).foldl (fun t page => givePage t r p d page) (setDesc s r p d)

/-- Take away a plane's frame on a page. -/
def takePage (s : State) (r : Region) (p page : Nat) : State :=
  let x := slotAt s r.asid page p
  let s1 := setSlot s r.asid page p 0
  if sState x = 1 then freeFrame s1 (sFrame x)
  else if sState x = 2 && sBacking x != 0 then { s1 with nvme := fdel s1.nvme (sBacking x) }
  else s1

/-- Delete a plane. -/
def deletePlane (s : State) (r : Region) (p : Nat) : State :=
  setDesc ((regionPages r).foldl (fun t page => takePage t r p page) s) r p 0

/-- Pages of a plane in a state. -/
def pagesIn (s : State) (r : Region) (p st : Nat) : List Nat :=
  (regionPages r).filter (fun page =>
    let d := descAt s r p
    (if dEn d then sState (slotAt s r.asid page p) else 0) = st)

/-! ### Building tables -/

/-- The size of a table, which is its alignment (R387). -/
def tableSize (level : Nat) : Nat := if level ≤ 3 then 8192 else if level = 4 then 4096 else 256

/-- Link a page set entry at a level, making the tables above it. -/
def linkLeaf (s : State) (pos pse leafLevel : Nat) (levels : List Nat) (table : Nat) : State :=
  match levels with
  | [] => s
  | level :: rest =>
    let entry := table + 8 * tableIndex level pos
    let e := memNat s.mem entry 8
    if level = leafLevel then putNat s entry 8 (pse + 2)
    else if e % 4 = 1 then linkLeaf s pos pse leafLevel rest (e / 256 * 256)
    else
      let (s1, t) := allocate s 0 (tableSize (level + 1)) (tableSize (level + 1)) 0
      linkLeaf (putNat s1 entry 8 (t + 1)) pos pse leafLevel rest t

/-- The root entry of an ASID with its level-1 table. -/
def openRoot (s : State) (asid gen : Nat) : State × Nat :=
  let root := s.rootBase + 16 * asid
  let e := memNat s.mem root 8
  if bitAt e 0 then (s, e / 8192 * 8192)
  else
    let (s1, t) := allocate s 0 8192 8192 0
    (putNat (putNat s1 root 8 (t + 1)) (root + 8) 8 (gen % 2 ^ 16), t)

/-- A new page set entry with no plane (R389). -/
def newPse (r : Region) : Nat :=
  r.lo + r.hi * 2 ^ 64 + r.rpd * 2 ^ 128
    + (1 + r.psize * 2 + r.asid * 2 ^ 3
        + (match r.sgid with | some g => g % 64 * 2 ^ 17 + 2 ^ 23 | none => 0) + r.ceil.toNat * 2 ^ 32) * 2 ^ 192

/-- Enter one page of a region into the tables. -/
def enterPage (s : State) (r : Region) (gen page : Nat) : State :=
  let (s1, pse) := allocate s 0 256 256 0
  let (s2, t) := openRoot (putNat s1 pse 256 (newPse r)) r.asid gen
  linkLeaf s2 page pse (5 - r.psize) [1, 2, 3, 4, 5] t

/-- Enter a region: its page descriptor, its pages, then each plane of its descriptors with EN = 1. -/
def enterRegion (s : State) (r : Region) (gen : Nat) (descs : List Nat) : State × Region :=
  let (s1, rpd) := allocate s 0 128 128 0
  let r1 := { r with rpd := rpd }
  let s2 := (regionPages r1).foldl (fun t page => enterPage t r1 gen page) s1
  ((descs.zipIdx.filter (fun e => dEn e.1)).foldl (fun t e => createPlane t r1 e.2 e.1) s2, r1)

end Sys2Proof.Machine
end

