-- ==== Sys2Proof/Machine/Reply.lean ====
section
/-! DEFINITION. Replies of the Heresh service, to a context or into a mailbox (R373, R377), and stores by the hub. -/

namespace Sys2Proof.Machine

/-- Write bytes at an address of a space as the hub does; false where the address does not translate. -/
def hubStore (s : State) (asid : Nat) (va : Word) (bs : List Byte) : State × Bool :=
  match translate s (hubReq .hub asid va bs.length 1 true) with
  | .ok acc =>
    ((splitParts acc.parts bs).foldl (fun t (q : Part × List Byte) =>
      match q.1.frame with | some f => hubWrite t f acc.colour q.2 | none => t) (noteHubWalks s acc), true)
  | .trap t => (noteFailed s .hub asid t, false)
  | .notPresent k => (startPageIn s k, false)

/-- Write bytes into a plane of a region from an offset on, whatever its permission: the service's own store. Pages that
are not present here are left. -/
def putPlane (s : State) (r : Region) (p off : Nat) (bs : List Byte) : State :=
  let size := frameSize s r (descAt s r p)
  ((regionPages r).zipIdx).foldl (fun (t : State) (e : Nat × Nat) =>
    let x := slotAt t r.asid e.1 p
    let lo := max off (e.2 * size)
    let hi := min (off + bs.length) ((e.2 + 1) * size)
    if sState x = 1 ∧ lo < hi then
      hubWrite t (sFrame x + (lo - e.2 * size)) (dColour (descAt t r p)) ((bs.drop (lo - off)).take (hi - lo))
    else t) s

/-- The bytes of a reply (R373). -/
def replyBytes (op : Nat) (rid : Word) (status : Nat) (result : Word) (body : List Byte) : List Byte :=
  leBytes 2 0x4845 ++ leBytes 1 1 ++ leBytes 1 op ++ leBytes 4 (32 + body.length) ++ leBytes 8 rid.toNat ++ leBytes 4 status
    ++ leBytes 4 0 ++ leBytes 8 result.toNat ++ body

/-- What the hub is to write is a unit of which another observer's store covers a part and has performed in its core group alone: the hub
writes after it (R78.5). -/
def hubBusy (s : State) (asid : Nat) (va : Word) (n : Nat) : Bool :=
  match translate s (hubReq .hub asid va n 1 true) with | .ok acc => halfSeen s (accSpans acc) | _ => false

/-- There is such a store to the mailbox that a reply goes to. -/
def boxBusy (s : State) (h : ReqHead) : Bool :=
  match h.box with
  | none => false
  | some (asid, _) => s.wbuf.any (fun q => isData q && q.grp && decide (q.bytes.length < 4)
      && q.keys.any (fun k => k.asid == asid && k.page == (fget s.asids asid {}).mailbox.toNat))

/-- Answer a request: a message to its context, or over the request in the mailbox, STATUS last (R377). -/
def sendReply (s : State) (h : ReqHead) (op status : Nat) (result : Word) (body : List Byte) : State :=
  match h.box with
  | none => { s with replies := s.replies ++ [{ job := h.job, rid := h.rid, status := status, result := result, body := body }] }
  | some (asid, off) =>
    let at' := (fget s.asids asid {}).mailbox + BitVec.ofNat 64 off
    let bs := replyBytes op h.rid status result body
    let s1 := (hubStore s asid at' (bs.take 16)).1
    let s2 := (hubStore s1 asid (at' + 20) (bs.drop 20)).1
    (hubStore s2 asid (at' + 16) ((bs.drop 16).take 4)).1

/-- OP of a PLANE request (R374). -/
def opPlane : Nat := 0x04

end Sys2Proof.Machine
end

