-- ==== Sys2Proof/Machine/Plane.lean ====
section
/-! DEFINITION. Plane instructions, invalidation and its commit point, translation caches, and paging (R66, R68 to
R74, R266, R267, R392 to R394). -/

namespace Sys2Proof.Machine

/-! ### Status codes (R266) -/

/-- The result of a plane instruction. -/
def planeResult (code : Nat) : Word := if code = 0 then 0 else BitVec.ofNat 64 (0x8000_0000_0000_0000 + code)

def planeOf (va : Word) : Nat := field va.toNat 60 4
def posOf (va : Word) : Nat := field va.toNat 0 60

def asidRec (s : State) (asid : Nat) : AsidRec := fget s.asids asid {}

/-- May a plane be created? Where several codes apply the order is 4, 2, 3, 1 (log 79). -/
def plnewCode (s : State) (r : Region) (p d : Nat) : Nat :=
  if p = 0 then 4
  else if dEn (descAt s r p) then 2
  else if !dEn d || dPin d || !descValid p d || (dShared d && r.sgid.isNone) then 3
  else if (asidRec s r.asid).planeQuota < planeCost s r d then 1 else 0

def pldelCode (s : State) (r : Region) (p : Nat) : Nat :=
  if p = 0 then 4 else if !dEn (descAt s r p) then 6 else 0

/-- The pages of a `plprot`: `count` from the page of a position, or all to the end. -/
def protPages (r : Region) (pos count : Nat) : List Nat :=
  let size := Config.pageBytes r.psize
  let ps := (regionPages r).filter (fun page => pos < page + size)
  if count = 0 then ps else ps.take count

/-- May permissions be set? Where several codes apply the order is 6, 3, 7, 9 (log 79). -/
def plprotCode (s : State) (r : Region) (p perm pos count : Nat) : Nat :=
  if !dEn (descAt s r p) then 6
  else if perm = 3 then 3
  else if field r.ceil.toNat (2 * p) 2 < perm then 7
  else if (protPages r pos 0).length < count then 9 else 0

def plpinCode (s : State) (r : Region) (p : Nat) (pin : Bool) : Nat :=
  let d := descAt s r p
  if !dEn d then 6
  else if pin && !dPin d && (asidRec s r.asid).pinQuota < planeCost s r d then 8 else 0

/-! ### Invalidations (R393) -/

/-- The positions that an invalidation names: of one ASID, or of every one. -/
def changeRange (s : State) (c : Change) : Option Nat × Nat × Nat :=
  let ofRegion (n : Nat) : Option Nat × Nat × Nat :=
    match fget? s.regions n with | some r => (some r.asid, r.lo, r.hi) | none => (some 0, 0, 0)
  let ofKey (k : PageKey) : Option Nat × Nat × Nat :=
    match regionAt s k.asid k.page with
    | some (_, r) => (some k.asid, k.page, k.page + Config.pageBytes r.psize)
    | none => (some k.asid, k.page, k.page)
  match c with
  | .plnew n _ _ => ofRegion n
  | .pldel n _ => ofRegion n
  | .plprot n .. => ofRegion n
  | .plpin n _ _ => ofRegion n
  | .descriptor n _ _ => ofRegion n
  | .paged k => ofKey k
  | .present k => ofKey k
  | .lost k => ofKey k
  | .asid a => (some a, 0, 2 ^ 60)
  | .pages a lo hi => (some a, lo, hi)
  | .every => (none, 0, 2 ^ 60)

def inRange (r : Option Nat × Nat × Nat) (asid pos : Nat) : Bool :=
  (match r.1 with | some a => a == asid | none => true) && r.2.1 ≤ pos && pos < r.2.2

/-- The core whose pipes a cache serves. -/
def cacheCore (c : CacheId) : Option Nat := match c with | .thread n => some n | .copy n _ => some n | _ => none

/-- A context has an access in a range, translated and not yet performed at pkg scope. -/
def ctxBusy (s : State) (r : Option Nat × Nat × Nat) (cid : Nat) : Bool :=
  let c := ctxOf s cid
  let hit (k : PageKey) : Bool := inRange r k.asid k.page
  s.loads.any (fun l => l.cid == cid && l.sample.isNone && !l.held && l.acc.parts.any (fun p => hit p.key))
    || s.wbuf.any (fun p => p.cid == cid && p.keys.any hit)
    || (match c.seg with
        | some g => g.stores.any (fun p => p.keys.any hit) || g.dwrites.any (fun d => inRange r (asidOf c) (posOf d.2.va))
        | none => false)

/-- A copy operation holds stores in a range that are not yet placed. -/
def copyBusy (s : State) (r : Option Nat × Nat × Nat) (core : Nat) : Bool :=
  (coreOf s core).cqueue.any (fun o => o.outs.any (fun e => e.2.2.parts.any (fun p => inRange r p.key.asid p.key.page)))

/-- A core has such an access. -/
def coreBusy (s : State) (r : Option Nat × Nat × Nat) (core : Nat) : Bool :=
  ([0, 1, 2, 3].any (fun c => ctxBusy s r (4 * core + c))) || copyBusy s r core

/-- The cores with a context or an engine in use. -/
def usedCores (s : State) : List Nat := (s.ctxs.map (fun (e : Nat × Ctx) => e.1 / 4) ++ s.cores.map (fun (e : Nat × Core) => e.1)).eraseDups

/-- An entry of a walker covers positions of a range. -/
def walkHit (r : Option Nat × Nat × Nat) (e : WalkEntry) : Bool :=
  (match r.1 with | some a => a == e.asid | none => true) && decide (e.first < r.2.2 ∧ r.2.1 < e.first + levelSpan (e.level - 1))

/-- What must acknowledge: the hub's cache, the caches and walkers with an entry in the range, and the caches of cores with
accesses in it; every other cache has nothing to drop and nothing to wait for. -/
def cachesFor (s : State) (r : Option Nat × Nat × Nat) : List CacheId :=
  ([CacheId.hub] ++ (s.caches.filter (fun e => inRange r e.asid e.page)).map (·.cache)
    ++ (s.walkers.filter (walkHit r)).map (fun e => CacheId.walker e.die)
    ++ ((usedCores s).filter (coreBusy s r)).map CacheId.thread).eraseDups

/-- The other packages of the pod. -/
def podOthers (s : State) : List Nat := (List.range s.podPkgs).filter (fun p => p != s.pkg)

/-- Start an invalidation, perhaps for requests that wait for it. One for a plane instruction, or for a region with a
pod-shared plane, goes to every package of the pod, each of which acknowledges (R393). -/
def startInvalFor (s : State) (c : Change) (pod : Bool) (reply : List ReqHead) : State :=
  let far := if pod then podOthers s else []
  let i : Inval := { id := s.nextId, reply := reply, change := c, pod := pod
                     waiting := cachesFor s (changeRange s c) ++ far.map (fun p => CacheId.member p true) }
  { s with
    nextId := s.nextId + 1
    invals := s.invals ++ [i]
    outbox := if far.isEmpty then s.outbox else s.outbox ++ [.invalidate i.id c] }

def startInval (s : State) (c : Change) (pod : Bool) : State := startInvalFor s c pod []

/-- The caches and walkers lose their entries of a range. -/
def dropCached (s : State) (r : Option Nat × Nat × Nat) (only : Option CacheId) : State :=
  let isFor (c : CacheId) : Bool := match only with | some x => c == x | none => true
  { s with
    caches := s.caches.filter (fun (e : Cached) => !(inRange r e.asid e.page && isFor e.cache))
    walkers := s.walkers.filter (fun (e : WalkEntry) => !(walkHit r e && isFor (.walker e.die))) }

/-! ### Changes at their commit point (R70 to R73) -/

def setAsid (s : State) (asid : Nat) (a : AsidRec) : State := { s with asids := fset s.asids asid a }

/-- Add to or take from an ASID's remaining quotas. -/
def chargePlane (s : State) (asid n : Nat) : State :=
  let a := asidRec s asid
  setAsid s asid { a with planeQuota := a.planeQuota - n }

def creditPlane (s : State) (asid n : Nat) : State :=
  let a := asidRec s asid
  setAsid s asid { a with planeQuota := a.planeQuota + n }

def chargePin (s : State) (asid n : Nat) : State :=
  let a := asidRec s asid
  setAsid s asid { a with pinQuota := a.pinQuota - n }

def creditPin (s : State) (asid n : Nat) : State :=
  let a := asidRec s asid
  setAsid s asid { a with pinQuota := a.pinQuota + n }

/-- A slot's permission is replaced. -/
def setPerm (s : State) (r : Region) (p perm page : Nat) : State :=
  setSlot s r.asid page p (putField (slotAt s r.asid page p) 44 2 perm)

/-- Set or clear PIN, counting the pinned bytes (R73). -/
def setPin (s : State) (r : Region) (p : Nat) (pin : Bool) : State :=
  let d := descAt s r p
  if dPin d = pin then s
  else
    let s1 := if pin then chargePin s r.asid (planeCost s r d) else creditPin s r.asid (planeCost s r d)
    setDesc s1 r p (putField d 29 1 (if pin then 1 else 0))

/-- Delete a plane, with its quota and its pinned bytes. -/
def dropPlane (s : State) (r : Region) (p : Nat) : State :=
  let d := descAt s r p
  let s1 := creditPlane (if dPin d then creditPin s r.asid (planeCost s r d) else s) r.asid (planeCost s r d)
  deletePlane s1 r p

/-- The requests that wait for the moves of a page. -/
def moveHeads (s : State) (k : PageKey) : List ReqHead := (s.moves.filter (fun m => m.key == k)).filterMap (·.reply)

/-- A page-out does not take place; a request that asked for it is refused. -/
def dropMove (s : State) (k : PageKey) : State :=
  let mine (m : PageMove) : Bool := m.key == k && !m.inward && !m.committed
  let s1 := ((s.moves.filter mine).filterMap (·.reply)).foldl (fun t h => sendReply t h opPlane 5 0 []) s
  { s1 with moves := s1.moves.filter (fun m => !mine m) }

/-- A `plpin` of a plane of a region is under way. -/
def pinning (s : State) (n p : Nat) : Bool :=
  s.invals.any (fun i => match i.change with | .plpin m q true => m == n && q == p | _ => false)

/-- A page goes to the paged state; its frame stays until the page-out is complete (R394). One whose plane by then is gone,
is pinned or being pinned, or has no backing, does not go (R66, R73). -/
def pageAway (s : State) (k : PageKey) : State :=
  match regionAt s k.asid k.page with
  | none => dropMove s k
  | some (n, r) =>
    let x := slotAt s k.asid k.page k.plane
    if sState x ≠ 1 then dropMove s k
    else if dPin (descAt s r k.plane) || dBack (descAt s r k.plane) == 2 || pinning s n k.plane then dropMove s k
    else
      let flash := dBack (descAt s r k.plane) == 0
      let s1 := setSlot s k.asid k.page k.plane (pagedSlot (if flash then s.nextBlock else 0) (sPerm x))
      { s1 with
        nextBlock := if flash then s1.nextBlock + (frameSize s r (descAt s r k.plane) + 4095) / 4096 else s1.nextBlock
        moves := s1.moves.map (fun m => if m.key = k then { m with frame := sFrame x, committed := true } else m) }

/-- The planes that a descriptor's change has made anew, plane 0 the last: the plane itself where its frames change in size or move
between packages, and every plane where plane 0's width changes, from which all frame sizes come (R57). -/
def remadePlanes (s : State) (r : Region) (p : Nat) (d : Word) : List Nat :=
  let old := descAt s r p
  if !dEn old || !dEn d.toNat then []
  else if p = 0 && dWidth old != dWidth d.toNat then ((List.range 16).filter (fun q => dEn (descAt s r q))).reverse
  else if frameSize s r old != frameSize s r d.toNat
      || (dShared old != dShared d.toNat && (regionOwners s r).any (fun q => q != s.pkg)) then [p]
  else []

/-- The descriptor of a plane once a change has been made. -/
def descAfter (s : State) (r : Region) (p : Nat) (d : Word) (q : Nat) : Nat := if q = p then d.toNat else descAt s r q

/-- Make a plane anew under a descriptor: its cost, and the pinned bytes where PIN stays set. -/
def remakePlane (r : Region) (pinned : Bool) (q d : Nat) (s : State) : State :=
  let cost := planeCost s r d
  let s1 := createPlane (if pinned && dPin d then chargePin (chargePlane s r.asid cost) r.asid cost else chargePlane s r.asid cost) r q d
  if r.code && q == 0 then (regionPages r).foldl (fun t page => setPerm t r 0 1 page) s1 else s1

/-- A PLANE request writes a descriptor directly: it creates, deletes or changes the plane; one whose frames change
in size, or move between packages, is made anew; a new COLOUR does not retag frames that stay, and a PIN set here neither charges a
quota nor brings pages in (R54, R374; log 60). A code region stays read-only (R444). -/
def putDescriptor (s : State) (r : Region) (p : Nat) (d : Word) : State :=
  let old := descAt s r p
  let qs := remadePlanes s r p d
  if dEn old && !dEn d.toNat then dropPlane s r p
  else if !dEn old && dEn d.toNat then createPlane (chargePlane s r.asid (planeCost s r d.toNat)) r p d.toNat
  else if qs.isEmpty then setDesc s r p d.toNat
  else
    let after := qs.map (fun q => (q, dPin (descAt s r q), descAfter s r p d q))
    after.reverse.foldl (fun t e => remakePlane r e.2.1 e.1 e.2.2 t) (setDesc (qs.foldl (fun t q => dropPlane t r q) s) r p d.toNat)

/-- What a descriptor's change costs the plane quota, and what it gives back. -/
def descriptorCost (s : State) (r : Region) (p : Nat) (d : Word) : Nat × Nat :=
  let qs := if (remadePlanes s r p d).isEmpty then [p] else remadePlanes s r p d
  let cost (t : State) (f : Nat → Nat) : Nat := (qs.map (fun q => if dEn (f q) then planeCost t r (f q) else 0)).foldl (· + ·) 0
  (cost (setDesc s r p d.toNat) (descAfter s r p d), cost s (descAt s r))

/-- May a PLANE request write a descriptor: a valid one, a bound region for a shared plane, quota for what it costs. -/
def descriptorCode (s : State) (r : Region) (p : Nat) (d : Word) : Nat :=
  let c := descriptorCost s r p d
  if !dEn d.toNat then (if p = 0 then 4 else 0)
  else if !descValid p d.toNat || (dShared d.toNat && r.sgid.isNone) then 3
  else if (asidRec s r.asid).planeQuota + c.2 < c.1 then 1 else 0

/-- An ASID goes out of use (R391): V of its root entry is cleared, GEN advances, its regions go. -/
def closeAsid (s : State) (asid : Nat) : State :=
  let root := s.rootBase + 16 * asid
  let gen := (asidRec s asid).gen + 1
  let rs := (s.regions.map (·.2)).filter (fun r => r.asid == asid)
  let s1 := rs.foldl (fun t r => ((List.range 16).filter (fun p => dEn (descAt t r p))).foldl (fun u p => deletePlane u r p) t) s
  let s2 := putNat (putNat s1 root 8 (memNat s1.mem root 8 / 2 * 2)) (root + 8) 8 (gen % 2 ^ 16)
  { s2 with
    regions := s2.regions.filter (fun e => e.2.asid != asid)
    images := s2.images.filter (fun e => e.2.asid != asid)
    asids := fset s2.asids asid { gen := gen } }

/-- The change takes effect; the code is that of R266. A check that another change has since made fail leaves
everything as it is. -/
def applyChange (s : State) (c : Change) : State × Nat :=
  match c with
  | .plnew n p d =>
    match fget? s.regions n with
    | none => (s, 5)
    | some r =>
      let k := plnewCode s r p d.toNat
      if k ≠ 0 then (s, k) else (createPlane (chargePlane s r.asid (planeCost s r d.toNat)) r p d.toNat, 0)
  | .pldel n p =>
    match fget? s.regions n with
    | none => (s, 5)
    | some r => let k := pldelCode s r p; if k ≠ 0 then (s, k) else (dropPlane s r p, 0)
  | .plprot n p perm first count =>
    match fget? s.regions n with
    | none => (s, 5)
    | some r =>
      let k := plprotCode s r p perm first count
      if k ≠ 0 then (s, k) else ((protPages r first count).foldl (fun t page => setPerm t r p perm page) s, 0)
  | .plpin n p pin =>
    match fget? s.regions n with
    | none => (s, 5)
    | some r => let k := plpinCode s r p pin; if k ≠ 0 then (s, k) else (setPin s r p pin, 0)
  | .descriptor n p d =>
    match fget? s.regions n with
    | none => (s, 5)
    | some r => let k := descriptorCode s r p d; if k ≠ 0 then (s, k) else (putDescriptor s r p d, 0)
  | .paged k => (pageAway s k, 0)
  | .present _ => (s, 0)
  | .lost _ => (s, 0)
  | .asid a => (closeAsid s a, 0)
  | .pages .. => (s, 0)
  | .every => (s, 0)

/-- A plane instruction's result arrives with the commit point; as a release it has its context's earlier accesses
performed by then (R74). -/
def planeDone (s : State) (inv code : Nat) : State :=
  match s.pends.find? (fun p => p.kind == .planeOp inv) with
  | none => s
  | some p =>
    arriveScalar { s with pends := s.pends.filter (fun q => q.id != p.id) } p.cid p.gen p.code (planeResult code)

/-- The accesses that the issuing context made before the instruction have performed. -/
def releaseDone (s : State) (inv : Nat) : Bool :=
  match s.pends.find? (fun p => p.kind == .planeOp inv) with
  | none => true
  | some p =>
    !s.wbuf.any (fun q => q.cid == (asContext s p.cid).cur && decide (q.id < p.id))
      && !s.loads.any (fun l => l.cid == p.cid && decide (l.id < p.id) && l.sample.isNone && isLocal l.acc)

/-- A `plpin` waits until no page of its plane is paged (R73, R267). -/
def pinnedIn (s : State) (c : Change) : Bool :=
  match c with
  | .plpin n p true => (match fget? s.regions n with | some r => (pagesIn s r p 2).isEmpty | none => true)
  | _ => true

/-- A step group has found values that memory takes at its commit, in a region with pages in a range (R34). -/
def stepBusy (s : State) (r : Option Nat × Nat × Nat) : Bool :=
  s.groups.any (fun g => !g.2.pending.isEmpty && s.regions.any (fun e => e.2.sgid == some g.2.sgid
    && (match r.1 with | some a => a == e.2.asid | none => true) && decide (e.2.lo < r.2.2 ∧ r.2.1 < e.2.hi)))

/-- The requests that an invalidation answers at its commit point. -/
def invalHeads (s : State) (i : Inval) : List ReqHead := i.reply ++ (match i.change with | .paged k => moveHeads s k | _ => [])

/-- The last acknowledgement may arrive: every access translated before has performed (R74, R393), a step's writes to the range among
them, also where a row of R333 allows
an outcome that this rules out (log 77); tables are in HBM, and are not written during an HBM timing hold (R431). -/
def mayCommit (s : State) (i : Inval) : Bool :=
  let r := changeRange s i.change
  !s.cold.hbmHold && !(usedCores s).any (coreBusy s r) && !stepBusy s r && releaseDone s i.id && pinnedIn s i.change
    && !(invalHeads s i).any (boxBusy s)

/-- The region and the plane that a change creates, where it is not there yet. -/
def creates (s : State) (c : Change) : Option (Nat × Nat) :=
  match c with
  | .plnew n p _ => some (n, p)
  | .descriptor n p d => if dEn d.toNat && !(fget? s.regions n).any (fun r => dEn (descAt s r p)) then some (n, p) else none
  | _ => none

/-- The package that started an invalidation. -/
def starter (s : State) (i : Inval) : Nat := match i.source with | some (pkg, _) => pkg | none => s.pkg

/-- Another package is creating a plane (R443; log 102). -/
def farCreates (s : State) (n p : Nat) : Bool := s.invals.any (fun j => j.source.isSome && creates s j.change == some (n, p))

/-- A plane that a `plnew` is to create is there. -/
def planeThere (s : State) (c : Change) : Bool :=
  match c with
  | .plnew n p _ => (fget? s.regions n).any (fun r => dEn (descAt s r p))
  | _ => false

/-- It is there, or another package is creating it. -/
def planeTaken (s : State) (c : Change) : Bool :=
  planeThere s c || (match c with | .plnew n p _ => farCreates s n p | _ => false)

/-- Of several packages that create one plane, the lower package goes first: the others' last acknowledgement here waits for it (R443;
log 102). -/
def behindRival (s : State) (i : Inval) : Bool :=
  (creates s i.change).isSome
    && s.invals.any (fun j => j.id != i.id && creates s j.change == creates s i.change && decide (starter s j < starter s i))

/-- The code of R266 where another package has answered that it cannot make the change: pin quota for `plpin`; for `plnew` a plane
that is there, else plane quota. -/
def shortCode (s : State) (c : Change) : Nat :=
  match c with
  | .plpin .. => 8
  | _ => if planeTaken s c then 2 else 1

/-- The commit point. Where an owner's quota falls short, nothing changes (R443). A change that went to the pod commits there at the
same point. -/
def commitInval (s : State) (i : Inval) : State :=
  let r := changeRange s i.change
  let s0 := dropCached { s with invals := s.invals.filter (fun j => j.id != i.id) } r none
  let (s1, code) := if i.short then (s0, shortCode s0 i.change) else applyChange s0 i.change
  let s2 := planeDone (if i.pod && !(podOthers s).isEmpty then { s1 with outbox := s1.outbox ++ [.podCommit i.id (code == 0)] } else s1) i.id code
  let status := match i.change with | .lost _ => 5 | _ => if code = 0 then 0 else 5
  i.reply.foldl (fun t h => sendReply t h opPlane status 0 []) s2

/-- What a change of another package takes of the plane quota and of the pin quota of a region's ASID here (R70, R73, R443). -/
def changeNeeds (s : State) (r : Region) (c : Change) : Nat × Nat :=
  match c with
  | .plnew _ _ d => (planeCost s r d.toNat, 0)
  | .descriptor _ p d => ((descriptorCost s r p d).1 - (descriptorCost s r p d).2, 0)
  | .plpin _ p true => if dEn (descAt s r p) && !dPin (descAt s r p) then (0, planeCost s r (descAt s r p)) else (0, 0)
  | _ => (0, 0)

/-- The region here that a change names. -/
def changeRegion (s : State) (c : Change) : Option Region :=
  match c with
  | .plnew n _ _ => fget? s.regions n
  | .descriptor n _ _ => fget? s.regions n
  | .plpin n _ _ => fget? s.regions n
  | _ => none

/-- The quotas of this package have room for a change (R70, R443). -/
def quotaAllows (s : State) (c : Change) : Bool :=
  match changeRegion s c with
  | some r =>
    decide ((changeNeeds s r c).1 ≤ (asidRec s r.asid).planeQuota) && decide ((changeNeeds s r c).2 ≤ (asidRec s r.asid).pinQuota)
  | none => true

/-- Every cache of this package has acknowledged an invalidation that another package started: the answer is whether this package can
make the change. The quota that the change needs is held
until its commit point (R443). -/
def answerPod (s : State) (i : Inval) : State :=
  match i.source with
  | some (pkg, n) =>
    let ok := quotaAllows s i.change && !planeThere s i.change
    let s1 : State := match changeRegion s i.change with
      | some r =>
        if ok then
          let need := changeNeeds s r i.change
          let t := chargePin (chargePlane s r.asid need.1) r.asid need.2
          { t with invals := t.invals.map (fun (x : Inval) => if x.id = i.id then { x with heldPlane := need.1, heldPin := need.2 } else x) }
        else s
      | none => s
    { s1 with outbox := s1.outbox ++ [.invalidated pkg n ok] }
  | none => s

/-- What was held for a change is free again. -/
def freeHeld (s : State) (i : Inval) : State :=
  match changeRegion s i.change with
  | some r => creditPin (creditPlane s r.asid i.heldPlane) r.asid i.heldPin
  | none => s

/-- What answers an acknowledgement's place in a list of those awaited. -/
def awaited (cache : CacheId) : CacheId := match cache with | .member p _ => .member p true | c => c

/-- The pages of the plane that a `plpin` names are brought in (R73). -/
def bringIn (s : State) (c : Change) : State :=
  match c with
  | .plpin n p true =>
    (match fget? s.regions n with
     | some r => (pagesIn s r p 2).foldl (fun t page => startPageIn t { asid := r.asid, page := page, plane := p }) s
     | none => s)
  | _ => s

/-- What the last acknowledgement of this package waits for in another package's change: a lower package's creation of the plane, and the
pages of a `plpin` that the quota allows (R73, R443). -/
def farWaits (s : State) (i : Inval) : Bool := behindRival s i || (quotaAllows s i.change && !pinnedIn s i.change)

/-- INVALIDATE_ACK: a cache or a walker has dropped its entries and its accesses have performed, or another package has
acknowledged for all of its own. The last of this package's for a `plpin` comes once its pages are in (R73). -/
def execInvalidateAck (inv : Nat) (cache : CacheId) (s : State) : Out :=
  match s.invals.find? (fun i => i.id == inv) with
  | none => .next s
  | some i =>
    let r := changeRange s i.change
    let rest := i.waiting.filter (fun c => c != awaited cache)
    let busy := match cacheCore cache with | some n => coreBusy s r n | none => false
    let j := { i with waiting := rest, short := i.short || (match cache with | .member _ ok => !ok | _ => false) }
    let far := i.source.isSome
    if !i.waiting.contains (awaited cache) || busy || (rest.isEmpty && !far && !mayCommit s i) then .next s
    else if rest.isEmpty && far && farWaits s i then .next (if quotaAllows s i.change then bringIn s i.change else s)
    else
      let s1 := dropCached s r (some cache)
      if rest.isEmpty && !far then .next (commitInval s1 j)
      else
        let s2 := { s1 with invals := s1.invals.map (fun x => if x.id = inv then j else x) }
        .next (if rest.isEmpty then answerPod s2 j else s2)

/-- Another package starts an invalidation for a change, which names a region by its number here (R393, R443; log 80); of an ASID that
goes out of use there only the translations are dropped here. -/
def podChange (s : State) (pkg inv : Nat) (c : Change) : State :=
  let c := match c with | .asid a => Change.pages a 0 (2 ^ 60) | x => x
  let i : Inval := { id := s.nextId, source := some (pkg, inv), change := c, waiting := cachesFor s (changeRange s c), pod := false }
  let t := { s with nextId := s.nextId + 1, invals := s.invals ++ [i] }
  if quotaAllows s c then bringIn t c else t

/-- The commit point of another package's change, once what was translated before has performed here. -/
def podCommit (s : State) (pkg inv : Nat) (ok : Bool) : State :=
  match s.invals.find? (fun i => i.source == some (pkg, inv)) with
  | none => s
  | some i =>
    let r := changeRange s i.change
    if s.cold.hbmHold || !i.waiting.isEmpty || (usedCores s).any (coreBusy s r) || stepBusy s r then s
    else
      let s1 := dropCached (freeHeld { s with invals := s.invals.filter (fun j => j.id != i.id) } i) r none
      if ok then (applyChange s1 i.change).1 else s1

/-- The region holds a pod-shared plane. -/
def hasShared (s : State) (r : Region) : Bool :=
  (List.range 16).any (fun p => dEn (descAt s r p) && dShared (descAt s r p))

/-- The service has translations dropped: of a page or a range of pages, of an ASID, or of every ASID, in the pod where a region that is
named holds a pod-shared plane (R393). -/
def serviceInval (s : State) (c : Change) : State :=
  match c with
  | .pages asid lo hi =>
    startInvalFor s c (s.regions.any (fun e => e.2.asid == asid && decide (e.2.lo < hi ∧ lo < e.2.hi) && hasShared s e.2)) []
  | .every => startInvalFor s c (s.regions.any (fun e => hasShared s e.2)) []
  | _ => s

/-! ### Translation caches (R392) -/

/-- Entries a cache holds. -/
def cacheSize (c : CacheId) : Nat := match c with | .thread _ => 32 | .copy .. => 64 | .hub => 64 | _ => 0

/-- Install an entry; the oldest one goes where the cache is full (log 16). -/
def install (s : State) (e : Cached) : State :=
  let same := s.caches.filter (fun x => x.cache == e.cache)
  let rest := if cacheSize e.cache ≤ same.length then
      (match same.head? with | some old => s.caches.erase old | none => s.caches) else s.caches
  { s with caches := rest ++ [e] }

/-- The tables that a walk passes below a table of a level: the level of each and its address. -/
def tablesPassed (s : State) (pos : Nat) (levels : List Nat) (table : Nat) : List (Nat × Nat) :=
  match levels with
  | [] => []
  | level :: rest =>
    let e := memNat s.mem (table + 8 * tableIndex level pos) 8
    if e % 4 = 1 then (level + 1, e / 256 * 256) :: tablesPassed s pos rest (e / 256 * 256) else []

/-- A walker keeps the entries of levels 1 to 4 that a walk has read, 512 in all; the oldest go first (R392; log 16). -/
def keepWalk (s : State) (die asid pos : Nat) : State :=
  let es := (tablesPassed s pos [1, 2, 3, 4] (memNat s.mem (s.rootBase + 16 * asid) 8 / 8192 * 8192)).map (fun (l, t) =>
    ({ die := die, asid := asid, level := l, first := pos / levelSpan (l - 1) * levelSpan (l - 1), table := t } : WalkEntry))
  let fresh := es.filter (fun e => !s.walkers.contains e)
  let mine := s.walkers.filter (fun e => e.die == die)
  { s with walkers := s.walkers.filter (fun e => e.die != die) ++ (mine ++ fresh).drop ((mine ++ fresh).length - 512) }

/-- PSE_WALK_COMPLETE: the walk's entry is installed, unless an invalidation of its page is under way; a walk that
finds no entry raises its fault at the access. Its walker keeps the table entries it has read, and records what its reads found
(R409, R410). -/
def execPseWalkComplete (cache : CacheId) (asid page : Nat) (s : State) : Out :=
  match walkVia s (walkerOf cache) asid page with
  | .found psize pse rpd =>
    let base := page / Config.pageBytes psize * Config.pageBytes psize
    if cacheSize cache = 0 || s.cold.hbmHold || s.invals.any (fun i => inRange (changeRange s i.change) asid base)
        || s.caches.any (fun e => e.cache == cache && e.asid == asid && e.page == base && e.psize == psize) then .next s
    else .next (keepWalk (install (noteWalk s (walkerOf cache) asid page) { cache := cache, asid := asid, page := base, psize := psize, pse := pse, rpd := rpd })
      (walkerOf cache) asid page)
  | _ => if cacheSize cache = 0 || s.cold.hbmHold then .next s else .next (noteWalk s (walkerOf cache) asid page)

/-! ### Paging (R66, R68, R90, R394) -/

/-- The accesses held on a page translate again: copies, table reads (R69, R222). Blocked contexts look at
`State.moves` themselves. -/
def releaseHeld (s : State) (k : PageKey) : State :=
  { s with
    cores := s.cores.map (fun e => (e.1, { e.2 with
      cqueue := e.2.cqueue.map (fun o => if o.held = some k then { o with held := none } else o) })) }

/-- A held table read translates again once its page is present. -/
def retryTable (s : State) (l : PLoad) : State :=
  match l.use with
  | .jtabEntry _ va =>
    let drop := { s with loads := s.loads.filter (fun m => m.id != l.id) }
    (match translate s (ctxReq s l.cid va 8 8 false) with
     | .ok acc => { noteWalks s (threadPipe (l.cid / 4)) (l.cid / 4) acc with loads := s.loads.map (fun m => if m.id = l.id then { m with acc := acc, held := false } else m) }
     | .trap t =>
       let u := noteFailed drop (threadPipe (l.cid / 4)) (asidOf (me (asContext s l.cid))) t
       if stale s l.cid l.gen then u else deferTrap u l.cid (tableTrap l va 2 t.cause)
     | .notPresent k => startPageIn s k)
  | _ => s

def retryTables (s : State) : State := (s.loads.filter (·.held)).foldl retryTable s

/-- The status of a move that is over: a page-in that has left no present page has failed (R394; log 57). -/
def moveStatus (s : State) (k : PageKey) (m : PageMove) : Nat :=
  if m.inward && sState (slotAt s k.asid k.page k.plane) != 1 then 5 else 0

/-- Answer the requests that asked for a move (R373). -/
def moveReplies (s : State) (k : PageKey) : State :=
  (s.moves.filter (fun m => m.key == k)).foldl (fun t m =>
    match m.reply with | some h => sendReply t h opPlane (moveStatus s k m) 0 [] | none => t) s

/-- A move is over; a page that has gone out while its plane is being pinned comes in again (R73). -/
def endMove (s : State) (k : PageKey) : State :=
  let s1 := moveReplies s k
  let s2 := retryTables (releaseHeld { s1 with moves := s1.moves.filter (fun m => m.key != k) } k)
  if (regionAt s2 k.asid k.page).any (fun e => pinning s2 e.1 k.plane) && sState (slotAt s2 k.asid k.page k.plane) == 2 then startPageIn s2 k
  else s2

/-- The contexts blocked on a page: address, direction and slot of the access. -/
def heldContexts (s : State) (k : PageKey) : List (Nat × Word × Bool × Nat) :=
  s.ctxs.filterMap (fun e => match e.2.status with
    | .blocked (.page j va wr sl) => if j = k then some (e.1, va, wr, sl) else none
    | _ => none)

/-- The fault of a page whose backing is lost. -/
def lostTrap (va : Word) (wr : Bool) (slot : Nat) : TrapInfo :=
  { cause := 8, qual := 5, addr := va, wr := wr, plane := planeOf va, slot := slot }

/-- A context that was held takes the absent fault. -/
def failHeld (s : State) (h : Nat × Word × Bool × Nat) : State :=
  let s1 := setCtx { s with cur := h.1 } h.1 { ctxOf s h.1 with status := .ready }
  { trapHere s1 (lostTrap h.2.1 h.2.2.1 h.2.2.2) with cur := s.cur }

/-- The operation writes global memory. -/
def copyWrites (k : CopyKind) : Bool := match k with | .cpout => true | .cpaccOut => true | .cwtr => true | _ => false

/-- A copy that was held stops with the absent fault at the row that its pipe has recorded; a COPY node fails its launch (R400). -/
def failHeldCopy (s : State) (k : PageKey) (core : Nat) : State :=
  match (coreOf s core).cqueue with
  | o :: _ =>
    if o.held ≠ some k then s
    else if o.kind = .node then failNode (popCopy s core) o.word.toNat
    else stopCopy s core o (lostTrap ((fget? (coreOf s core).pipes (o.row % 2)).elim o.va (·.addr)) (copyWrites o.kind) 7)
  | [] => s

/-- A held table read meets a lost page. -/
def failHeldTable (s : State) (k : PageKey) (l : PLoad) : State :=
  if !l.held || planeOf l.va != k.plane || asidOf (me (asContext s l.cid)) != k.asid
      || !inRange (changeRange s (.lost k)) k.asid (posOf l.va) then s
  else deferTrap { s with loads := s.loads.filter (fun m => m.id != l.id) } l.cid (tableTrap l l.va 2 8)

/-- The backing is lost: the slot becomes absent, every held access faults, the loss is counted and recorded, with
the block of its backing (R394, R420). -/
def losePage (s : State) (k : PageKey) : State :=
  let lost := recordError s .storage false { kind := 12, addr := sBacking (slotAt s k.asid k.page k.plane) }
  let s1 := count (setSlot lost k.asid k.page k.plane 0) 4 1
  let s2 := (heldContexts s1 k).foldl failHeld s1
  let s3 := (s2.cores.map (·.1)).foldl (fun t n => failHeldCopy t k n) s2
  s3.loads.foldl (fun t l => failHeldTable t k l) s3

/-- The frame of a page-in: the saved bytes, or zero (R394), as BACK says by now (log 60). -/
def fillFrame (s : State) (r : Region) (k : PageKey) : State :=
  let d := descAt s r k.plane
  let x := slotAt s k.asid k.page k.plane
  let (s1, a) := allocate s (placeStack s r k.page d) (frameSize s r d) 64 (dColour d)
  let saved := if dBack d = 0 then fget s1.nvme (sBacking x) [] else []
  let s2 := { s1 with
    mem := saved.foldl (fun m e => memPut m (a + e.1) e.2) s1.mem
    nvme := if dBack d = 0 then fdel s1.nvme (sBacking x) else s1.nvme }
  setSlot s2 k.asid k.page k.plane (presentSlot a (sPerm x))

/-- A page-in is complete (R394): the page is present at once in every cache, and what was held translates again
(log 17); the invalidation of a page of a region with a pod-shared plane goes to the pod, and the requests for the page are answered
at its commit point (R373, R393). -/
def pageIn (s : State) (k : PageKey) (good : Bool) : State :=
  match regionAt s k.asid k.page with
  | none => endMove s k
  | some (_, r) =>
    if sState (slotAt s k.asid k.page k.plane) ≠ 2 then endMove s k
    else
      let flash := dBack (descAt s r k.plane) == 0
      let s1 := dropCached s (changeRange s (.present k)) none
      let bad := flash && !good
      let s2 := if bad then losePage s1 k else fillFrame s1 r k
      if hasShared s2 r && !(podOthers s2).isEmpty then
        let quiet : State := { s2 with moves := s2.moves.map (fun m => if m.key = k then { m with reply := none } else m) }
        startInvalFor (endMove quiet k) (if bad then .lost k else .present k) true (moveHeads s2 k)
      else endMove s2 k

/-- The bytes of a frame that are not zero, by offset. -/
def frameContent (s : State) (a n : Nat) : List (Nat × Byte) :=
  (s.mem.filter (fun e => a ≤ e.1 && e.1 < a + n)).map (fun e => (e.1 - a, e.2))

/-- A paged page has its place on flash: one that was paged out without, before its plane's BACK became 0, gets one (R66, log 60). -/
def withBlock (s : State) (r : Region) (k : PageKey) : State :=
  let x := slotAt s k.asid k.page k.plane
  if sBacking x ≠ 0 then s
  else
    let s1 := setSlot s k.asid k.page k.plane (pagedSlot s.nextBlock (sPerm x))
    { s1 with nextBlock := s1.nextBlock + (frameSize s r (descAt s r k.plane) + 4095) / 4096 }

/-- PAGE_OUT_COMPLETE: the frame is written to NVMe or discarded, then freed (R394). -/
def execPageOutComplete (k : PageKey) (s : State) : Out :=
  match s.moves.find? (fun m => m.key == k && !m.inward) with
  | none => .next s
  | some m =>
    if s.cold.hbmHold || !m.committed || (moveHeads s k).any (boxBusy s) then .next s
    else match regionAt s k.asid k.page with
      | none => .next (endMove s k)
      | some (_, r) =>
        let d := descAt s r k.plane
        let s1 := if dBack d = 0 && sState (slotAt s k.asid k.page k.plane) = 2 then
            let t := withBlock s r k
            { t with nvme := fset t.nvme (sBacking (slotAt t k.asid k.page k.plane)) (frameContent s m.frame (frameSize s r d)) } else s
        .next (endMove (freeFrame s1 m.frame) k)

/-- A plane that may be paged out: not pinned nor being pinned, and with a backing (R66, R73). -/
def mayPageOut (s : State) (k : PageKey) (n : Nat) (r : Region) : Bool :=
  let d := descAt s r k.plane
  dEn d && !dPin d && dBack d != 2 && sState (slotAt s k.asid k.page k.plane) == 1
    && !s.moves.any (fun m => m.key == k)
    && !s.invals.any (fun i => match i.change with
        | .plpin m p true => m == n && p == k.plane
        | .pldel m p => m == n && p == k.plane
        | _ => false)

/-- Start a page-out: the paged entry and its invalidation. -/
def startPageOut (s : State) (k : PageKey) (reply : Option ReqHead) : State :=
  let s1 := { s with moves := s.moves ++ [{ key := k, inward := false, reply := reply }] }
  startInval s1 (.paged k) ((regionAt s k.asid k.page).any (fun e => hasShared s e.2))

/-- PAGE_OUT: the service moves a page out on its own. -/
def execPageOut (k : PageKey) (s : State) : Out :=
  match regionAt s k.asid k.page with
  | none => .next s
  | some (n, r) => if mayPageOut s k n r then .next (startPageOut s k none) else .next s

/-! ### The instructions (R267) -/

/-- The shape of a plane instruction: operands, checks of its operands, and what it does at issue: a code that fails,
or a change. It ends the segment first; its result stays empty. -/
def planePlan (s : State) (o : Fields) (ok : Bool) (srcs : List Src) (start : State → Word ⊕ Change) : Plan :=
  let code := o.dst.toNat
  if !cpOk s o || !ok || !scalarDest code then illegalPlan
  else {
    emptyTrap := anyEmptyTrap srcs
    blocks := emptyWaits srcs ++ destWaits s (.scalar code)
    dests := [.scalar code]
    endsSeg := true
    effect := fun t =>
      match start t with
      | .inl v => startPending t code (.query v)
      | .inr c =>
        let t1 := startInval t c true
        startPending t1 code (.planeOp t.nextId) }

/-- A change on the region of an address, where its check answers 0. -/
def planeStart (t : State) (va : Word) (check : Region → Nat) (change : Nat → Change) : Word ⊕ Change :=
  match regionAt t (asidOf (me t)) (posOf va) with
  | none => .inl (planeResult 5)
  | some (n, r) => if check r = 0 then .inr (change n) else .inl (planeResult (check r))

/-- The code of a `plnew`; a plane that another package is creating counts as there (R443; log 102). -/
def plnewFails (s : State) (r : Region) (p b : Nat) : Nat :=
  if plnewCode s r p b = 0 && s.regions.any (fun e => e.2 == r && farCreates s e.1 p) then 2 else plnewCode s r p b

/-- plnew (R70). -/
def planPlnew (o : Fields) (s : State) : Plan :=
  match srcA s o, srcB s o with
  | some a, some b =>
    planePlan s o true [a, b] (fun t => planeStart t a.v (fun r => plnewFails t r (planeOf a.v) b.v.toNat)
      (fun n => .plnew n (planeOf a.v) b.v))
  | _, _ => illegalPlan

/-- `plnew` alone in its bundle. -/
def execPlnew (o : Fields) (s : State) : Out := .next (issueAlone o 0x08 (fun _ => planPlnew o) s)

/-- pldel (R71). -/
def planPldel (o : Fields) (s : State) : Plan :=
  match srcA s o with
  | some a =>
    planePlan s o (noB o) [a] (fun t => planeStart t a.v (fun r => pldelCode t r (planeOf a.v))
      (fun n => .pldel n (planeOf a.v)))
  | none => illegalPlan

/-- `pldel` alone in its bundle. -/
def execPldel (o : Fields) (s : State) : Out := .next (issueAlone o 0x09 (fun _ => planPldel o) s)

/-- plprot (R72). -/
def planPlprot (o : Fields) (s : State) : Plan :=
  match srcA s o, srcB s o with
  | some a, some b =>
    let perm := field b.v.toNat 0 2
    let n := field b.v.toNat 32 32
    planePlan s o (!allFull [a, b] || field b.v.toNat 2 30 == 0) [a, b]
      (fun t => planeStart t a.v (fun r => plprotCode t r (planeOf a.v) perm (posOf a.v) n)
        (fun k => .plprot k (planeOf a.v) perm (posOf a.v) n))
  | _, _ => illegalPlan

/-- `plprot` alone in its bundle. -/
def execPlprot (o : Fields) (s : State) : Out := .next (issueAlone o 0x0A (fun _ => planPlprot o) s)

/-- Start the page-in of every paged page of a plane. -/
def pageInAll (t : State) (va : Word) : State :=
  match regionAt t (asidOf (me t)) (posOf va) with
  | none => t
  | some (_, r) =>
    (pagesIn t r (planeOf va) 2).foldl (fun u page => startPageIn u { asid := r.asid, page := page, plane := planeOf va }) t

/-- plpin (R73): the value 0 or 1 is in the instruction. -/
def planPlpin (o : Fields) (s : State) : Plan :=
  match srcA s o with
  | some a =>
    let k := (shortSext o).toNat
    let p := planePlan s o (decide (k < 2)) [a]
      (fun t => planeStart t a.v (fun r => plpinCode t r (planeOf a.v) (k == 1)) (fun n => .plpin n (planeOf a.v) (k == 1)))
    { p with effect := fun t =>
        let t1 := p.effect t
        let good := match regionAt t (asidOf (me t)) (posOf a.v) with
          | some (_, r) => plpinCode t r (planeOf a.v) true == 0
          | none => false
        if k = 1 && good then pageInAll t1 a.v else t1 }
  | none => illegalPlan

/-- `plpin` alone in its bundle. -/
def execPlpin (o : Fields) (s : State) : Out := .next (issueAlone o 0x0C (fun _ => planPlpin o) s)

/-- What a selector of `plq` returns. -/
def plqValue (t : State) (va : Word) (k : Nat) : Word :=
  let asid := asidOf (me t)
  if k = 1 then BitVec.ofNat 64 (asidRec t asid).planeQuota
  else if k = 2 then BitVec.ofNat 64 (asidRec t asid).pinQuota
  else match regionAt t asid (posOf va) with
    | none => planeResult 5
    | some (_, r) =>
      let p := planeOf va
      let d := descAt t r p
      if !dEn d then planeResult 6
      else if k = 0 then BitVec.ofNat 64 d
      else BitVec.ofNat 64 (pagesIn t r p (if k = 3 then 1 else if k = 4 then 2 else if k = 5 then 0 else 3)).length

/-- plq: the selector is in the instruction. -/
def planPlq (o : Fields) (s : State) : Plan :=
  match srcA s o with
  | some a =>
    let k := (shortSext o).toNat
    planePlan s o (decide (k < 7)) [a] (fun t => .inl (plqValue t a.v k))
  | none => illegalPlan

/-- `plq` alone in its bundle. -/
def execPlq (o : Fields) (s : State) : Out := .next (issueAlone o 0x0B (fun _ => planPlq o) s)

end Sys2Proof.Machine
end

