-- ==== Sys2Proof/Machine/Engine.lean ====
section
/-! DEFINITION. The matrix engine: micro-ops, sums, drains, checksums, and the end of a routine (R49, R109 to R133,
R171, R310, R316 to R324, R329). -/

namespace Sys2Proof.Machine

/-! ### The running routine -/

def runOf (s : State) (core : Nat) : Option Run := (coreOf s core).run

def setRun (s : State) (core : Nat) (r : Run) : State := setCore s core { coreOf s core with run := some r }

/-- Half cycles that count toward MDEPTH for n cycles: in band T one for every two, where `act` and `wld` take twice
as long (R431). -/
def halfCycles (s : State) (n : Nat) (stretch : Bool) : Nat := if s.cold.band = 2 then (if stretch then 2 * n else n) else 2 * n

/-- A micro-op of n cycles starts once the rows before it have been issued (R324). -/
def charge (s : State) (r : Run) (n : Nat) (stretch : Bool) : Run :=
  { r with begun := some r.depth, depth := r.depth + halfCycles s n stretch }

/-- A micro-op of one cycle starts once the one before it has started (R324). -/
def chargeOne (s : State) (r : Run) : Run :=
  let t := match r.begun with | none => r.depth | some b => b + halfCycles s 1 false
  { r with begun := some t, depth := max r.depth (t + halfCycles s 1 false) }

/-- The count has reached MDEPTH (R49). -/
def depthOut (s : State) (r : Run) : Bool := decide (2 * s.mdepth ≤ r.depth - r.base)

/-- Wait for a landing. -/
def waitUntil (r : Run) (t : Nat) : Run := { r with depth := max r.depth t }

/-- The landings of rows of a tile. -/
def landings' (r : Run) (y : Bool) : File Nat := if y then r.landY else r.landX

/-- Every row of every `act` has left the array, and every update has landed (R324). -/
def waitAll (r : Run) : Run := waitUntil r ((r.landX ++ r.landY).foldl (fun m e => max m e.2) 0)

/-- The updates of rows of a tile have landed. -/
def waitRows (r : Run) (y : Bool) (row n : Nat) : Run :=
  waitUntil r (((landings' r y).filter (fun e => row ≤ e.1 && e.1 < row + n)).foldl (fun m e => max m e.2) 0)

/-- The micro-op address after the routine's last one. -/
def routineEnd (r : Routine) : Nat := r.start + r.len

/-! ### Sums that land (R113, R115) -/

/-- The identity of an operation as an fp32 code. -/
def identityCode (op : Nat) : Nat := if op = 2 then 0xFF80_0000 else if op = 3 then 0x7F80_0000 else 0

/-- The pass result joins the accumulator. -/
def combineAcc (op acc p : Nat) : Nat :=
  if op < 2 then fp32 (xadd false (decodeNum 1 acc) (decodeNum 1 p))
  else if op = 2 then encodeNum 1 false (xmax (decodeNum 1 acc) (decodeNum 1 p))
  else encodeNum 1 false (xmin (decodeNum 1 acc) (decodeNum 1 p))

/-- An integer sum outside 32 bits (R113). -/
def wrapsI32 (v : Int) : Bool := decide (v < -(2 ^ 31 : Int) ∨ (2 ^ 31 : Int) ≤ v)

/-- The new lanes of an accumulator row, and whether an integer sum wrapped. -/
def landedRow (old : Row) (x : RowSum) : List Nat × Bool :=
  let es := (x.sums.zipIdx).map (fun (p, c) =>
    let a := lane old 32 c
    if x.op = 4 then
      let v := signedOf 32 (if x.fresh then 0 else a) + signedOf 32 p.toNat
      (intCode 32 v, wrapsI32 v)
    else (combineAcc x.op (if x.fresh then identityCode x.op else a) p.toNat, false))
  (es.map (·.1), x.wraps || es.any (·.2))

/-- The sum of a streamed row joins the accumulator (R113, R115). -/
def landRow (s : State) (cid : Nat) (x : RowSum) : State :=
  let cl := if x.accY then Cluster.y else Cluster.x
  let v := landedRow (readRow (ctxOf s cid) cl x.row).bits x
  setCtx s cid { writeRow (ctxOf s cid) cl x.row (rowOfLanes 32 v.1) with iovf := (ctxOf s cid).iovf || v.2 }

/-! ### The end of a routine by a cause (R131) -/

/-- The engine stops a routine (R131): the rows streamed so far land, no pass being applied in part (R130); its
tiles and those of the context's queued routines return; the trap is taken at the context's next bundle. -/
def stopRoutine (s0 : State) (core cause : Nat) (r : Run) : State :=
  let cid := r.r.cid
  let s := r.sums.foldl (fun u x => landRow u cid x) s0
  let k := coreOf s core
  let mine := k.mqueue.filter (fun q => q.cid == cid)
  let s1 := setCore s core { k with
    run := none
    mqueue := k.mqueue.filter (fun q => q.cid != cid)
    cuts := k.cuts.filter (fun c => c.r.cid != cid)
    stopFor := k.stopFor.filter (fun c => c != cid % 4) }
  let s2 := returnTiles s1 cid (r.r.tiles ++ mine.flatMap (·.tiles) ++ (k.cuts.filter (fun c => c.r.cid == cid)).flatMap (·.r.tiles))
  let s3 := setCtx s2 cid { ctxOf s2 cid with ecause := cause }
  deferTrap s3 cid { cause := 0x10, code := cause }

/-- The accumulator tiles that a micro-op reads or writes (R313). -/
def uopAccs (i : Instr) : List Bool :=
  match i with
  | .act _ _ acc _ _ _ _ _ _ _ => [acc]
  | .drn src dkind dacc _ _ _ _ _ _ _ _ => if dkind = 0 then [src, dacc] else [src]
  | .cks write cacc _ racc _ => if write then [cacc, racc] else []
  | _ => []

/-- A micro-op from here on touches the tile; those of an open loop may come again (R313). -/
def laterTouch (s : State) (core : Nat) (r : Run) (y : Bool) : Bool :=
  let a := (r.loops.getLast?.map (·.1)).getD r.pc
  (uopsOf (coreOf s core) a (routineEnd r.r - a)).any (fun i => (uopAccs i).contains y)

/-- Accumulator tiles whose last touch has completed return (R21, R313), with nothing pending, be it while a later micro-op works. -/
def returnAccs (s : State) (core : Nat) : State :=
  match runOf s core with
  | none => s
  | some r =>
    let gone := r.r.tiles.filter (fun t => match t with
      | .acc y => !laterTouch s core r y && !r.sums.any (fun x => x.accY == y)
      | .slot _ => false)
    if gone.isEmpty then s
    else returnTiles (setRun s core { r with r := { r.r with tiles := r.r.tiles.filter (fun t => !gone.contains t) } }) r.r.cid gone

/-- Run a micro-op of the routine: not while another one works, not once MDEPTH is reached (R49). -/
def engineOp (s : State) (f : Nat → Run → Nat ⊕ State) : State :=
  let core := s.cur / 4
  match runOf s core with
  | none => s
  | some r =>
    if r.busy || s.cold.pause || engineHeld s then s
    else if depthOut s r then stopRoutine s core 4 r
    else match f core r with
      | .inl cause => stopRoutine s core cause r
      | .inr t => returnAccs t core

/-- Go on to the next micro-op. -/
def nextUop (r : Run) : Run := { r with pc := r.pc + 1 }

/-! ### Operands (R111, R125, R126, R316) -/

/-- The classes of R110: 0 8-bit float, 1 8-bit integer, 2 16-bit, 3 MX. -/
def formatClass (fc : Nat) : Option Nat :=
  if fc = 4 || fc = 5 || isBinary8 fc then some 0
  else if fc = 0x0A || fc = 0x0B then some 1
  else if fc = 2 || fc = 3 then some 2
  else if 6 ≤ fc && fc ≤ 8 then some 3
  else none

/-- The slot that a slot operand names, or the tile-range cause. -/
def slotOperand (r : Run) (so : Nat) : Nat ⊕ Nat :=
  if so < 192 then .inr so
  else if 0xF8 ≤ so then
    (match fget? r.ptrs (so - 0xF8) with | some k => .inr k | none => .inl 3)
  else .inl 3

/-- The index register that an IX field names. -/
def indexOf (r : Run) (ix : Nat) : Int := if ix = 0 then 0 else fget r.idx ix 0

/-- A row field plus the index register, with the rows after it (R316). -/
def rowBase (r : Run) (row ix n : Nat) : Option Nat :=
  let v := (row : Int) + indexOf r ix
  if 0 ≤ v ∧ v + n ≤ 128 then some v.toNat else none

/-- The checks of R125 and R126 on a slot that a micro-op reads: a cause where one fails. -/
def headerCheck (s : State) (core : Nat) (r : Run) (slot fc swz : Nat) (isAct : Bool) : Option Nat :=
  let k := coreOf s core
  let h := headOf k slot
  let mx := 6 ≤ fc && fc ≤ 8
  if !r.r.tiles.contains (.slot slot) || !allocatedTo k (r.r.cid % 4) slot then some 3
  else if hFmt h != fmtOf fc || (swz != 0 && hSwz h != swz) then some 2
  else if hLayout h && (mx || (fmtWidth fc != 8 && fmtWidth fc != 16)) then some 2
  else if isAct && mx && hTrans h then some 2
  else none

/-- An uncorrectable word stops the routine with the tile-range cause (R411). -/
def meetsBad (s : State) (core w : Nat) (r : Run) : State := stopRoutine (noteBad s core w (some r.r.cid)) core 3 r

/-- Core cycles of a stretch of n in which rows start: in band T they start on alternate cycles (R431). -/
def stretched (s : State) (n : Nat) : Nat := if s.cold.band = 2 then 2 * n else n

/-- The engine streams rows of the scratchpad in n cycles, in which it holds their banks (R127; log 71). -/
def readRows (s : State) (core cid : Nat) (rows : List Nat) (n : Nat) : State :=
  let s1 := noteWords s core (rowWords rows) (some cid)
  setCore s1 core (useBanks (coreOf s1 core) (rowBanks rows) n true)

/-- The byte offset of element (r, c) of an operand under its header (R125). -/
def operandOffset (h : Word) (w r c : Nat) : Nat := if hTrans h then elemOffset (hLayout h) w c r else elemOffset (hLayout h) w r c

/-- The code of weight (r, c), r the reduction index (R111). A transposed 6-bit operand has rows of 256 bytes and a transposed
E2M1 one rows of 128 bytes, so that index r of column c lies in byte 128·c + r/2 (log 41). Both slots of an operand are read by
the first one's header where the two differ in LAYOUT or TRANS (log 74). -/
def weightCode (k : Core) (slot fc r c : Nat) : Nat :=
  let h := headOf k slot
  let base := 16384 * slot
  if fc = 6 then field (spadBits k (base + operandOffset h 8 (r / 2) c) 8) (4 * (r % 2)) 4
  else if fc = 7 || fc = 8 then spadBits k (base + (if hTrans h then 256 * c + r else 128 * r + c)) 8
  else spadBits k (base + operandOffset h (fmtWidth fc) r c) (fmtWidth fc)

/-- The code of element r of activation row j; both slots are read by the first one's header (log 74). -/
def actCode (k : Core) (slot fc j r : Nat) : Nat :=
  let h := headOf k slot
  let base := 16384 * slot
  if fc = 6 then field (spadBits k (base + 128 * j + r / 2) 8) (4 * (r % 2)) 4
  else if fc = 7 || fc = 8 then spadBits k (base + 256 * j + r) 8
  else spadBits k (base + operandOffset h (fmtWidth fc) j r) (fmtWidth fc)

/-- Reduction indices of a pass. -/
def passDepth (fc : Nat) : Nat := if 6 ≤ fc && fc ≤ 8 then 256 else 128

/-- The exact value of an element, under its scale in the MX class. -/
def elemValue (fc code scale : Nat) : XVal := if 6 ≤ fc && fc ≤ 8 then mxValue fc scale code else decodeNum fc code

/-- The latched weight (r, c) as a value. -/
def weightValue (w : Weights) (r c : Nat) : XVal :=
  elemValue w.fc (w.codes.getD (128 * r + c) 0) (w.scales.getD (128 * (r / 32) + c) 0)

/-! ### wld (R318) -/

/-- Slots of the weights, with the second one. -/
def weightSlots (slot fc : Nat) : List Nat := if operandSlots fc = 2 then [slot, slot + 1] else [slot]

/-- The first cause among checks. -/
def firstCause (cs : List (Option Nat)) : Option Nat := (cs.filterMap id).head?

/-- Scale (b, c) of the weights: element (SROW + b, c) of SSLOT. -/
def scaleCode (k : Core) (slot row c : Nat) : Nat := spadBits k (16384 * slot + operandOffset (headOf k slot) 8 row c) 8

/-- Latch weights. A `wld` with CKS sets Asum to +0, whatever its class (R329; log 75). -/
def latch (r : Run) (w : Weights) (cks : Bool) : Run :=
  let r1 := { r with weights := some w, lastWld := some r.pc }
  if cks then { r1 with asum := List.replicate (passDepth w.fc) 0, colsum := [], streamed := 0 } else r1

/-- Every row of 32 of a slot. -/
def slotRows (slots : List Nat) : List Nat := slots.flatMap (fun x => (List.range 32).map (fun i => 32 * x + i))

def startWld (s : State) (wslot wfc sslot srow : Nat) (cks : Bool) (expswz core : Nat) (r0 : Run) : Nat ⊕ State :=
  let k := coreOf s core
  let mx := formatClass wfc == some 3
  let r := waitAll r0
  if !r.sums.isEmpty then .inr s
  else if (formatClass wfc).isNone then .inl 1
  else if 120 < srow then .inl 3
  else match slotOperand r wslot, (if mx then slotOperand r sslot else .inr 0) with
    | .inl c, _ => .inl c
    | _, .inl c => .inl c
    | .inr slot, .inr sc =>
      let slots := weightSlots slot wfc
      match firstCause (slots.map (fun x => headerCheck s core r x wfc expswz false)
          ++ [if mx then headerCheck s core r sc 0x09 0 false else none]) with
      | some c => .inl c
      | none =>
        let rows := slotRows (slots ++ (if mx then [sc] else []))
        match badWord k (rowWords rows) with
        | some b => .inr (meetsBad s core b r)
        | none =>
          let w : Weights := {
            fc := wfc
            codes := (List.range (passDepth wfc)).flatMap (fun i => (List.range 128).map (weightCode k slot wfc i))
            scales := if mx then (List.range 8).flatMap (fun b => (List.range 128).map (scaleCode k sc (srow + b))) else []
            cks := cks && formatClass wfc != some 1 }
          let n := if mx then 136 else 128
          .inr (setRun (readRows s core r.r.cid rows (stretched s n)) core (nextUop (charge s (latch r w cks) n true)))

/-- `wld`: it starts once every row of every earlier `act` has left the array (R324). -/
def execWld (wslot wfc sslot : BitVec 8) (srow : BitVec 7) (cks : Bool) (expswz : BitVec 8) (s : State) : Out :=
  .next (engineOp s (startWld s wslot.toNat wfc.toNat sslot.toNat srow.toNat cks expswz.toNat))

/-! ### act (R112, R113, R115, R171, R319) -/

/-- One cell: the partial sum is an fp32 code. -/
def cellOp (op s : Nat) (a w : XVal) : Nat :=
  if op = 0 then fp32 (xadd false (decodeNum 1 s) (xmul a w))
  else if op = 1 then fp32 (xadd false (decodeNum 1 s) (xabs (xadd false a (xneg w))))
  else
    let t := xadd false a w
    let v := decodeNum 1 s
    if xisNan t || xisNan v then 0x7FC0_0000
    else if (if op = 2 then xlt v t else xlt t v) then fp32 t else s

/-- The pass of a float row through one column. -/
def columnPass (op : Nat) (as : List XVal) (w : Weights) (c : Nat) : Nat :=
  as.zipIdx.foldl (fun p (a, r) => cellOp op p a (weightValue w r c)) (identityCode op)

/-- The integer of an i8 or n8 code. -/
def smallInt (fc code : Nat) : Int := if fc = 0x0A then signedOf 8 code else code

/-- The pass of an integer row through one column: the sum modulo 2^32, and whether it wrapped. -/
def intPass (afc : Nat) (codes : List Nat) (w : Weights) (c : Nat) : Nat × Bool :=
  let t := codes.zipIdx.foldl (fun (p : Int × Bool) (a, r) =>
    let v := p.1 + smallInt afc a * smallInt w.fc (w.codes.getD (128 * r + c) 0)
    (v, p.2 || wrapsI32 v)) (0, false)
  (intCode 32 t.1, t.2)

/-- The operations of CPAT (R112): none where LEN is 0 or above 24. -/
def cpatOps (v : Word) : Option (List Nat) :=
  let n := field v.toNat 48 5
  if n = 0 || 24 < n then none else some ((List.range n).map (fun k => field v.toNat (2 * k) 2))

/-- The accumulator type of a class. -/
def accTypeOf (cls : Nat) : AccType := if cls = 1 then .i32 else .fp32

def typeClash (a b : AccType) : Bool := a != .none && a != b

/-- The values of an activation row. -/
def actRow (k : Core) (slot scslot afc j : Nat) : List XVal :=
  (List.range (passDepth afc)).map (fun r =>
    elemValue afc (actCode k slot afc j r) (spadBits k (16384 * scslot + 8 * j + r / 32) 8))

/-- The sums of one streamed row. -/
def rowSum (k : Core) (w : Weights) (afc slot scslot j op : Nat) (y fresh : Bool) (row : Nat) : RowSum :=
  if formatClass afc = some 1 then
    let codes := (List.range 128).map (actCode k slot afc j)
    let ps := (List.range 128).map (intPass afc codes w)
    { accY := y, row := row, op := 4, fresh := fresh, sums := ps.map (fun p => BitVec.ofNat 32 p.1), wraps := ps.any (·.2) }
  else
    let as := actRow k slot scslot afc j
    { accY := y, row := row, op := op, fresh := fresh
      sums := (List.range 128).map (fun c => BitVec.ofNat 32 (columnPass op as w c)), wraps := false }

/-- Wsum of a reduction index (R123). -/
def wsum (w : Weights) (r : Nat) : Nat :=
  (List.range 128).foldl (fun acc c => fp32 (xadd false (decodeNum 1 acc) (weightValue w r c))) 0

/-- A checked row enters Asum, where its operation is op 0, and takes its lane of the column checksum. -/
def checkRow (r : Run) (w : Weights) (as : List XVal) (op : Nat) : Run :=
  let lane : Nat := if op = 0 then as.zipIdx.foldl (fun p (a, i) => cellOp 0 p a (decodeNum 1 (wsum w i))) 0 else 0
  { r with
    asum := if op = 0 then (r.asum.zip as).map (fun e => BitVec.ofNat 32 (fp32 (xadd false (decodeNum 1 e.1.toNat) e.2)))
      else r.asum
    colsum := r.colsum ++ [BitVec.ofNat 32 lane]
    streamed := r.streamed + 1 }

/-- The scratchpad rows that activation rows [j, j + n) lie in. -/
def actRows (k : Core) (slot afc j n : Nat) : List Nat :=
  let h := headOf k slot
  let b := if operandSlots afc = 2 then 256 else 128
  if hTrans h || hLayout h then
    ((List.range n).flatMap (fun i => (List.range 128).map (fun c => 32 * slot + operandOffset h (fmtWidth afc) (j + i) c / 512))).eraseDups
  else (List.range ((b * (j + n) - 1) / 512 - b * j / 512 + 1)).map (fun i => 32 * slot + b * j / 512 + i)

/-- The scratchpad rows of the scales of activation rows [j, j + n): 8 bytes a row. -/
def scaleRows (slot j n : Nat) : List Nat :=
  (List.range ((8 * (j + n) - 1) / 512 - 8 * j / 512 + 1)).map (fun i => 32 * slot + 8 * j / 512 + i)

/-- Stream the rows of an `act`: row i enters i steps after the first, and its sum has landed 257 cycles later. -/
def streamRows (s : State) (core : Nat) (r : Run) (w : Weights) (ops : List Nat) (afc slot sc j row n : Nat) (y fresh : Bool) : Run :=
  let k := coreOf s core
  let op (i : Nat) : Nat := ops.getD (i % ops.length) 0
  let sums := (List.range n).map (fun i => rowSum k w afc slot sc (j + i) (op i) y fresh (row + i))
  let r1 := if w.cks then (List.range n).foldl (fun x i => checkRow x w (actRow k slot sc afc (j + i)) (op i)) r else r
  let each := if formatClass afc = some 2 then 2 else 1
  let r2 := charge s { r1 with sums := r1.sums ++ sums } (each * n) true
  let lands := (List.range n).foldl (fun m i =>
    fset m (row + i) (r1.depth + halfCycles s (each * i) true + halfCycles s 257 false)) (landings' r1 y)
  nextUop (if y then { r2 with landY := lands } else { r2 with landX := lands })

/-- The causes of one `act` stand in this order where several apply: format combination, CPAT, the ranges of rows and slots,
headers, and the rest (log 49). -/
def startAct (s : State) (aslot afc : Nat) (y fresh : Bool) (row0 nr srow0 ix scslot expswz core : Nat) (r : Run) : Nat ⊕ State :=
  let k := coreOf s core
  let cid := r.r.cid
  let cl := if y then Cluster.y else Cluster.x
  let t := tileOf (ctxOf s cid) cl
  let n := nr + 1
  match r.weights, formatClass afc with
  | some w, some cls =>
    if formatClass w.fc != some cls || typeClash t.atype (accTypeOf cls) then .inl 1
    else match cpatOps (kget (ctxOf s cid) 0x07) with
      | none => .inl 5
      | some ops =>
        if (cls = 1 || cls = 3) && ops.any (· != 0) then .inl 5
        else match rowBase r row0 ix n, rowBase r srow0 ix n, slotOperand r aslot,
            (if cls = 3 then slotOperand r scslot else .inr 0) with
          | some row, some j, .inr slot, .inr sc =>
            let two := operandSlots afc = 2 && (decide (64 < j + n) || hTrans (headOf k slot))
            (match firstCause ([headerCheck s core r slot afc expswz true]
                ++ [if two then headerCheck s core r (slot + 1) afc expswz true else none]
                ++ [if cls = 3 then headerCheck s core r sc 0x09 0 false else none]) with
             | some c => .inl c
             | none =>
               let rows := actRows k slot afc j n ++ (if cls = 3 then scaleRows sc j n else [])
               if w.cks && 128 < r.streamed + n then .inl 3
               else match badWord k (rowWords rows) with
               | some b => .inr (meetsBad s core b r)
               | none =>
                 let s0 := readRows s core cid rows (stretched s (if cls = 2 then 2 * n else n))
                 let s1 := setCtx s0 cid (setTile (ctxOf s0 cid) cl { t with atype := accTypeOf cls })
                 .inr (setRun s1 core (streamRows s1 core r w ops afc slot sc j row n y fresh)))
          | _, _, _, _ => .inl 3
  | _, _ => .inl 1

/-- `act`. -/
def execAct (aslot afc : BitVec 8) (acc fresh : Bool) (row0 nr srow0 : BitVec 7) (ix : BitVec 2)
    (scslot expswz : BitVec 8) (s : State) : Out :=
  .next (engineOp s (startAct s aslot.toNat afc.toNat acc fresh row0.toNat nr.toNat srow0.toNat ix.toNat scslot.toNat
    expswz.toNat))

/-- ACT_ROW_LANDS: the oldest streamed row's sum lands (R113, R115, R324). -/
def execActRowLands (core : Nat) (s : State) : Out :=
  match runOf s core with
  | none => .next s
  | some r =>
    match r.sums with
    | [] => .next s
    | x :: rest =>
      if s.cold.pause then .next s
      else .next (returnAccs (setRun (landRow s r.r.cid x) core { r with sums := rest }) core)

/-! ### drn (R119 to R122, R320) -/

/-- A drain format that the accumulator type allows (R120). -/
def drainOk (t : AccType) (dfc : Nat) : Bool :=
  match t with
  | .i32 => [0x0E, 0x0C, 0x0A, 0x0D, 0x0B].contains dfc
  | _ => (1 ≤ dfc && dfc ≤ 5) || isBinary8 dfc

/-- The slots that a drain fills are in the tile set. -/
def drainFits (r : Run) (slot fc : Nat) : Bool :=
  (List.range (drainSlots fc)).all (fun i => r.r.tiles.contains (.slot (slot + i)))

def startDrn (s : State) (src : Bool) (dkind : Nat) (dacc : Bool) (dslot dfc mode : Nat) (sat : Bool)
    (amax row0 nr ix core : Nat) (r0 : Run) : Nat ⊕ State :=
  let cid := r0.r.cid
  let cl := if src then Cluster.y else Cluster.x
  let t := tileOf (ctxOf s cid) cl
  let m := if mode = 7 then r0.r.mode else mode
  let pending := match rowBase r0 row0 ix (nr + 1) with
    | some row => r0.sums.any (fun x => x.accY == src && row ≤ x.row && x.row ≤ row + nr)
    | none => false
  if pending then .inr s
  else if !drainOk t.atype dfc then .inl 1
  else match rowBase r0 row0 ix (nr + 1), (if dkind = 1 then slotOperand r0 dslot else .inr 0) with
    | some row, .inr slot =>
      if dkind = 1 && !drainFits r0 slot dfc then .inl 3
      else
        let r := waitRows r0 src row (nr + 1)
        let d : Drain := { srcY := src, slots := if dkind = 1 then some slot else none, dstY := dacc, fc := dfc, mode := m
                           sat := sat, track := amax != 0, next := row, last := row + nr
                           dseq := (kget (ctxOf s cid) 0x06).toNat }
        let s1 := if amax = 1 then setCtx s cid (setTile (ctxOf s cid) cl { t with amax := 0 }) else s
        .inr (setRun s1 core { charge s r (nr + 5) false with drain := some d, busy := true })
    | _, _ => .inl 3

/-- `drn`: it starts once every pending update to its source rows has landed; its rows follow as DRAIN_ROW. -/
def execDrn (src : Bool) (dkind : BitVec 2) (dacc : Bool) (dslot dfc : BitVec 8) (mode : BitVec 3) (sat : Bool)
    (amax : BitVec 2) (row0 nr : BitVec 7) (ix : BitVec 2) (s : State) : Out :=
  .next (engineOp s (startDrn s src dkind.toNat dacc dslot.toNat dfc.toNat mode.toNat sat amax.toNat row0.toNat nr.toNat
    ix.toNat))

/-- The amax register after a row (R122). -/
def amaxAfter (t : AccType) (old : Nat) (vs : List Nat) : Nat :=
  let mags := vs.map (fun v => if t = .i32 then fp32 (xabs (decodeNum 0x0E v)) else v % 2 ^ 31)
  (mags.foldl (fun m v => if 0x7F80_0000 < m || 0x7F80_0000 < v then 0x7FC0_0000 else max m v) old)

/-- The codes of a drained row. SR takes SRSEED as it stands when the row is drained (log 93). -/
def drainCodes (c : Ctx) (t : AccType) (d : Drain) (vs : List Nat) : List Nat :=
  vs.zipIdx.map (fun (v, col) =>
    if t = .i32 then convertNum 0x0E d.fc 0 0 true v
    else roundEncode d.fc d.mode (drainDraw c d.dseq d.srcY d.next col) d.sat (decodeNum 1 v))

/-- Write the codes of a row. -/
def putDrained (s : State) (core cid : Nat) (d : Drain) (codes : List Nat) : State :=
  let w := fmtWidth d.fc
  match d.slots with
  | none => setCtx s cid (writeRow (ctxOf s cid) (if d.dstY then .y else .x) d.next (rowOfLanes w codes))
  | some slot =>
    let v := codes.foldr (fun x acc => x % 2 ^ w + 2 ^ w * acc) 0
    let off := 16384 * slot + d.next * 16 * w
    setCore s core (putSpan (useBanks (coreOf s core) [off / 65536] 1 true) off (leBytes (16 * w) v) 8)

/-- DRAIN_ROW: a row is read, converted and written, and amax updated once. -/
def execDrainRow (core : Nat) (s : State) : Out :=
  match runOf s core with
  | none => .next s
  | some r =>
    match r.drain with
    | none => .next s
    | some d =>
      if s.cold.pause || d.last < d.next then .next s
      else
        let cid := r.r.cid
        let cl := if d.srcY then Cluster.y else Cluster.x
        let t := tileOf (ctxOf s cid) cl
        let bits := (readRow (ctxOf s cid) cl d.next).bits
        let vs := (List.range 128).map (lane bits 32)
        let s1 := if d.track then
            setCtx s cid (setTile (ctxOf s cid) cl { t with amax := BitVec.ofNat 32 (amaxAfter t.atype t.amax.toNat vs) }) else s
        let s2 := putDrained s1 core cid d (drainCodes (ctxOf s cid) t.atype d vs)
        .next (setRun s2 core { r with drain := some { d with next := d.next + 1 } })

/-- The headers of the slots a drain has filled (R119). -/
def drainHeads (k : Core) (d : Drain) : Core :=
  match d.slots with
  | none => k
  | some slot =>
    { k with heads := (List.range (drainSlots d.fc)).foldl (fun h i =>
      fset h (slot + i) (withShape (fget h (slot + i) 0) false false (fmtOf d.fc) (hSwz (fget h (slot + i) 0)))) k.heads }

/-! ### cks (R123, R321) -/

/-- Element c of the row checksum. -/
def rowCheck (w : Weights) (asum : List Half) (c : Nat) : Nat :=
  asum.zipIdx.foldl (fun p (a, r) => cellOp 0 p (decodeNum 1 a.toNat) (weightValue w r c)) 0

/-- The two vectors: +0 where no `wld` with CKS came before in the routine, and in the 8-bit integer class. A later `wld` without CKS
ends the checking of rows, and the row checksum is formed from the weights latched last (log 49). -/
def checkVectors (r : Run) : List Half × List Half :=
  let zeros := List.replicate 128 0
  match r.weights with
  | some w =>
    if formatClass w.fc = some 1 then (zeros, zeros)
    else ((List.range 128).map (fun j => r.colsum.getD j 0),
      (List.range 128).map (fun c => if r.asum.isEmpty then 0 else BitVec.ofNat 32 (rowCheck w r.asum c)))
  | none => (zeros, zeros)

def startCks (s : State) (write cacc : Bool) (crow : Nat) (racc : Bool) (rrow core : Nat) (r0 : Run) : Nat ⊕ State :=
  let r := waitAll r0
  if !r.sums.isEmpty then .inr s
  else
    let v := checkVectors r
    let r1 := { r with
      cks := if write then [(cacc, crow, v.1), (racc, rrow, v.2)] else []
      asum := r.asum.map (fun _ => 0), colsum := [], streamed := 0 }
    .inr (setRun s core { charge s r1 (if write then 256 else 1) false with busy := true })

/-- `cks`: it starts once every pending update has landed; its rows are written when it completes. -/
def execCks (write cacc : Bool) (crow : BitVec 7) (racc : Bool) (rrow : BitVec 7) (s : State) : Out :=
  .next (engineOp s (startCks s write cacc crow.toNat racc rrow.toNat))

/-! ### Loops, index registers and pointers (R322, R323) -/

/-- The address after the `mnd` that matches, from an address on. -/
def afterMnd (ops : List Instr) (pc depth : Nat) : Nat :=
  match ops with
  | [] => pc
  | .mnd :: rest => if depth = 0 then pc + 1 else afterMnd rest (pc + 1) (depth - 1)
  | .mlp _ _ :: rest => afterMnd rest (pc + 1) (depth + 1)
  | _ :: rest => afterMnd rest (pc + 1) depth

/-- Parameter register k of the copies. -/
def mcopyOf (r : Run) (k : Nat) : Nat := (r.r.mcopy.getD k 0).toNat

/-- `mlp`. -/
def execMlp (cnt : BitVec 16) (mreg : BitVec 3) (s : State) : Out :=
  .next (engineOp s (fun core r =>
    let n := if cnt = 0 then field (mcopyOf r mreg.toNat) 0 32 else cnt.toNat
    let r1 := chargeOne s (nextUop r)
    .inr (setRun s core (if n = 0 then
        { r1 with pc := afterMnd (uopsOf (coreOf s core) r1.pc (routineEnd r.r - r1.pc)) r1.pc 0 }
      else { r1 with loops := (r1.pc, n) :: r1.loops }))))

/-- `mnd`: with no open loop it ends the routine (R116). -/
def execMnd (s : State) : Out :=
  .next (engineOp s (fun core r =>
    let r1 := chargeOne s (nextUop r)
    .inr (setRun s core (match r1.loops with
      | [] => { r1 with pc := routineEnd r.r }
      | (a, n) :: rest => if n ≤ 1 then { r1 with loops := rest } else { r1 with pc := a, loops := (a, n - 1) :: rest }))))

/-- A signed 16-bit value. -/
def wrap16 (v : Int) : Int := signedOf 16 (v % 65536).toNat

/-- `midx`. -/
def execMidx (ireg op : BitVec 2) (val : BitVec 16) (mreg : BitVec 3) (s : State) : Out :=
  .next (engineOp s (fun core r =>
    let old := fget r.idx ireg.toNat 0
    let v := if op = 0 then wrap16 val.toNat else if op = 1 then wrap16 (old + val.toNat) else wrap16 (field (mcopyOf r mreg.toNat) 0 16)
    .inr (setRun s core { chargeOne s (nextUop r) with idx := fset r.idx ireg.toNat v })))

/-- The slot a `msel` sets, `some none` for none; the tile-range cause otherwise. -/
def mselSlot (r : Run) (src : Bool) (val : Nat) : Option (Option Nat) :=
  if src then (if 7 < val then none else
    let b := field (mcopyOf r 1) (8 * val) 8
    some (if b = 0 then none else some (b - 1)))
  else if r.r.tiles.contains (.slot val) then some (some val) else none

/-- `msel`. -/
def execMsel (k : BitVec 3) (src : Bool) (val : BitVec 8) (s : State) : Out :=
  .next (engineOp s (fun core r =>
    match mselSlot r src val.toNat with
    | none => .inl 3
    | some p =>
      .inr (setRun s core { chargeOne s (nextUop r) with
        ptrs := match p with | some x => fset r.ptrs k.toNat x | none => fdel r.ptrs k.toNat })))

/-- `mnop`. -/
def execMnop (s : State) : Out := .next (engineOp s (fun core r => .inr (setRun s core (chargeOne s (nextUop r)))))

/-! ### Routines (R117, R128, R130, R131) -/

/-- The state of a routine at its start: its pointers come from m0 (R310, R316). -/
def freshRun (r : Routine) : Run :=
  { r := r, pc := r.start
    ptrs := (paramBytes (r.mcopy.getD 0 0)).zipIdx.filterMap (fun e => if e.1 = 0 then none else some (e.2, e.1 - 1))
    idx := [], loops := [] }

/-- A routine cut short goes on: the engine repeats its last `wld` (R128). -/
def goOnRun (s : State) (r : Run) : Run :=
  match r.weights with
  | some w => charge s r (if 6 ≤ w.fc && w.fc ≤ 8 then 136 else 128) true
  | none => r

/-- The scratchpad rows of the `wld` that a routine cut short repeats. -/
def repeatRows (k : Core) (r : Run) : List Nat :=
  match r.lastWld.bind (fun a => (uopsOf k a 1).head?) with
  | some (.wld wslot wfc sslot _ _ _) =>
    (match slotOperand r wslot.toNat, slotOperand r sslot.toNat with
     | .inr w, .inr sc => slotRows (weightSlots w wfc.toNat ++ (if formatClass wfc.toNat = some 3 then [sc] else []))
     | .inr w, .inl _ => slotRows (weightSlots w wfc.toNat)
     | .inl _, _ => [])
  | _ => []

/-- It goes on: the repeated `wld` reads its slots as any other does (R127, R128). -/
def resumeRun (s : State) (core : Nat) (r : Run) : State :=
  let k := coreOf s core
  let rows := repeatRows k r
  match badWord k (rowWords rows) with
  | some b => meetsBad s core b r
  | none => readRows s core r.r.cid rows (stretched s (if r.weights.any (fun w => 6 ≤ w.fc && w.fc ≤ 8) then 136 else 128))

/-- ROUTINE_START: a routine cut short continues first; else the oldest queued one, once its segment has ended and what its
context had issued to its accumulator tiles has performed (R85). -/
def execRoutineStart (core : Nat) (s : State) : Out :=
  let k := coreOf s core
  if k.run.isSome || s.cold.pause || engineHeld s then .next s
  else match k.cuts, k.mqueue with
    | r :: rest, _ => .next (resumeRun (setCore s core { k with run := some (goOnRun s r), cuts := rest }) core (goOnRun s r))
    | [], q :: rest =>
      if q.waits || !handedOver s q.cid q.tiles then .next s
      else .next (setCore (landReady s q.cid) core { coreOf (landReady s q.cid) core with run := some (freshRun q), mqueue := rest })
    | [], [] => .next s

/-- The saved record of a pre-empted context, by its node. -/
def savedOf (s : State) (cid : Nat) : Option (Nat × Saved) := s.saved.find? (fun e => e.2.cid == cid && e.2.ctx.task.isNone)

/-- The engine has retired for a victim: the routine cut short, if any, and the queued ones go to its record (R47,
R128). Those of a task that the watchdog stopped are discarded (R50). -/
def parkRoutines (s : State) (cid : Nat) (cut : Option Run) : State :=
  let core := cid / 4
  let k := coreOf s core
  let k1 := { k with
    run := if cut.isSome then none else k.run
    mqueue := k.mqueue.filter (fun q => q.cid != cid)
    cuts := k.cuts.filter (fun c => c.r.cid != cid)
    stopFor := k.stopFor.filter (fun c => c != cid % 4) }
  match savedOf s cid with
  | none =>
    let rs := (match cut with | some r => [r.r] | none => []) ++ routinesOf s cid
    returnTiles (setCore s core k1) cid (rs.flatMap (·.tiles))
  | some (n, sv) =>
    let run := match cut with | some r => some r | none => k.cuts.find? (fun c => c.r.cid == cid)
    { setCore s core k1 with
      saved := fset s.saved n { sv with queue := k.mqueue.filter (fun q => q.cid == cid), run := run } }

/-- A drain or a checksum is done: rows written, DSEQ on, the source tile's type none (R110, R121, R321). -/
def finishUop (s : State) (core : Nat) (r : Run) : State :=
  let cid := r.r.cid
  match r.drain with
  | some d =>
    let cl := if d.srcY then Cluster.y else Cluster.x
    let c := setTile (ctxOf s cid) cl { tileOf (ctxOf s cid) cl with atype := .none }
    let c1 := kset c 0x06 (BitVec.ofNat 64 (((kget c 0x06).toNat + 1) % 2 ^ 32))
    setRun (setCore (setCtx s cid c1) core (drainHeads (coreOf s core) d)) core
      { nextUop r with drain := none, busy := false, base := r.depth }
  | none =>
    let c := r.cks.foldl (fun c (x : Bool × Nat × List Half) =>
      writeRow c (if x.1 then .y else .x) x.2.1 (rowOfLanes 32 (x.2.2.map (·.toNat)))) (ctxOf s cid)
    setRun (setCtx s cid c) core { nextUop r with cks := [], busy := false }

/-- The routine ends: every tile it still holds returns (R21, R117). -/
def endRoutine (s : State) (core : Nat) (r : Run) : State :=
  let s1 := setCore s core { coreOf s core with run := none }
  let s2 := returnTiles s1 r.r.cid r.r.tiles
  if (coreOf s2 core).stopFor.contains (r.r.cid % 4) then parkRoutines s2 r.r.cid none else s2

/-- The routine has come to its end. -/
def routineOver (r : Run) : Bool := routineEnd r.r ≤ r.pc && r.sums.isEmpty

/-- MICRO_OP_COMPLETE: a drain or checksum, or the routine after its last micro-op and its last landing. MDEPTH
reached meanwhile stops it here; a drain's completion is a retirement, at which a pre-emption stops the engine, after the tiles
whose last touch that was have returned (R21, R128). -/
def execMicroOpComplete (core : Nat) (s : State) : Out :=
  match runOf s core with
  | none => .next s
  | some r =>
    if s.cold.pause then .next s
    else if r.busy then
      if (match r.drain with | some d => decide (d.next ≤ d.last) | none => false) then .next s
      else
        let s1 := finishUop s core r
        let s2 := if depthOut s r then s1 else returnAccs s1 core
        match runOf s2 core with
        | none => .next s2
        | some r2 =>
          if depthOut s r then .next (stopRoutine s2 core 4 r2)
          else if r.drain.isSome && (coreOf s core).stopFor.contains (r.r.cid % 4) then
            .next (if routineOver r2 then endRoutine s2 core r2 else parkRoutines s2 r.r.cid (some r2))
          else .next s2
    else if routineOver r then .next (endRoutine s core r)
    else .next s

/-- MDEPTH_EXPIRY: at the end of a micro-op the count has reached MDEPTH (R49, R130). -/
def execMdepthExpiry (core : Nat) (s : State) : Out :=
  match runOf s core with
  | none => .next s
  | some r => if s.cold.pause || r.busy || !depthOut s r then .next s else .next (stopRoutine s core 4 r)

end Sys2Proof.Machine
end

