-- ==== Sys2Proof/Machine/Launch.lean ====
section
/-! DEFINITION. Launch records, node records and continuation records: their fields and validity (R24 to R28, R41,
R134, R376, R378 to R380), and the nodes made from them. -/

namespace Sys2Proof.Machine

/-- A field of a record, little-endian (R2). -/
def recNat (bs : List Byte) (off n : Nat) : Nat := leNat ((bs.drop off).take n)

/-! ### Reads of the harbour and the service -/

/-- What a read of memory gives: bytes, a fault, or a wait for a page that is being brought in or for the end of an HBM timing hold
(R431). -/
inductive HubRead where
  | data (bs : List Byte)
  | fault
  | held
deriving DecidableEq, Repr

/-- A place from which the 16 service cores see memory, no context's own (R79). -/
def serviceView : Nat := 4 * Config.nMatrix

/-- Read n bytes of an address space through the hub pipe: at package scope by the harbour, and by the service as its cores see
memory (R79). What another package answers in a step it answers again (R88); an uncorrectable read fails, and so does a walk that
meets an uncorrectable entry (R410). -/
def hubRead (s : State) (asid : Nat) (va : Word) (n align : Nat) (service : Bool := false) : State × HubRead :=
  match translate s (hubReq .hub asid va n align false) with
  | .ok acc =>
    if s.cold.hbmHold then (s, .held)
    else
      let s1 := recordRead (noteHubWalks s acc) (accSpans acc) acc.colour none
      let r := answers s1 acc []
      if classCode (spansClass s (accSpans acc) acc.colour) ≠ 0 then (s1, .fault)
      else (r.1, .data (accBytes s serviceView 0 (if service then acc else { acc with shared := some 64 }) r.2))
  | .trap t => (noteFailed s .hub asid t, .fault)
  | .notPresent k => (startPageIn s k, .held)

/-- What a record gives: a value, a status of R376, or a wait as for a read. -/
inductive Got (α : Type) where
  | ok (v : α)
  | bad (status : Nat)
  | held

/-! ### Tile operands (R380) -/

/-- One operand of 8 bytes: none where it is invalid. -/
def tileDecl (w : Nat) : Option TileDecl :=
  let n := field w 20 3
  let first := field w 23 8
  if n = 0 || 4 < n || 191 < first || 192 < first + n then none
  else some { first := first, count := n, plane := field w 0 4, fc := field w 4 8, rows := field w 12 8 }

/-- The slots of operands. -/
def declSlots (ts : List TileDecl) : List Nat := ts.flatMap (fun t => slotRun t.first t.count)

/-- Operands from their bytes: a reserved bit gives status 1 (R5, R376); they are valid only where no two of them overlap. -/
def tileDecls (n : Nat) (bs : List Byte) : Got (List TileDecl) :=
  let ws := (List.range n).map (fun i => recNat bs (8 * i) 8)
  let ts := ws.map tileDecl
  let ds := ts.filterMap id
  if ws.any (fun w => w / 2 ^ 31 != 0) then .bad 1
  else if ts.any (·.isNone) || (declSlots ds).eraseDups.length != (declSlots ds).length then .bad 3
  else .ok ds

/-- Read declared operands. -/
def readTiles (s : State) (asid n : Nat) (p : Word) (service : Bool := false) : State × Got (List TileDecl) :=
  if n = 0 then (s, .ok [])
  else match hubRead s asid p (8 * n) 1 service with
    | (t, .data bs) => (t, tileDecls n bs)
    | (t, .fault) => (t, .bad 3)
    | (t, .held) => (t, .held)

/-- Read argument words. -/
def readArgs (s : State) (asid n : Nat) (p : Word) (service : Bool := false) : State × Got (List Word) :=
  if n = 0 then (s, .ok [])
  else match hubRead s asid p (8 * n) 1 service with
    | (t, .data bs) => (t, .ok ((List.range n).map (fun i => BitVec.ofNat 64 (recNat bs (8 * i) 8))))
    | (t, .fault) => (t, .bad 3)
    | (t, .held) => (t, .held)

/-! ### Argument maps (R358, R378) -/

/-- Place the unnamed words in the lowest free registers of s1 to s8. -/
def placeUnnamed (ms taken : List Nat) : Option (List Nat) :=
  match ms with
  | [] => some []
  | m :: rest =>
    if m ≠ 0 then (placeUnnamed rest taken).map (fun t => m :: t)
    else match ((List.range 8).map (· + 1)).find? (fun r => !taken.contains r) with
      | some r => (placeUnnamed rest (r :: taken)).map (fun t => r :: t)
      | none => none

/-- The registers of n argument words; none where the map is invalid. -/
def argRegs (n : Nat) (argmap : List Nat) : Option (List Nat) :=
  let ms := argmap.take n
  let named := ms.filter (· != 0)
  if named.any (fun m => 0x4E < m) || named.eraseDups.length != named.length then none else placeUnnamed ms named

/-! ### Hierarchies (R24, R25, R27) -/

/-- Units of domain d in one unit of the next domain up, by class; of a package, in this pod at most (R25). -/
def unitsIn (classS : Bool) (pkgs d : Nat) : Nat :=
  if d = 0 then 4 else if d = 1 then (if classS then 16 else 8) else if d = 2 then (if classS then 1 else 12)
  else if d = 3 then (if classS then 1 else 4) else if d = 4 then min 288 pkgs else 1

/-- Units of domain d in one unit of domain u. -/
def unitsBetween (classS : Bool) (pkgs d u : Nat) : Nat :=
  ((List.range (u - d)).map (fun i => unitsIn classS pkgs (d + i))).foldl (· * ·) 1

/-- A level below the level (or next domain up) above it. -/
def levelOk (classS : Bool) (pkgs above : Nat) (top : Bool) (l : Level) : Bool :=
  l.dom ≤ 5 && l.dom ≤ above && l.dom ≤ l.scope && l.scope ≤ 5 && l.extent != 0
    && (if l.dom < above then decide (l.extent ≤ unitsBetween classS pkgs l.dom above)
        else if top then l.extent == 1 else true)

def levelsOk (classS : Bool) (pkgs above : Nat) (top : Bool) (ls : List Level) : Bool :=
  match ls with
  | [] => true
  | l :: rest => levelOk classS pkgs above top l && levelsOk classS pkgs l.dom false rest

/-- Tasks of a hierarchy. -/
def taskCount (ls : List Level) : Nat := (ls.map (·.extent)).foldl (· * ·) 1

/-- R25, in a pod of so many packages. -/
def hierarchyOk (classS : Bool) (pkgs : Nat) (ls : List Level) : Bool :=
  match ls with
  | [] => false
  | l :: _ =>
    ls.length ≤ 8 && levelsOk classS pkgs (if l.dom = 5 then 5 else l.dom + 1) true ls && decide (taskCount ls ≤ 2 ^ 32)

/-- The index at each level of a flattened index, level 0 most significant. -/
def levelIndices (ls : List Level) (index : Nat) : List Nat :=
  match ls with
  | [] => []
  | _ :: rest =>
    let n := taskCount rest
    index / n :: levelIndices rest (index % n)

/-- Tasks of class capacity on one package: contexts of a class. -/
def classContexts (classS : Bool) : Nat := if classS then 64 else 1536

/-- How a hierarchy spreads over packages by its first level below the pod: the extents of the levels above it, its own, how
many of its instances one package takes, the tasks of one instance. -/
structure Spread where
  outer : Nat
  extent : Nat
  per   : Nat
  rest  : Nat
deriving DecidableEq, Repr

/-- The spread by the first level that is not of the pod. -/
def spreadBelow (classS : Bool) (outer : Nat) (ls : List Level) : Option Spread :=
  match ls with
  | [] => none
  | l :: rest =>
    if l.dom = 5 then spreadBelow classS (outer * l.extent) rest
    else some { outer := outer, extent := l.extent, per := unitsBetween classS 1 l.dom 4, rest := taskCount rest }

/-- A hierarchy may spread where level 0 is of the pod or of a package; else it lies within one package (R25). -/
def levelSpread (classS : Bool) (ls : List Level) : Option Spread :=
  match ls with
  | [] => none
  | l :: _ => if l.dom < 4 then none else spreadBelow classS 1 ls

/-- Packages that a spread takes. -/
def Spread.packages (x : Spread) : Nat := (x.extent + x.per - 1) / x.per

/-- The spread of a hierarchy that needs more than one package. -/
def wideSpread (classS : Bool) (ls : List Level) : Option Spread := (levelSpread classS ls).filter (fun x => decide (1 < x.packages))

/-- The packages that hold a task: the instances of the spreading level fill the packages from package 0 on (log 42). -/
def launchPackages (s : State) (classS : Bool) (ls : List Level) : List Nat :=
  match wideSpread classS ls with
  | some x => List.range x.packages
  | none => [s.pkg]

/-- Instances of the spreading level on a package. -/
def Spread.on (x : Spread) (pkg : Nat) : Nat := min x.extent ((pkg + 1) * x.per) - pkg * x.per

/-- Tasks on a package. -/
def tasksOn (s : State) (classS : Bool) (ls : List Level) (pkg : Nat) : Nat :=
  match wideSpread classS ls with
  | some x => x.outer * x.on pkg * x.rest
  | none => if pkg = s.pkg then taskCount ls else 0

/-- The flattened index of the n-th task on a package. -/
def indexOn (classS : Bool) (ls : List Level) (pkg n : Nat) : Nat :=
  match wideSpread classS ls with
  | some x =>
    let each := x.on pkg * x.rest
    n / each * (x.extent * x.rest) + pkg * x.per * x.rest + n % each
  | none => n

/-! ### Node records (R379, R380) -/

/-- Reserved bits of a node record that are set; those of COND, of CODE behind its fields and of an EVENT's MODE are this model's
choice (R5, R380; log 50). -/
def nodeReserved (bs : List Byte) : Bool :=
  let kind := recNat bs 0 1 % 4
  recNat bs 0 1 / 32 != 0 || recNat bs 1 1 / 8 != 0
    || (if kind = 0 then recNat bs 50 6 != 0
        else if kind = 1 then recNat bs 54 10 != 0
        else if kind = 2 then recNat bs 48 16 != 0 || (List.range 8).any (fun i => 32 ≤ recNat bs (40 + i) 1)
        else recNat bs 61 3 != 0 || recNat bs 60 1 / 2 != 0)

/-- Fields out of their range. -/
def nodeFieldsBad (bs : List Byte) : Bool :=
  let kind := recNat bs 0 1 % 4
  8 < recNat bs 3 1 || 4095 < recNat bs 4 2
    || (kind == 0 && (8 < recNat bs 48 1 || 8 < recNat bs 49 1))
    || (kind == 2 && recNat bs 32 8 % 4 != 0)
    || (kind == 3 && 4096 < recNat bs 56 4)

/-- What a node takes from its launch. -/
structure NodeEnv where
  launch : Nat
  asid   : Nat
  entry  : Word
  wd     : Nat
  argmap : List Nat
  /-- the Heresh service reads, not the harbour -/
  service : Bool := false

/-- The core that an explicit placement names, in the form of CTXID: none where the pod or a package has no such place. -/
def explCore (s : State) (home : Word) : Option Nat :=
  if field home.toNat 11 9 < max 1 s.podPkgs && field home.toNat 2 9 < Config.nCores then some (field home.toNat 2 9) else none

/-- The package on which the node of a record of a home package's launch runs: another one only where an explicit placement names it
(R379). -/
def nodeHome (home : Nat) (bs : List Byte) : Nat :=
  if recNat bs 0 1 % 4 = 0 && bitAt (recNat bs 0 1) 4 then field (recNat bs 8 8) 11 9 else home

/-- The same for a launch of this package. -/
def nodePackage (s : State) (bs : List Byte) : Nat := nodeHome s.pkg bs

/-- The successors of a node record; none where one is invalid. -/
def nodeSuccs (bs : List Byte) (ref : Nat → Option SuccRef) : Option (List SuccRef) :=
  let rs := (List.range (recNat bs 3 1)).map (fun i => ref (recNat bs (16 + 2 * i) 2))
  if rs.any (·.isNone) then none else some (rs.filterMap id)

/-- The kind-specific part of a CODE node. -/
def codeKind (s : State) (env : NodeEnv) (bs : List Byte) : State × Got NodeKind :=
  let narg := recNat bs 48 1
  match argRegs narg env.argmap, readArgs s env.asid narg (BitVec.ofNat 64 (recNat bs 40 8)) env.service with
  | none, _ => (s, .bad 3)
  | _, (t, .bad k) => (t, .bad k)
  | _, (t, .held) => (t, .held)
  | some regs, (t, .ok args) =>
    match readTiles t env.asid (recNat bs 49 1) (BitVec.ofNat 64 (recNat bs 56 8)) env.service with
    | (u, .bad k) => (u, .bad k)
    | (u, .held) => (u, .held)
    | (u, .ok tiles) =>
      let home : Word := BitVec.ofNat 64 (recNat bs 8 8)
      let e := recNat bs 32 8
      let expl := bitAt (recNat bs 0 1) 4
      if expl && (explCore s home).isNone then (u, .bad 3)
      else (u, .ok (.code (if e = 0 then env.entry else BitVec.ofNat 64 e) args regs tiles 0
        (if expl then none else some home) (if expl then explCore s home else none) false))

/-- The kind-specific part. -/
def nodeKind (s : State) (env : NodeEnv) (bs : List Byte) : State × Got NodeKind :=
  let kind := recNat bs 0 1 % 4
  if kind = 0 then codeKind s env bs
  else if kind = 1 then
    (s, .ok (.copy (BitVec.ofNat 64 (recNat bs 32 8)) (BitVec.ofNat 64 (recNat bs 40 8)) (recNat bs 48 4 + 1) (recNat bs 52 2)))
  else if kind = 2 then (s, .ok (.cond (BitVec.ofNat 64 (recNat bs 32 8)) ((List.range 8).map (fun i => recNat bs (40 + i) 1))))
  else (s, .ok (.event (BitVec.ofNat 64 (recNat bs 32 8)) (BitVec.ofNat 64 (recNat bs 40 8)) (BitVec.ofNat 64 (recNat bs 48 8))
    (recNat bs 56 4) (recNat bs 60 1 == 1)))

/-- A COPY node may not write a pod-shared plane (R134). -/
def copyToShared (s : State) (asid : Nat) (k : NodeKind) : Bool :=
  match k with
  | .copy _ dst _ mask => (match regionAt s asid (field dst.toNat 0 60) with
      | some (_, r) => (planesOf mask).any (fun p => dEn (descAt s r p) && dShared (descAt s r p))
      | none => false)
  | _ => false

/-- The node of a record of that kind, with its successors. -/
def nodeFrom (s : State) (env : NodeEnv) (bs : List Byte) (kind : NodeKind) (succs : List SuccRef) : Node :=
  let b0 := recNat bs 0 1
  let wd := recNat bs 6 2
  { launch := env.launch, kind := kind, classS := bitAt b0 2, prio := recNat bs 1 1 % 8, queue := recNat bs 2 1
    feeds := bitAt b0 3, wd := if wd = 0 then env.wd else wd, count := recNat bs 4 2, succs := succs
    state := if recNat bs 4 2 = 0 then .ready else .waiting, real := recNat bs 4 2 == 0, entered := s.gts, turn := s.hseq }

/-- The node of a record. -/
def nodeOf (s : State) (env : NodeEnv) (bs : List Byte) (ref : Nat → Option SuccRef) : State × Got Node :=
  if nodeReserved bs then (s, .bad 1)
  else if nodeFieldsBad bs then (s, .bad 3)
  else match nodeSuccs bs ref, nodeKind s env bs with
    | none, (t, _) => (t, .bad 3)
    | _, (t, .bad k) => (t, .bad k)
    | _, (t, .held) => (t, .held)
    | some succs, (t, .ok kind) =>
      if copyToShared t env.asid kind then (t, .bad 3) else (t, .ok (nodeFrom t env bs kind succs))

/-! ### Launch records (R378) -/

/-- A positive normal fp32 power of two. -/
def isPow2Scale (v : Nat) : Bool := v % 2 ^ 23 == 0 && 1 ≤ v / 2 ^ 23 && v / 2 ^ 23 ≤ 254

/-- The step section of a record whose STEPPED flag is set; none where R134 rejects it. -/
def stepSection (bs : List Byte) : Option StepSec :=
  let b := bs.drop 192
  let ls0 := recNat b 4 4
  let lmin := recNat b 8 4
  let lmax := recNat b 12 4
  if 64 ≤ recNat b 0 1 || 2 ≤ recNat b 1 1 || recNat b 16 2 = 0 || !isPow2Scale ls0 || !isPow2Scale lmin || !isPow2Scale lmax
      || ls0 < lmin || lmax < ls0 then none
  else some { sgid := recNat b 0 1, exclude := recNat b 1 1 == 1, skewlim := recNat b 2 2, ls0 := BitVec.ofNat 32 ls0
              lsmin := BitVec.ofNat 32 lmin, lsmax := BitVec.ofNat 32 lmax, lswin := recNat b 16 2 }

/-- The level entries. -/
def recordLevels (bs : List Byte) : List Level :=
  (List.range (recNat bs 2 1)).map (fun i =>
    { dom := recNat bs (64 + 8 * i) 1, scope := recNat bs (65 + 8 * i) 1, extent := recNat bs (68 + 8 * i) 2 })

/-- Header checks of status 1. -/
def recordMalformed (bs : List Byte) : Bool :=
  let nlev := recNat bs 2 1
  bs.length < 256 || recNat bs 0 2 != 256 + 64 * recNat bs 38 2 || bs.length < recNat bs 0 2
    || 60 < recNat bs 38 2 || recNat bs 3 1 / 16 != 0 || recNat bs 4 1 / 8 != 0 || recNat bs 6 2 == 0
    || recNat bs 40 4 != 0 || 8 < recNat bs 37 1 || recNat bs 32 4 % 16 != 0 || 8 < recNat bs 210 1
    || recNat bs 211 5 != 0 || recNat bs 224 32 != 0
    || (List.range 8).any (fun i => if i < nlev then recNat bs (66 + 8 * i) 2 != 0 || recNat bs (70 + 8 * i) 2 != 0
        else recNat bs (64 + 8 * i) 8 != 0)
    || (!bitAt (recNat bs 3 1) 0 && recNat bs 192 18 != 0)

/-- The successors of the body. -/
def recordBsucc (bs : List Byte) : List Nat := ((List.range 4).map (fun i => recNat bs (56 + 2 * i) 2)).filter (· != 0xFFFF)

/-- The record's fields. -/
def recordOf (bs : List Byte) (step : Option StepSec) (tiles : List TileDecl) : LaunchRec :=
  let flags := recNat bs 3 1
  { levels := recordLevels bs
    stepped := bitAt flags 0
    rdvLevel := if bitAt flags 1 then some (recNat bs 36 1) else none
    classS := bitAt flags 2
    feeds := bitAt flags 3
    prio := recNat bs 4 1
    queue := recNat bs 5 1
    wd := recNat bs 6 2
    entry := BitVec.ofNat 64 (recNat bs 8 8)
    trap := BitVec.ofNat 64 (recNat bs 16 8)
    seed := BitVec.ofNat 64 (recNat bs 24 8)
    stack := recNat bs 32 4
    args := (List.range (recNat bs 37 1)).map (fun i => BitVec.ofNat 64 (recNat bs (128 + 8 * i) 8))
    argmap := (List.range 8).map (fun i => recNat bs (48 + i) 1)
    routines := recNat bs 44 4 != 0
    bsucc := recordBsucc bs
    step := step
    tiles := tiles
    nodes := (List.range (recNat bs 38 2)).map (fun i => (bs.drop (256 + 64 * i)).take 64)
    tilep := BitVec.ofNat 64 (recNat bs 216 8), ntile := recNat bs 210 1 }

/-- The CODE nodes of a launch's extra nodes (R28). -/
def codeNodes (nodes : List (List Byte)) : List (List Byte) := nodes.filter (fun bs => recNat bs 0 1 % 4 == 0)

/-- The packages that hold a task of a launch of a home package, in its body or among its extra nodes: its step group's members
(R134). -/
def taskPackages (home : Nat) (r : LaunchRec) : List Nat :=
  ((match wideSpread r.classS r.levels with | some x => List.range x.packages | none => [home])
    ++ (codeNodes r.nodes).map (nodeHome home)).eraseDups

/-- The tasks of a core class that a launch has on a package: those of its body and its extra CODE nodes (R134). -/
def classTasks (s : State) (r : LaunchRec) (classS : Bool) (pkg : Nat) : Nat :=
  (if r.classS = classS then tasksOn s r.classS r.levels pkg else 0)
    + (codeNodes r.nodes).countP (fun bs => bitAt (recNat bs 0 1) 2 == classS && nodePackage s bs == pkg)

/-- On some package the tasks of a class outnumber its contexts (R134). -/
def crowded (s : State) (r : LaunchRec) : Bool :=
  (taskPackages s.pkg r).any (fun p => [true, false].any (fun c => classContexts c < classTasks s r c p))

/-- A node reference of a launch record: a placeholder by index, checked only for its range. -/
def recordRef (n i : Nat) : Option SuccRef := if i = 0xFFFF then some (.body 0) else if i < n then some (.node i) else none

/-- The extra nodes of a record, in order. -/
def recordNodes (s : State) (env : NodeEnv) (recs : List (List Byte)) (ref : Nat → Option SuccRef) : State × Got (List Node) :=
  match recs with
  | [] => (s, .ok [])
  | bs :: rest =>
    match nodeOf s env bs ref with
    | (t, .bad k) => (t, .bad k)
    | (t, .held) => (t, .held)
    | (t, .ok nd) =>
      match recordNodes t env rest ref with
      | (u, .ok ns) => (u, .ok (nd :: ns))
      | (u, x) => (u, x)

/-- ENTRY is a parcel address in the image (R378; log 88). -/
def entryIn (im : Image) (entry : Word) : Bool := entry.toNat % 2 == 0 && im.base.toNat ≤ entry.toNat && entry.toNat < im.base.toNat + im.size

/-- Validate a launch record in full, in the order of the status codes of R376. -/
def validate (s : State) (asid : Nat) (im : Image) (bs : List Byte) : State × Got LaunchRec :=
  if recordMalformed bs then (s, .bad 1)
  else
    let flags := recNat bs 3 1
    let classS := bitAt flags 2
    let ls := recordLevels bs
    if !hierarchyOk classS (max 1 s.podPkgs) ls || (bitAt flags 1 && ls.length ≤ recNat bs 36 1) then (s, .bad 2)
    else if (argRegs (recNat bs 37 1) ((List.range 8).map (fun i => recNat bs (48 + i) 1))).isNone
        || (recordBsucc bs).any (fun i => recNat bs 38 2 ≤ i) || !entryIn im (BitVec.ofNat 64 (recNat bs 8 8)) then (s, .bad 3)
    else match readTiles s asid (recNat bs 210 1) (BitVec.ofNat 64 (recNat bs 216 8)) true with
      | (t, .bad k) => (t, .bad k)
      | (t, .held) => (t, .held)
      | (t, .ok tiles) =>
        let step := if bitAt flags 0 then stepSection bs else none
        let r := recordOf bs step tiles
        let env : NodeEnv := { launch := 0, asid := asid, entry := r.entry, wd := r.wd, argmap := r.argmap, service := true }
        match recordNodes t env r.nodes (recordRef r.nodes.length) with
        | (u, .bad k) => (u, .bad k)
        | (u, .held) => (u, .held)
        | (u, .ok ns) =>
          if bitAt flags 0 && (step.isNone || crowded s r) then
            (u, .bad 4)
          else if step.any (fun x => (fget? s.groups x.sgid).any (·.live)) then (u, .bad 9)
          else (u, .ok { r with kinds := ns.map (·.kind) })

end Sys2Proof.Machine
end

