-- ==== Sys2Proof/Machine/Task.lean ====
section
/-! DEFINITION. `post`, `tend`, `targ`, and the harbour's room for nodes (R41, R42, R268 to R270, R386). -/

namespace Sys2Proof.Machine

/-! ### Room for nodes (R28, R42, R386) -/

/-- The nodes that are resident: those that have been created and have not finished. -/
def residents (s : State) : List Node := (s.nodes.map (·.2)).filter (fun n => n.state != .done && n.state != .unborn)

/-- The shard of a queue. -/
def shardOf (queue : Nat) : Nat := queue % 4

/-- The resident nodes a queue may hold: 0 stands for no limit. -/
def quotaOf (s : State) (queue : Nat) : Nat := fget s.quotas queue 256

/-- n more nodes of a queue fit in its shard and its quota, and have numbers: 65,535 of them in all, for 0xFFFF names the body and no
node (R378; log 97). -/
def roomFor (s : State) (queue n : Nat) : Bool :=
  let rs := residents s
  let q := quotaOf s queue
  decide ((rs.filter (fun x => shardOf x.queue == shardOf queue)).length + n ≤ Config.shardNodes)
    && (q == 0 || decide ((rs.filter (fun x => x.queue == queue)).length + n ≤ q))
    && decide (rs.length + n ≤ 65535)

/-! ### post (R268) -/

/-- The record as a load reads it after the fence, before any store of its own bundle (R82): its bytes and check class. -/
def postRead (t : State) (acc : Access) : State × List Byte × Nat :=
  let cls := readClass t t.cur (me t).seq acc
  let r := readFor t (threadPipe (myCore t)) t.cur (me t).seq acc
  (r.1, r.2, cls)

/-- A full shard, or a queue at its quota, stalls the bundle (R42, R386); the read waits for the end of an HBM timing hold (R431). -/
def postGate (acc : Access) (t : State) : Option (State × Reason) :=
  let (_, bs, cls) := postRead t acc
  let queue := recNat bs 2 1
  if t.cold.hbmHold then some (t, .waiting)
  else if cls ≠ 0 || roomFor t queue 1 then none else some (t, .shardFull queue)

/-- The record, as the state s before the bundle has it, goes to the harbour; a read that fails its check leaves the destination
empty (R65, R410). -/
def postEffect (s : State) (acc : Access) (va : Word) (code : Nat) (t : State) : State :=
  let (_, bs, cls) := postRead s acc
  let t1 := (postRead t acc).1
  if cls ≠ 0 then deferTrap (setMe t1 (emptyReg (me t1) code)) t1.cur (readTrap va cls)
  else startPending t1 code (.post bs (((me t1).task.map (·.launch)).getD 0))

/-- post. -/
def planPost (o : Fields) (s : State) : Plan :=
  match srcA s o with
  | none => illegalPlan
  | some a =>
    let code := o.dst.toNat
    let x := translate s (threadReq s a.v 64 64 false)
    let acc := xlateAcc x
    if !cpOk s o || !noB o || !scalarDest code then illegalPlan
    else {
      emptyTrap := anyEmptyTrap [a]
      errs := resErr 2 o.srca.toNat a
      blocks := emptyWaits [a] ++ destWaits s (.scalar code) ++ fenceWaits s 2
      takesTag := true
      stop := xlateStop x a.v false
      dests := [.scalar code]
      endsSeg := true
      gate := if (xlateStop x a.v false).isSome then fun _ => none else postGate acc
      effect := postEffect s acc a.v code }

/-- `post` alone in its bundle. -/
def execPost (o : Fields) (s : State) : Out := .next (issueAlone o 0x0D (fun _ => planPost o) s)

/-! ### tend and targ (R269, R270) -/

/-- tend: the context stops as `halt` does once the bundle has its effect (R269). -/
def planTend (o : Fields) (s : State) : Plan :=
  match srcA s o with
  | none => illegalPlan
  | some a =>
    if !cpOk s o || !noB o || o.dst != 0 then illegalPlan
    else {
      emptyTrap := anyEmptyTrap [a]
      blocks := emptyWaits [a]
      post := .tend (a.v.setWidth 32) }

/-- `tend` alone in its bundle. -/
def execTend (o : Fields) (s : State) : Out := .next (issueAlone o 0x0E (fun _ => planTend o) s)

/-- What `targ` reads of a task's levels: index, extent; none beyond them. -/
def targValue (levels : List (Nat × Nat)) (k : Nat) : Option Nat :=
  if k < 8 then (levels[k]?).map (·.1)
  else if k < 16 then (levels[k - 8]?).map (·.2)
  else if k = 16 then some levels.length else none

/-- targ. -/
def planTarg (o : Fields) (s : State) : Plan :=
  match targValue (((me s).task.map (·.levels)).getD []) (shortK o) with
  | none => illegalPlan
  | some n => scalarPlan s (cpOk s o && noA o) o.dst.toNat 2 [] (BitVec.ofNat 64 n) (rho (BitVec.ofNat 64 n))

/-- `targ` alone in its bundle. -/
def execTarg (o : Fields) (s : State) : Out := .next (issueAlone o 0x0F (fun _ => planTarg o) s)

end Sys2Proof.Machine
end

