-- ==== Sys2Proof/Machine/Harbour.lean ====
section
/-! DEFINITION. The harbour's graph: nodes finish and release their successors, COND nodes choose, launches expand and
complete (R25 to R36, R41, R42, R268, R381). -/

namespace Sys2Proof.Machine

/-! ### The module's state code (R423, R425, R436) -/

/-- A change of state is reported to the cryostat and recorded. -/
def setColdState (s : State) (new : Nat) : State :=
  let old := s.cold.state
  if old = new then s
  else
    let s1 := ringAppend { s with cold := { s.cold with state := new } } 5 0 [(1, old), (1, new)]
    { s1 with outbox := s1.outbox ++ [.bandReport s1.cold.band new] }

/-- A class M task is resident: a context of a matrix core is not FREE. -/
def residentM (s : State) : Bool := s.ctxs.any (fun e => decide (e.1 / 4 < Config.nMatrix) && e.2.status != .free)

/-- COLD_IDLE and RUN follow the residence of class M tasks (R426). -/
def settleRun (s : State) : State :=
  if s.cold.state = 4 && residentM s then setColdState s 5
  else if s.cold.state = 5 && !residentM s then setColdState s 4
  else s

/-! ### Launches -/

def launchOf (s : State) (k : Nat) : Option Launch := fget? s.launches k

def setLaunch (s : State) (l : Launch) : State := { s with launches := fset s.launches l.num l }

def setNode (s : State) (n : Nat) (nd : Node) : State := { s with nodes := fset s.nodes n nd }

/-- Tasks of the body on this package (log 42). -/
def bodyCount (s : State) (l : Launch) : Nat :=
  if l.noBody then 0 else tasksOn s l.record.classS l.record.levels s.pkg

/-- The flattened index of the n-th of them. -/
def bodyIndexOf (s : State) (l : Launch) (n : Nat) : Nat := indexOn l.record.classS l.record.levels s.pkg n

/-- The nodes of a launch. -/
def nodesOf (s : State) (num : Nat) : List (Nat × Node) := s.nodes.filter (fun e => e.2.launch == num)

/-- Body tasks of a launch that a release can still reach. -/
def isBody (nd : Node) : Bool := match nd.kind with | .code _ _ _ _ _ _ _ b => b | _ => false

/-! ### Finishing and releasing (R29 to R36) -/

/-- Every body task has finished, here and on the other packages: BSUCC, or for a part of another package's launch a report to
that package (R378; log 86). -/
def bodyOver (s : State) (l : Launch) : State × List (SuccRef × Bool) :=
  if l.bodyDone ≠ bodyCount s l || l.bodyOut ≠ 0 then (s, [])
  else match l.home with
    | some (pkg, num) => ({ s with outbox := s.outbox ++ [.launchReport pkg num { body := true, skip := !l.bodyRan }] }, [])
    | none => (s, l.record.bsucc.filterMap (fun i => (l.refs[i]?).map (fun m => (m, !l.bodyRan))))

/-- n body tasks of this package have finished. -/
def bodyDoneBy (s : State) (num n : Nat) (skip : Bool) : State × List (SuccRef × Bool) :=
  match launchOf s num with
  | none => (s, [])
  | some l =>
    let l1 := { l with bodyDone := l.bodyDone + n, bodyRan := l.bodyRan || !skip }
    if n = 0 then (s, []) else bodyOver (setLaunch s l1) l1

/-- A node finishes: what it releases, each with or without a skip mark. -/
def finishNode (s : State) (n : Nat) (nd : Node) (skip : Bool) : State × List (SuccRef × Bool) :=
  let s1 := setNode s n { nd with state := .done }
  let own := nd.succs.map (fun r => (r, skip))
  if isBody nd then
    let (s2, more) := bodyDoneBy s1 nd.launch 1 skip
    (s2, own ++ more)
  else (s1, own)

/-- A COND node reads its word and chooses (R33, R35, R36). -/
def condRead (s : State) (n : Nat) (nd : Node) (word : Word) (bits : List Nat) : State × List (SuccRef × Bool) :=
  match hubRead s (nodeAsid s n) word 4 4 with
  | (t, .data bs) =>
    (setNode t n { nd with state := .done }, (nd.succs.zip bits).map (fun (r, k) => (r, !bitAt (leNat bs) k)))
  | (t, .fault) => (failNode (setNode t n nd) n, [])
  | (t, .held) => (setNode t n { nd with state := .loading }, [])

/-- A count has reached 0 (R35): the node is skipped, or it is ready; a COND node acts at once. -/
def countZero (s : State) (n : Nat) (nd : Node) : State × List (SuccRef × Bool) :=
  if !nd.real then finishNode s n nd true
  else match nd.kind with
    | .cond word bits => condRead s n nd word bits
    | _ => (setNode s n { nd with state := .ready, entered := s.gts, turn := s.hseq }, [])

/-- One decrement; a node that is not created yet acts on it once it is. -/
def decNode (s : State) (n : Nat) (skip : Bool) : State × List (SuccRef × Bool) :=
  match fget? s.nodes n with
  | none => (s, [])
  | some nd =>
    if nd.state != .waiting && nd.state != .unborn then (s, [])
    else
      let nd1 := { nd with count := nd.count - 1, real := nd.real || !skip }
      if nd1.count = 0 && nd.state == .waiting then countZero s n nd1 else (setNode s n nd1, [])

/-- Every body task loses one predecessor; those not yet created are released, or skipped, with them. -/
def decBody (s : State) (num : Nat) (skip : Bool) : State × List (SuccRef × Bool) :=
  match launchOf s num with
  | none => (s, [])
  | some l =>
    let l1 := { l with bodyPreds := l.bodyPreds - 1, bodyReal := l.bodyReal || !skip
                       bodySkip := l.bodyPreds == 1 && !l.bodyReal && skip }
    let s1 := setLaunch s l1
    let r := ((nodesOf s1 num).filter (fun e => isBody e.2)).foldl (fun (t : State × List (SuccRef × Bool)) e =>
      let d := decNode t.1 e.1 skip
      (d.1, t.2 ++ d.2)) (s1, [])
    if l1.bodySkip then
      let left := bodyCount s l1 - l1.nextTask
      match launchOf r.1 num with
      | none => r
      | some l2 =>
        let d := bodyDoneBy (setLaunch r.1 { l2 with nextTask := l2.nextTask + left }) num left true
        (d.1, r.2 ++ d.2)
    else r

/-- One release; a successor on another package is decremented by a message. -/
def releaseOne (s : State) (r : SuccRef) (skip : Bool) : State × List (SuccRef × Bool) :=
  match r with
  | .node n => decNode s n skip
  | .body num => decBody s num skip
  | .remote pkg n => ({ s with outbox := s.outbox ++ [.decrement pkg n skip] }, [])
  | .podBody pkg home num => ({ s with outbox := s.outbox ++ [.bodyDecrement pkg home num skip] }, [])

/-- Releases until none is left. -/
def settle (fuel : Nat) (work : List (SuccRef × Bool)) (s : State) : State :=
  match fuel, work with
  | 0, _ => s
  | _, [] => s
  | k + 1, (r, skip) :: rest =>
    let d := releaseOne s r skip
    settle k (rest ++ d.2) d.1

/-- Each node finishes once and releases its successors, each body at most four. -/
def releaseAll (work : List (SuccRef × Bool)) (s : State) : State :=
  settle (work.length + s.nodes.foldl (fun n e => n + e.2.succs.length) 0 + 5 * s.launches.length + 1) work s

/-! ### Lazy expansion (R27) -/

/-- The lowest number that a new node may take: one never used, else one whose node has finished. -/
def freeNumber (s : State) : Nat :=
  if s.nodes.length < 65535 then s.nodes.length
  else match s.nodes.find? (fun e => e.2.state == .done) with | some e => e.1 | none => 65535

/-- The argument words of a body task: the first task of a triggered launch gets the payload's address (R358,
R384). -/
def bodyArgs (l : Launch) (index : Nat) : List Word :=
  match l.buffer with
  | some b => if index = 0 then l.record.args.set 0 b else l.record.args
  | none => l.record.args

/-- The node of a body task, with the operands that are read as it is created (R380); those of the validated record stand in for
operands that are no longer valid (log 82). None while a page is missing. -/
def bodyNode (s : State) (l : Launch) (index : Nat) : State × Option Node :=
  let args := bodyArgs l index
  let node (t : State) (tiles : List TileDecl) : State × Option Node :=
    (t, some {
      launch := l.num
      kind := .code l.record.entry args ((argRegs args.length l.record.argmap).getD []) tiles index none none true
      classS := l.record.classS, prio := l.record.prio, queue := l.record.queue, feeds := l.record.feeds, wd := l.record.wd
      count := l.bodyPreds, real := l.bodyReal || l.bodyPreds == 0
      state := if l.bodyPreds = 0 then .ready else .waiting, entered := t.gts, turn := t.hseq })
  match readTiles s l.asid l.record.ntile l.record.tilep with
  | (t, .ok tiles) => node t tiles
  | (t, .bad _) => node t l.record.tiles
  | (t, .held) => (t, none)

/-- What the nodes of a launch take from it. -/
def launchEnv (l : Launch) : NodeEnv :=
  { launch := l.num, asid := l.asid, entry := l.record.entry, wd := l.record.wd, argmap := l.record.argmap }

/-- The kind of an extra node as it is created, on the package where it runs: argument words and operands are read again (R380);
those of the validated record stand in for what is no longer valid (log 82). None while a page is missing. -/
def bornKind (s : State) (l : Launch) (n : Nat) (old : NodeKind) : State × Option NodeKind :=
  if !(match old with | .code .. => true | _ => false) then (s, some old)
  else match (l.extra.zip l.record.nodes ++ l.recs).find? (fun e => e.1 == n) with
  | none => (s, some old)
  | some (_, bs) =>
    match nodeKind s (launchEnv l) bs with
    | (t, .ok k) => (t, some k)
    | (t, .bad _) => (t, some old)
    | (t, .held) => (t, none)

/-- An extra node of a triggered launch is created, where there is room (R386): what it releases, and whether it was. -/
def bear (s : State) (l : Launch) (n : Nat) : State × List (SuccRef × Bool) × Bool :=
  match fget? s.nodes n with
  | none => (s, [], true)
  | some nd =>
    if !roomFor s nd.queue 1 then (s, [], false)
    else match bornKind s l n nd.kind with
      | (t, none) => (t, [], false)
      | (t, some k) =>
        let nd1 := { nd with kind := k, state := .waiting }
        if nd.count = 0 then
          let d := countZero t n nd1
          (d.1, d.2, true)
        else (setNode t n nd1, [], true)

/-- Create extra nodes that are still to come, then body tasks in ascending order, while there is room. -/
def expand (fuel num : Nat) (s : State) : State :=
  match fuel with
  | 0 => s
  | k + 1 =>
    match launchOf s num with
    | none => s
    | some l =>
      if l.done || l.failed then s
      else match l.unborn with
        | n :: rest =>
          let b := bear s l n
          if b.2.2 then
            expand k num (releaseAll b.2.1 (match launchOf b.1 num with | some m => setLaunch b.1 { m with unborn := rest } | none => b.1))
          else b.1
        | [] =>
          if bodyCount s l ≤ l.nextTask || !roomFor s l.record.queue 1 then s
          else match bodyNode s l (bodyIndexOf s l l.nextTask) with
            | (t, none) => t
            | (t, some nd) => expand k num (setLaunch (setNode t (freeNumber t) nd) { l with nextTask := l.nextTask + 1 })

/-- Every launch expands as far as it can. -/
def expandAll (s : State) : State :=
  s.launches.foldl (fun t e => expand (min (e.2.unborn.length + (bodyCount t e.2 - e.2.nextTask)) Config.shardNodes) e.1 t) s

/-! ### Completion of a launch (R381, R384) -/

/-- Nothing of a launch is left to run. -/
def launchOver (s : State) (l : Launch) : Bool :=
  let ns := (nodesOf s l.num).map (·.2)
  !s.pends.any (fun p => match p.kind with | .post _ k => k == l.num | _ => false)
    && (if l.failed then ns.all (fun n => n.state == .waiting || n.state == .unborn || n.state == .done)
        else ns.all (fun n => n.state == .done) && bodyCount s l ≤ l.nextTask && l.partsOut == 0 && l.bodyOut == 0)

/-- What a package reports of its parts of a launch that are over. -/
def partReport (l : Launch) : PartReport :=
  { body := false, parts := l.parts, failed := l.failed, ok := l.ok, trapped := l.trapped, watchdog := l.watchdog, segfail := l.segfail
    lowest := l.lowest, tend := l.tend }

/-- A launch is done: its payload buffer is free, nodes that a failure left waiting go, and its tasks count as ended in its step
group; of a part, the home package learns. -/
def closeLaunch (s : State) (l : Launch) : State :=
  let s0 := setLaunch s { l with done := true }
  let s1 : State := match l.home with
    | some (pkg, num) => { s0 with outbox := s0.outbox ++ [.launchReport pkg num (partReport l)] }
    | none => s0
  endSteps { s1 with
    nodes := s1.nodes.map (fun e => if e.2.launch = l.num then (e.1, { e.2 with state := .done }) else e)
    triggers := match l.trigger with
      | none => s1.triggers
      | some i => s1.triggers.map (fun e => if e.1 = i then (e.1, { e.2 with busy := e.2.busy.filter (fun b => b.2 != l.num) }) else e) } l.num

/-- A launch or an armed trigger uses an image. -/
def imageUsed (s : State) (handle : Nat) : Bool :=
  s.launches.any (fun e => e.2.image == handle && !e.2.done) || s.triggers.any (fun e => e.2.armed && e.2.image == handle)

/-- The code region of an image that has been unloaded holds no loaded image once nothing uses it (R375, R444). -/
def dropCode (s : State) : State :=
  { s with regions := s.regions.map (fun (e : Nat × Region) =>
      if e.2.code && (fget? s.images e.2.lo).any (fun im => !im.live && im.asid == e.2.asid) && !imageUsed s e.2.lo then (e.1, { e.2 with code := false })
      else e) }

/-- The launches that are over complete. -/
def closeLaunches (s : State) : State :=
  s.launches.foldl (fun t e =>
    match launchOf t e.1 with
    | some l => if !l.done && launchOver t l then closeLaunch t l else t
    | none => t) s

/-- What follows any change of the graph; nodes that enter the ready pool from now on come later (R37; log 84). -/
def harbourSettled (s : State) : State :=
  let t := settleRun (expandAll (dropCode (closeLaunches s)))
  { t with hseq := t.hseq + 1 }

/-- A node has finished. -/
def nodeFinished (s : State) (n : Nat) : State :=
  match fget? s.nodes n with
  | none => s
  | some nd =>
    let d := finishNode s n nd false
    harbourSettled (releaseAll d.2 d.1)

/-! ### Creating a launch (R25, R26, R378) -/

/-- The step group of a launch of a home package (R134, R144): the packages that hold a task of it. A replay armed before it holds
for it (R438), and the counters stay, which count since power-up (R146, R435). -/
def openGroup (s : State) (home num : Nat) (r : LaunchRec) (x : StepSec) : State :=
  let fresh : StepGroup := {
    sgid := x.sgid, launch := num, members := taskPackages home r, skewlim := x.skewlim, exclude := x.exclude
    scale := x.ls0, lsmin := x.lsmin, lsmax := x.lsmax, lswin := x.lswin }
  setGroup s (match fget? s.groups x.sgid with
    | none => fresh
    | some g => { fresh with
        replay := g.nextReplay, orders := g.orders
        stcdrop := g.stcdrop, stcexcl := g.stcexcl, stcrej := g.stcrej, stcdel := g.stcdel, stcovf := g.stcovf })

/-- Body predecessors that the extra nodes add. -/
def bodyRefs (ns : List Node) : Nat :=
  (ns.flatMap (·.succs)).countP (fun r => match r with | .body _ => true | _ => false)

/-- Enter the extra nodes under their numbers. -/
def enterNodes (s : State) (es : List (Nat × Node)) : State := es.foldl (fun t e => setNode t e.1 e.2) s

/-- The numbers of n new nodes. -/
def newNumbers (s : State) (n : Nat) : List Nat :=
  let fresh := (List.range (min n (65535 - s.nodes.length))).map (· + s.nodes.length)
  fresh ++ (((s.nodes.filter (fun e => e.2.state == .done)).map (·.1)).take (n - fresh.length))

/-- COND nodes without predecessors act at once. -/
def startConds (s : State) (ns : List Nat) : State :=
  ns.foldl (fun t n =>
    match fget? t.nodes n with
    | some nd =>
      (match nd.kind, nd.state with
       | .cond word bits, .ready => let d := condRead t n nd word bits; releaseAll d.2 d.1
       | _, _ => t)
    | none => t) s

/-- The launch numbers: 1 to 65535, then those of launches that are done. -/
def newLaunch (s : State) : Nat :=
  if s.launches.length < 65535 then s.launches.length + 1
  else match s.launches.find? (fun e => e.2.done) with | some e => e.1 | none => 0

/-! ### The microprogram store (R116, R376) -/

/-- The entries of a routine set: table index, first micro-op, length. -/
def setEntries (im : Image) : List (Nat × Nat × Nat) :=
  (im.rtab.zipIdx).filterMap (fun e =>
    if bitAt e.1.toNat 21 then some (e.2, field e.1.toNat 0 10, field e.1.toNat 10 11) else none)

/-- The sets that stand in the stores: those of launches that are not done, each image's once with its place. -/
def loadedSets (s : State) : List (Image × Nat) :=
  ((s.launches.filter (fun e => !e.2.done && e.2.record.routines)).filterMap (fun e =>
    (fget? s.images e.2.image).map (fun im => (im, e.2.ubase)))).eraseDups

/-- Where a set of micro-ops fits beside others: at the start, or behind one of them. -/
def fitUops (used : List (Nat × Nat)) (n : Nat) : Option Nat :=
  (0 :: used.map (fun u => u.1 + u.2)).find? (fun b => decide (b + n ≤ 1024) && used.all (fun u => decide (b + n ≤ u.1 ∨ u.1 + u.2 ≤ b)))

/-- The place of an image's set in the microprogram stores: that of another launch of the image, or free micro-ops, where no
set that stands there has an entry of its table (log 83). None where the resources are short (R376). -/
def routinePlace (s : State) (handle : Nat) : Option Nat :=
  match fget? s.images handle with
  | none => some 0
  | some im =>
    let sets := loadedSets s
    match sets.find? (fun e => e.1.handle == handle) with
    | some (_, b) => some b
    | none =>
      if sets.any (fun e => (setEntries e.1).any (fun x => (setEntries im).any (fun y => x.1 == y.1))) then none
      else fitUops (sets.map (fun e => (e.2, e.1.uops.length))) im.uops.length

/-- The sets in one store and table. -/
def putSets (sets : List (Image × Nat)) (k : Core) : Core :=
  sets.foldl (fun k (e : Image × Nat) => { k with
    rtab := (setEntries e.1).foldl (fun t x => fset t x.1 (BitVec.ofNat 32 (2 ^ 21 + x.2.2 * 2 ^ 10 + (x.2.1 + e.2)))) k.rtab
    uops := (e.1.uops.zipIdx).foldl (fun t u => fset t (u.2 + e.2) u.1) k.uops }) { k with rtab := [], uops := [] }

/-- The service writes the stores and tables of the matrix cores for a launch's routines (R116). -/
def loadRoutines (s : State) (r : LaunchRec) : State :=
  if r.routines then (List.range Config.nMatrix).foldl (fun t n => setCore t n (putSets (loadedSets t) (coreOf t n))) s else s

/-! ### Launches over several packages (R24, R29, R134, R379; log 86) -/

/-- What the index of a node in a record names: a node here, or a node of another package under the number that its harbour
gives it, which is a free value here. -/
def refFrom (s : State) (pkg id : Nat) (k : Nat) : SuccRef :=
  if pkg = s.pkg then .node id else .remote pkg ((Config.freeWord (s.free + k)).toNat % 65536)

/-- The other packages that hold body tasks. -/
def bodyPackages (s : State) (r : LaunchRec) : List Nat := (launchPackages s r.classS r.levels).filter (fun p => p != s.pkg)

/-- The successors of a node as package `at'` sees them: nodes of this package are remote ones there. -/
def seenFrom (s : State) (at' num : Nat) (rs : List SuccRef) : List SuccRef :=
  if at' = s.pkg then rs
  else rs.flatMap (fun r => match r with
    | .node n => [.remote s.pkg n]
    | .body _ => [.body num, .podBody s.pkg s.pkg num]
    | .podBody p h n => if p = at' then [] else [.podBody p h n]
    | .remote p n => [.remote p n])

/-- Send parts to packages. -/
def sendParts (s : State) (ps : List Nat) (part : Nat → PodPart) : State :=
  { s with outbox := s.outbox ++ ps.map (fun p => .launchPart p (part p)) }

/-- The kind of a node whose successors have been spread over packages: the bit of a successor stands for each place it takes (R33). -/
def spreadBits (succs : List (SuccRef × Nat)) (k : NodeKind) : NodeKind :=
  match k with
  | .cond word bits => .cond word (succs.map (fun e => bits.getD e.2 0))
  | x => x

/-- Enter a validated launch: its nodes, its body, its step group, its routines; the parts of other packages leave for them. The
extra nodes of a triggered launch are created as room allows (R386). A trigger comes with the address of its payload buffer (R384). -/
def createLaunch (s : State) (asid image : Nat) (r : LaunchRec) (trigger : Option (Nat × Word)) : State × Nat :=
  let num := newLaunch s
  let ids := newNumbers s r.nodes.length
  let recs := (r.nodes.zip r.kinds).zip ids
  let refs := (recs.zipIdx).map (fun e => refFrom s (nodePackage s e.1.1.1) e.1.2 e.2)
  let bodies := bodyPackages s r
  let succs (bs : List Byte) : List (SuccRef × Nat) :=
    (List.range (recNat bs 3 1)).flatMap (fun i =>
      let k := recNat bs (16 + 2 * i) 2
      (if k = 0xFFFF then .body num :: bodies.map (fun p => .podBody p s.pkg num) else (refs[k]?).toList).map (fun m => (m, i)))
  let l : Launch := { num := num, asid := asid, image := image, record := r, extra := ids, trigger := trigger.map (·.1)
                      buffer := trigger.map (·.2), refs := refs, ubase := (routinePlace s image).getD 0 }
  let built := recs.map (fun e =>
    (e.2, nodePackage s e.1.1, e.1.1, nodeFrom s (launchEnv l) e.1.1 (spreadBits (succs e.1.1) e.1.2) ((succs e.1.1).map (·.1))))
  let mine := built.filter (fun e => e.2.1 == s.pkg)
  let far := built.filter (fun e => e.2.1 != s.pkg)
  let preds := bodyRefs (built.map (·.2.2.2))
  let pkgs := (bodies ++ far.map (·.2.1)).eraseDups
  let born (nd : Node) : Node := if trigger.isSome then { nd with state := .unborn } else nd
  let t1 := setLaunch (enterNodes { s with free := s.free + recs.length } (mine.map (fun e => (e.1, born e.2.2.2)))) { l with
    bodyPreds := preds, bodyReal := preds == 0, unborn := if trigger.isSome then mine.map (·.1) else []
    partsOut := pkgs.length, bodyOut := bodies.length }
  let t2 := sendParts t1 pkgs (fun p =>
    { home := s.pkg, num := num, asid := asid, image := image, record := r, preds := preds, body := bodies.contains p, buffer := trigger.map (·.2)
      nodes := (far.filter (fun e => e.2.1 == p)).map (fun e => { e.2.2.2 with succs := seenFrom s p num e.2.2.2.succs })
      recs := (far.filter (fun e => e.2.1 == p)).map (·.2.2.1) })
  let t3 := loadRoutines (match r.step with | some x => openGroup t2 s.pkg num r x | none => t2) r
  (harbourSettled (startConds t3 (mine.map (·.1))), num)

/-- The part of a launch here that a home package has sent before. -/
def partOf (s : State) (home num : Nat) : Option Launch :=
  (s.launches.find? (fun e => e.2.home == some (home, num) && !e.2.done)).map (·.2)

/-- Enter the nodes of a part, each under a new number and with its record; they are created as room allows (R386), and a step group whose
tasks here had all ended goes on (log 101). -/
def enterPart (s : State) (num : Nat) (ns : List (Node × List Byte)) : State :=
  rejoinSteps (ns.foldl (fun t (nd, bs) =>
    let n := freeNumber t
    let own (r : SuccRef) : SuccRef := match r with | .body _ => .body num | x => x
    let t1 := setNode t n { nd with launch := num, succs := nd.succs.map own, state := .unborn, entered := t.gts, turn := t.hseq }
    match launchOf t1 num with | some l => setLaunch t1 { l with unborn := l.unborn ++ [n], recs := fset l.recs n bs } | none => t1) s) num

/-- A part brings tasks: its share of the body, or CODE nodes (R134). -/
def bringsTasks (p : PodPart) : Bool := p.body || p.nodes.any (fun nd => match nd.kind with | .code .. => true | _ => false)

/-- The routine set of a launch finds a place here (R116). -/
def routinesFit (s : State) (handle : Nat) (r : LaunchRec) : Bool := !r.routines || (routinePlace s handle).isSome

/-- A part of another package's launch arrives; a step group and a body come with the first one. A package that awaits no task of it
arrives at once (R136; log 87). One for which no number or no place of its routines is free comes again (log 86). -/
def podLaunch (s : State) (p : PodPart) : State :=
  match partOf s p.home p.num with
  | some l => harbourSettled (enterPart (setLaunch s { l with parts := l.parts + 1 }) l.num (p.nodes.zip p.recs))
  | none =>
    let num := newLaunch s
    if num = 0 || !routinesFit s p.image p.record then s
    else
      let l : Launch := { num := num, asid := p.asid, image := p.image, record := p.record, bodyPreds := p.preds
                          bodyReal := p.preds == 0, home := some (p.home, p.num), parts := 1, noBody := !p.body
                          buffer := p.buffer, ubase := (routinePlace s p.image).getD 0 }
      let t := setLaunch s l
      let t1 := match p.record.step with
        | some x => if bringsTasks p then openGroup t p.home num p.record x else t
        | none => t
      let t2 := harbourSettled (enterPart (loadRoutines t1 p.record) num (p.nodes.zip p.recs))
      match p.record.step with
      | some x => if p.body || !bringsTasks p then t2 else checkArrival t2 x.sgid
      | none => t2

/-- A node of another package releases, or skips, the body tasks here of a launch. -/
def podBody (s : State) (home num : Nat) (skip : Bool) : State :=
  if home = s.pkg then harbourSettled (releaseAll [(.body num, skip)] s)
  else match partOf s home num with
    | some l => harbourSettled (releaseAll [(.body l.num, skip)] s)
    | none => s

/-- The lower of two indexed values. -/
def lowerOf {α : Type} (old : Option (Nat × α)) (i : Nat) (v : α) : Option (Nat × α) :=
  match old with
  | some (j, w) => if i < j then some (i, v) else some (j, w)
  | none => some (i, v)

/-- A completion record with what another package counted. -/
def addReport (l : Launch) (r : PartReport) : Launch :=
  { l with
    partsOut := l.partsOut - r.parts, failed := l.failed || r.failed, ok := l.ok + r.ok, trapped := l.trapped + r.trapped
    watchdog := l.watchdog + r.watchdog, segfail := l.segfail + r.segfail
    lowest := match r.lowest with | some (i, v) => lowerOf l.lowest i v | none => l.lowest
    tend := match r.tend with | some (i, v) => lowerOf l.tend i v | none => l.tend }

/-- Another package reports on its part of a launch of this one. -/
def podReport (s : State) (num : Nat) (r : PartReport) : State :=
  match launchOf s num with
  | none => s
  | some l =>
    if r.body then
      let l1 := { l with bodyOut := l.bodyOut - 1, bodyRan := l.bodyRan || !r.skip }
      let d := bodyOver (setLaunch s l1) l1
      harbourSettled (releaseAll d.2 d.1)
    else harbourSettled (setLaunch s (addReport l r))

/-- The tasks of a launch that must be resident together: the body of a stepped launch, one instance of a rendezvous level; of any other
launch none, for it expands lazily (R27, R134, R253). -/
def residentTogether (s : State) (r : LaunchRec) : Nat :=
  if r.stepped then bodyCount s { num := 0, asid := 0, image := 0, record := r }
  else match r.rdvLevel with | some k => taskCount (r.levels.drop (k + 1)) | none => 0

/-- The launch fits: its routine set, its extra nodes, and what of its body must be resident together (R376, code 5). -/
def launchFits (s : State) (handle : Nat) (r : LaunchRec) : Bool :=
  let queues := (r.nodes.map (fun bs => recNat bs 2 1)) ++ List.replicate (residentTogether s r) r.queue
  routinesFit s handle r && queues.eraseDups.all (fun q => roomFor s q (queues.countP (· == q)))
    && [0, 1, 2, 3].all (fun k =>
      ((residents s).filter (fun n => shardOf n.queue == k)).length + queues.countP (fun q => shardOf q == k) ≤ Config.shardNodes)

/-! ### Accepting a posted record (R41, R268, R379) -/

/-- A reference of a continuation record: a node that has neither started nor finished. -/
def postRef (s : State) (i : Nat) : Option SuccRef :=
  match fget? s.nodes i with
  | some nd => if i ≠ 0xFFFF && (nd.state == .waiting || nd.state == .ready) then some (.node i) else none
  | none => none

/-- The outcome of a record. -/
def postNode (s : State) (num : Nat) (bs : List Byte) : State × Got Node :=
  match launchOf s num with
  | none => (s, .bad 3)
  | some l =>
    if recNat bs 0 1 % 4 ≠ 0 && !nodeReserved bs then (s, .bad 3)
    else nodeOf s { launch := num, asid := l.asid, entry := l.record.entry, wd := l.record.wd, argmap := l.record.argmap } bs (postRef s)

/-- The post's result arrives. -/
def postResult (s : State) (p : Pending) (v : Nat) : State :=
  arriveScalar { s with pends := s.pends.filter (fun q => q.id != p.id) } p.cid p.gen p.code (BitVec.ofNat 64 v)

/-- A posted node that another package is to run leaves for it; the number that its harbour gives is a free value here. -/
def postAway (s : State) (num pkg : Nat) (nd : Node) (bs : List Byte) : State × Nat :=
  match launchOf s num with
  | none => (s, 0)
  | some l =>
    let t := setLaunch { s with free := s.free + 1 } { l with partsOut := l.partsOut + 1 }
    (sendParts t [pkg] (fun _ =>
      { home := s.pkg, num := l.num, asid := l.asid, image := l.image, record := l.record
        nodes := [{ nd with succs := seenFrom s pkg num nd.succs }], recs := [bs] }), (Config.freeWord s.free).toNat % 65536)

/-- POST_ACCEPTED: the harbour accepts the record once it has room, or rejects it. -/
def execPostAccepted (id : Nat) (s : State) : Out :=
  match s.pends.find? (fun p => p.id == id) with
  | none => .next s
  | some p =>
    match p.kind with
    | .post bs num =>
      (match postNode s num bs with
       | (t, .bad k) => .next (harbourSettled (postResult t p (2 ^ 63 + k)))
       | (t, .held) => .next t
       | (t, .ok nd) =>
         if nodePackage t bs ≠ t.pkg then
           let e := postAway t num (nodePackage t bs) nd bs
           .next (harbourSettled (postResult e.1 p e.2))
         else if !roomFor t nd.queue 1 then .next t
         else
           let n := freeNumber t
           .next (harbourSettled (postResult (rejoinSteps (setNode t n nd) num) p n)))
    | _ => .next s

/-! ### Messages and pages -/

/-- REMOTE_DECREMENT: a finished node of another package decrements one of this package (R29, R35). -/
def execRemoteDecrement (node : Nat) (skip : Bool) (s : State) : Out :=
  .next (harbourSettled (releaseAll [(.node node, skip)] s))

/-- COND nodes that were held read their words again (R36). -/
def retryConds (s : State) : State :=
  (s.nodes.filter (fun e => e.2.state == .loading)).foldl (fun t e =>
    match e.2.kind with
    | .cond word bits => let d := condRead t e.1 e.2 word bits; harbourSettled (releaseAll d.2 d.1)
    | _ => t) s

/-- PAGE_IN_COMPLETE: what waited for a page of the harbour or of the service goes on. -/
def execPageInComplete (k : PageKey) (good : Bool) (s : State) : Out :=
  if s.cold.hbmHold || !s.moves.any (fun m => m.key == k && m.inward) || (moveHeads s k).any (boxBusy s) then .next s
  else .next (retryHeld (harbourSettled (retryConds (pageIn s k good))))

end Sys2Proof.Machine
end

