-- ==== Sys2Proof/Machine/Entry.lean ====
section
/-! DEFINITION. Dispatch: lists and priorities, placement, the state of a task at entry (R14, R26, R37 to R41, R48,
R134, R176, R236, R253, R358). -/

namespace Sys2Proof.Machine

/-! ### Placement (R24, R26, R39, R41) -/

/-- The unit of a domain that a context lies in. -/
def unitOf (dom cid : Nat) : Nat :=
  if dom = 0 then cid else if dom = 1 then cid / 4 else if dom = 2 then groupOf (cid / 4)
  else if dom = 3 then dieOf (cid / 4) else 0

/-- Two tasks of a launch with their indices at each level, on two contexts: an instance of a level has one unit of
the level's domain, and instances of a level below its outer one have different units. -/
def pairOk (ls : List (Level × Nat × Nat)) (above c d : Nat) : Bool :=
  match ls with
  | [] => true
  | (l, i, j) :: rest =>
    if i = j then unitOf l.dom c == unitOf l.dom d && pairOk rest l.dom c d
    else l.dom == above || unitOf l.dom c != unitOf l.dom d

/-- The domain above level 0, in one unit of which a launch lies. -/
def topDomain (ls : List Level) : Nat := match ls with | [] => 5 | l :: _ => min 5 (l.dom + 1)

/-- The levels with the indices of two tasks. -/
def levelPairs (ls : List Level) (i j : Nat) : List (Level × Nat × Nat) :=
  ls.zip ((levelIndices ls i).zip (levelIndices ls j))

/-- The flattened index of a body node. -/
def bodyIndex (nd : Node) : Option Nat := match nd.kind with | .code _ _ _ _ i _ _ true => some i | _ => none

/-- A body task may lie on a context beside the tasks of its launch that have been placed, whether they have finished or not
(R26, R27). -/
def bodyFits (s : State) (nd : Node) (cid : Nat) : Bool :=
  match launchOf s nd.launch, bodyIndex nd with
  | some l, some i =>
    let ls := l.record.levels
    l.places.all (fun e => e.1 == i
      || (unitOf (topDomain ls) cid == unitOf (topDomain ls) e.2 && pairOk (levelPairs ls i e.1) (topDomain ls) cid e.2))
  | _, _ => true

/-- The core group of a home address (R41): 12·die + group. -/
def homeGroup (s : State) (asid : Nat) (home : Word) : Nat :=
  let pos := field home.toNat 0 60
  let n := field home.toNat 17 43
  let h := (n ^^^ n / 2 ^ 12 ^^^ n / 2 ^ 24) % 2 ^ 12
  let x := slotAt s asid pos 0
  12 * (if sState x = 1 then stackOf (sFrame x) / 2 % 4 else h % 4) + h % 12

/-- The unit that a node's placement names. -/
def unitFits (s : State) (n : Nat) (nd : Node) (cid : Nat) : Bool :=
  match nd.kind with
  | .code _ _ _ _ _ _ _ true => bodyFits s nd cid
  | .code _ _ _ _ _ _ (some core) false => cid / 4 == core
  | .code _ _ _ _ _ (some h) none false => nd.classS || groupOf (cid / 4) == homeGroup s (nodeAsid s n) h
  | _ => true

/-- The slots that a node's operands name. -/
def nodeSlots (nd : Node) : List Nat := match nd.kind with | .code _ _ _ tiles _ _ _ _ => declSlots tiles | _ => []

/-- A core may run tasks of a class: it is enabled, and service cores have been started (R369, R425). -/
def coreRuns (s : State) (core : Nat) (classS : Bool) : Bool :=
  isService core == classS && !s.boot.masked.contains core && (if classS then s.boot.service && s.cold.state != 0 else true)

/-- The tasks of two body nodes of a launch are dispatched together: those of a stepped launch, or of one rendezvous instance (R134,
R253). -/
def together (l : Launch) (i j : Nat) : Bool :=
  let pre (k : Nat) : List Nat := (levelIndices l.record.levels k).take ((l.record.rdvLevel.getD 0) + 1)
  l.record.stepped || (l.record.rdvLevel.isSome && pre i == pre j)

/-- A launch whose tasks are dispatched together. -/
def groupLaunch (l : Launch) : Bool := l.record.stepped || l.record.rdvLevel.isSome

/-- A node of such a launch's body. -/
def isGroup (s : State) (nd : Node) : Bool :=
  isBody nd && (match launchOf s nd.launch with | some l => groupLaunch l | none => false)

/-- The nodes that are dispatched together with a node. -/
def groupNodes (s : State) (n : Nat) (nd : Node) : List Nat :=
  match launchOf s nd.launch, bodyIndex nd with
  | some l, some i =>
    if groupLaunch l then
      ((nodesOf s nd.launch).filter (fun e => match bodyIndex e.2 with | some j => together l i j | none => false)).map (·.1)
    else [n]
  | _, _ => [n]

/-- A node pre-empts for itself, or for the launch of its body (R46). -/
def preemptsFor (s : State) (n : Nat) (nd : Node) (m : Nat) : Bool :=
  m == n || (isGroup s nd && (fget? s.nodes m).any (fun x => x.launch == nd.launch && isBody x))

/-- What a context was taken away for has not been dispatched: the node, or some node of its launch's body. -/
def stillWaits (s : State) (m : Nat) : Bool :=
  (fget? s.nodes m).any (fun x => x.state == .ready
    || (isGroup s x && s.nodes.any (fun e => e.2.launch == x.launch && isBody e.2 && e.2.state == .ready)))

/-- A context that was taken away for another node, or another launch, waits for it (R46, R47). -/
def keptFor (s : State) (n : Nat) (nd : Node) (cid : Nat) : Bool :=
  s.saved.any (fun e => e.2.cid == cid && (match e.2.forNode with | some m => stillWaits s m && !preemptsFor s n nd m | none => false))

/-- A context is on a core of a node's class, with the slots of its operands free (R39, R46). -/
def fitsBut (s : State) (nd : Node) (cid : Nat) : Bool :=
  decide (cid < 4 * Config.nCores) && coreRuns s (cid / 4) nd.classS
    && (nodeSlots nd).all (fun k => !hAlloc (headOf (coreOf s (cid / 4)) k))

/-! ### Units with enough enabled cores (R24, R51) -/

/-- The levels of a launch with their extents on this package. -/
def packageLevels (s : State) (l : Launch) : List Level :=
  let above := l.record.levels.takeWhile (fun x => x.dom == 5)
  match wideSpread l.record.classS l.record.levels, l.record.levels.dropWhile (fun x => x.dom == 5) with
  | some x, b :: rest => above ++ { b with extent := x.on s.pkg } :: rest
  | _, _ => l.record.levels

/-- The whole launch as one instance of the domain above level 0. -/
def rootLevel (ls : List Level) : Level := { dom := topDomain ls, scope := 5, extent := 1 }

/-- The enabled cores hold one structure of levels: each instance of a level has a unit of its own that holds what lies below it. -/
def canHold (ls : List Level) (above : Nat) (cores : List Nat) : Bool :=
  match ls with
  | [] => !cores.isEmpty
  | l :: rest =>
    if l.dom == above then canHold rest l.dom cores
    else if l.dom == 0 then decide (l.extent ≤ 4 * cores.length)
    else
      let unit (c : Nat) : Nat := unitOf l.dom (4 * c)
      decide (l.extent ≤ ((cores.map unit).eraseDups).countP (fun u => canHold rest l.dom (cores.filter (fun c => unit c == u))))

/-- A context lies, level by level, in a unit whose enabled cores hold what the launch has below; in any unit where those that do are
too few. Of several free units a task never takes one in which others of its launch could never be placed (R51; log 98). -/
def holdsRest (ls : List Level) (above : Nat) (cores : List Nat) (cid : Nat) : Bool :=
  match ls with
  | [] => true
  | l :: rest =>
    if l.dom == above then holdsRest rest l.dom cores cid
    else if l.dom == 0 then true
    else
      let unit (c : Nat) : Nat := unitOf l.dom (4 * c)
      let within (u : Nat) : List Nat := cores.filter (fun c => unit c == u)
      let able := ((cores.map unit).eraseDups).filter (fun u => canHold rest l.dom (within u))
      (able.contains (unitOf l.dom cid) || decide (able.length < l.extent)) && holdsRest rest l.dom (within (unitOf l.dom cid)) cid

/-- A body task that is placed by itself leaves room for the others of its launch. -/
def leavesRoom (s : State) (nd : Node) (cid : Nat) : Bool :=
  match launchOf s nd.launch with
  | some l =>
    !isBody nd || groupLaunch l
      || holdsRest (rootLevel l.record.levels :: packageLevels s l) 6 ((List.range Config.nCores).filter (fun c => coreRuns s c nd.classS)) cid
  | none => true

/-- A context is eligible for a CODE node, but for being free (R39, R46). -/
def fitsPlace (s : State) (n : Nat) (nd : Node) (cid : Nat) : Bool := fitsBut s nd cid && unitFits s n nd cid && leavesRoom s nd cid

/-- A context is free, and kept for no other node. -/
def isOpen (s : State) (n : Nat) (nd : Node) (cid : Nat) : Bool := (ctxOf s cid).status == .free && !keptFor s n nd cid

/-- A free context that is eligible for a CODE node. -/
def fits (s : State) (n : Nat) (nd : Node) (cid : Nat) : Bool := isOpen s n nd cid && fitsPlace s n nd cid

def firstFit (s : State) (n : Nat) (nd : Node) : Option Nat := (List.range (4 * Config.nCores)).find? (fits s n nd)

/-! ### Places for a group that is dispatched together (R26, R39, R134, R253) -/

/-- One context of each core: tasks that declare operands cannot share a core, since all declare the same. -/
def onePerCore (avail : List Nat) : List Nat := avail.foldl (fun a c => if a.any (fun d => d / 4 == c / 4) then a else a ++ [c]) []

/-- The available contexts unit by unit. -/
def byUnit (dom : Nat) (avail : List Nat) : List (List Nat) :=
  ((avail.map (unitOf dom)).eraseDups).map (fun u => avail.filter (fun c => unitOf dom c == u))

/-- How many structures of levels, m at most, the available contexts hold beside each other. Instances of a level are in units of
their own, or all in the unit of the level above where that has the same domain; k structures of a level then need k places for each
of its instances, of which a unit gives no more than k. -/
def capacity (ls : List Level) (above m : Nat) (avail : List Nat) : Nat :=
  match ls with
  | [] => min m avail.length
  | l :: rest =>
    let e := max 1 l.extent
    if l.dom == above then capacity rest l.dom (m * e) avail / e
    else
      let caps := (byUnit l.dom avail).map (capacity rest l.dom m)
      (((List.range (m + 1)).reverse).find? (fun k => k * e ≤ (caps.map (min k)).sum)).getD 0

/-- A list in pieces of n. -/
def chunks {α : Type} (n count : Nat) (xs : List α) : List (List α) := (List.range count).map (fun i => (xs.drop (i * n)).take n)

/-- Every n-th element of a list from an index on, `count` of them. -/
def strided {α : Type} (n i count : Nat) (xs : List α) : List α := (List.range count).filterMap (fun k => xs[i + k * n]?)

/-- Places for m structures of levels beside each other, each in flattened order. A unit's places stand together in the list that the
instances are dealt from, no more than m of them, so that no structure takes two of one unit. -/
def fill (ls : List Level) (above m : Nat) (avail : List Nat) : Option (List (List Nat)) :=
  match ls with
  | [] => if m ≤ avail.length then some ((avail.take m).map (fun c => [c])) else none
  | l :: rest =>
    let e := max 1 l.extent
    if l.dom == above then (fill rest l.dom (m * e) avail).map (fun ps => (chunks e m ps).map List.flatten)
    else
      let ps := ((byUnit l.dom avail).filterMap (fun a => fill rest l.dom (capacity rest l.dom m a) a)).flatten
      if m * e ≤ ps.length then some ((List.range m).map (fun i => (strided m i e ps).flatten)) else none

/-- The levels that the tasks of a group differ in on this package, and the domain of the unit that holds the group. -/
def groupShape (s : State) (l : Launch) : List Level × Nat :=
  if l.record.stepped then (packageLevels s l, topDomain l.record.levels)
  else
    let k := l.record.rdvLevel.getD 0
    (l.record.levels.drop (k + 1), ((l.record.levels[k]?).map (·.dom)).getD 0)

/-- The nodes of a group in flattened order. -/
def groupOrder (s : State) (n : Nat) (nd : Node) : List Nat :=
  let index (m : Nat) : Nat := ((fget? s.nodes m).bind bodyIndex).getD 0
  sortBy (fun a b => decide (index a ≤ index b)) (groupNodes s n nd)

/-- Places for a group among contexts, within one unit. -/
def groupPlaces (s : State) (nd : Node) (avail : List Nat) : Option (List Nat) :=
  match launchOf s nd.launch with
  | none => none
  | some l =>
    let g := groupShape s l
    (byUnit g.2 (if (nodeSlots nd).isEmpty then avail else onePerCore avail)).findSome? (fun a => (fill g.1 g.2 1 a).map List.flatten)

/-- Every context of the module. -/
def allContexts : List Nat := List.range (4 * Config.nCores)

/-- The group of a node has been created whole, and all of it is ready. -/
def wholeReady (s : State) (n : Nat) (nd : Node) : Bool :=
  (groupNodes s n nd).all (fun m => (fget? s.nodes m).any (fun x => x.state == .ready))
    && (match launchOf s nd.launch with
        | some l =>
          if l.record.stepped && isBody nd then bodyCount s l ≤ l.nextTask
          else match l.record.rdvLevel with
            | some k => !isBody nd || decide ((groupNodes s n nd).length = taskCount (l.record.levels.drop (k + 1)))
            | none => true
        | none => true)

/-- Those of a list of tasks or places whose index at a level is i, with the indices below it. -/
def below (i : Nat) (xs : List (List Nat × Nat)) : List (List Nat × Nat) :=
  (xs.filter (fun e => e.1.head? == some i)).map (fun e => (e.1.tail, e.2))

/-- Contexts for tasks, each given by its indices at the levels and its node, beside tasks that have been placed (R26, R27): an instance
with placed tasks stays in its unit, another one takes the first unit of its own that has room for it. -/
def planTasks (ls : List Level) (above : Nat) (tasks placed : List (List Nat × Nat)) (avail : List Nat) : Option (List (Nat × Nat)) :=
  match ls with
  | [] =>
    match tasks, avail with
    | [], _ => some []
    | [t], c :: _ => some [(t.2, c)]
    | _, _ => none
  | l :: rest =>
    let heads := (tasks.filterMap (fun e => e.1.head?)).eraseDups
    if l.dom == above then
      heads.foldl (fun (acc : Option (List (Nat × Nat))) i => acc.bind (fun ps =>
        (planTasks rest l.dom (below i tasks) (below i placed) (avail.filter (fun c => !ps.any (fun p => p.2 == c)))).map (ps ++ ·))) (some [])
    else
      let unit := unitOf l.dom
      (heads.foldl (fun (acc : Option (List (Nat × Nat) × List Nat)) i => acc.bind (fun (ps, used) =>
        let candidates := match (below i placed).head? with
          | some p => [unit p.2]
          | none => ((avail.map unit).eraseDups).filter (fun u => !used.contains u)
        candidates.findSome? (fun u =>
          (planTasks rest l.dom (below i tasks) (below i placed) (avail.filter (fun c => unit c == u))).map (fun qs => (ps ++ qs, used ++ [u])))))
        (some ([], (placed.map (fun p => unit p.2)).eraseDups))).map (·.1)

/-- The places of the rendezvous instances of a launch that are ready: all of them, or none (R46). -/
def launchPlan (s : State) (l : Launch) (nd : Node) (avail : List Nat) : Option (List (Nat × Nat)) :=
  let ls := l.record.levels
  let indices (i : Nat) : List Nat := 0 :: levelIndices ls i
  let tasks := (nodesOf s l.num).filterMap (fun e =>
    if wholeReady s e.1 e.2 then (bodyIndex e.2).map (fun i => (indices i, e.1)) else none)
  planTasks (rootLevel ls :: ls) 6 tasks (l.places.map (fun e => (indices e.1, e.2))) (if (nodeSlots nd).isEmpty then avail else onePerCore avail)

/-- Places for all that a launch dispatches together and has ready on this package, of which a node is one (R46). -/
def groupPlan (s : State) (n : Nat) (nd : Node) (avail : List Nat) : Option (List (Nat × Nat)) :=
  match launchOf s nd.launch with
  | none => none
  | some l =>
    if l.record.stepped then (groupPlaces s nd (avail.filter (unitFits s n nd))).map (fun cs => (groupOrder s n nd).zip cs)
    else launchPlan s l nd avail

/-- The free contexts that a group may take; those of a list come first. -/
def openFor (s : State) (n : Nat) (nd : Node) (first : List Nat) : List Nat :=
  let ok (c : Nat) : Bool := isOpen s n nd c && fitsBut s nd c
  first.filter ok ++ allContexts.filter (fun c => !first.contains c && ok c)

/-- The places of a node and of those dispatched with it, on free contexts; `first` is tried before the others. A rendezvous instance
goes where the others of its launch find places too, or else where it finds its own. -/
def placesFor (s : State) (n : Nat) (nd : Node) (first : List Nat) : Option (List (Nat × Nat)) :=
  if isGroup s nd then
    match groupPlan s n nd (openFor s n nd first) with
    | some ps => some (ps.filter (fun p => (groupNodes s n nd).contains p.1))
    | none => (groupPlaces s nd ((openFor s n nd first).filter (unitFits s n nd))).map (fun cs => (groupOrder s n nd).zip cs)
  else ((first.find? (fits s n nd)).orElse (fun _ => firstFit s n nd)).map (fun c => [(n, c)])

/-- A node, or all that its launch dispatches together, finds free contexts: nothing need be taken away for it (R46). -/
def hasPlaces (s : State) (n : Nat) (nd : Node) : Bool :=
  if isGroup s nd then (groupPlan s n nd (openFor s n nd [])).isSome else (placesFor s n nd []).isSome

/-! ### The task at entry (R14, R134, R176, R236, R358) -/

/-- A fresh stack area: a plane-0 region of the launch's size; its top, and the state with it. -/
def newStack (s : State) (asid size : Nat) : State × Nat :=
  let lo := s.nextPos
  let pages := (size + 131071) / 131072
  let s1 := { s with nextPos := lo + 131072 * (pages + 1) }
  if size = 0 then (s1, lo)
  else
    let r : Region := { asid := asid, lo := lo, hi := lo + size, psize := 0, rpd := 0, sgid := none, ceil := 0xAAAA_AAAA }
    let e := enterRegion s1 r (asidRec s1 asid).gen [1 + 3 * 2]
    ({ e.1 with regions := e.1.regions ++ [(e.1.nextId, e.2)], nextId := e.1.nextId + 1 }, lo + size)

/-- A kernel's number in its image. -/
def kernelOf (im : Image) (entry : Word) : Nat := im.kernels.findIdx (fun k => k.1 == entry)

/-- The entry images of the control-word table (R176). A task whose ENTRY is no entry of its image's kernel table has none: its table
holds zeros, and LSTATE is EMPTY (log 88). Of an image whose checksum differs the entries stand in their bank all the same, and a
load bank that holds such a one is BAD (R181; log 95). -/
def entryBanks (im : Image) (entry : Word) (c : Ctx) : Ctx :=
  let bank (sec : Nat) : Option (Nat × List Nat × Bool) :=
    (im.banks.find? (fun b => b.1 == kernelOf im entry && b.2.1 == sec)).map (fun b => parseImage b.2.2)
  let c1 := match bank 0 with | some (i, hs, _) => putEntries c i hs | none => c
  match bank 1 with
  | some (i, hs, good) => kset (putEntries c1 (256 + i) hs) 0x0B (cwtsWord 0 (if good then 2 else 3))
  | none => c1

/-- The k-space values that entry gives: SRSEED, the identity, the step count, debug mode. A task that enters after its group has
completed a step has the group's STEPNO, and STEPSTAT 0: it has completed none (R14, R135; log 99). -/
def entryK (s : State) (l : Launch) (im : Image) (index cid : Nat) (c : Ctx) : Ctx :=
  let c1 := kset (kset (kset c 0x04 l.record.seed) 0x10 (BitVec.ofNat 64 (index + l.num * 2 ^ 32))) 0x12 (BitVec.ofNat 64 l.asid)
  let c2 := kset (kset c1 0x11 (BitVec.ofNat 64 (sourceOf s cid))) 0xD0 (if im.debug then 1 else 0)
  match l.record.step.bind (fun x => fget? s.groups x.sgid) with
  | some g => kset c2 0x18 (g.stepno.setWidth 64)
  | none => c2

/-- Argument words and the stack pointer. -/
def entryRegs (args : List Word) (regs : List Nat) (top : Nat) (c : Ctx) : Ctx :=
  writeReg ((regs.zip args).foldl (fun d e => writeReg d e.1 e.2 (rho e.2)) c) 0x4F (BitVec.ofNat 64 top) (rho (BitVec.ofNat 64 top))

/-- The rendezvous instance of a body task: the level and the instance's number. -/
def rdvInstance (l : Launch) (index : Nat) : Option (Nat × Nat) :=
  l.record.rdvLevel.map (fun k => (k, index / taskCount (l.record.levels.drop (k + 1))))

/-- The task of a CODE node. -/
def entryTask (s : State) (l : Launch) (n : Nat) (nd : Node) (index cid : Nat) (body : Bool) : Task :=
  { launch := l.num, index := if body then index else 2 ^ 32 + n, node := n
    levels := (if body then levelIndices l.record.levels index else l.record.levels.map (fun _ => 0)).zip (l.record.levels.map (·.extent))
    trapEntry := l.record.trap, prio := nd.prio, wdUnits := nd.wd
    sgid := l.record.step.map (·.sgid)
    rdvInst := if body then rdvInstance l index else none
    slots := nodeSlots nd, placed := (coreOf s (cid / 4)).cycle, placedAt := s.gts, order := s.nextId }

/-- The core's side: slots allocated, the channels that the image declares (R124, R147, R380). A channel whose entry the image declares
otherwise is a new one, without posted slots or latch, whichever task used it before (R152; log 100). -/
def entryCore (im : Image) (ctx : Nat) (slots : List Nat) (k : Core) : Core :=
  let k1 := { k with
    heads := slots.foldl (fun h x => fset h x (BitVec.ofNat 64 (2 ^ 16 + ctx * 2 ^ 17))) k.heads
    owners := slots.foldl (fun h x => fset h x Owner.thread) k.owners }
  { k1 with chans := im.chans.foldl (fun cs (ch, e, latch) =>
      if (fget cs ch {}).entry = e then fset cs ch { fget cs ch {} with one := false, bad := false }
      else fset cs ch { entry := e, latch := latch }) k1.chans }

/-- The latches that the image's channels bind to a context. A latch holds the ready slots that stayed with its channel, but for
those of a SAVED task (R151, R152, R275). -/
def entryLatches (core : Core) (im : Image) (ctx : Nat) : File (Nat × List Nat) :=
  let ready (ch : Nat) (e : Word) : List Nat :=
    let x := fget core.chans ch {}
    if x.entry = e then ((x.posted.filter (fun p => p.ready && !core.savedSlots.contains p.slot)).map (·.slot)) else []
  im.chans.filterMap (fun (ch, e, latch) => if eCtx e = ctx then latch.map (fun k => (k, (ch, ready ch e))) else none)

/-- A task that is placed while its package is sealed is sealed with it (R142). -/
def sealEntry (s : State) (l : Launch) (index : Nat) : State :=
  match l.record.step.bind (fun x => fget? s.groups x.sgid) with
  | some g => if g.decided && g.excluded.contains s.pkg && g.seals.contains s.pkg && !g.sealed.contains index then
      setGroup s { g with sealed := g.sealed ++ [index] } else s
  | none => s

/-- The launch remembers where its body tasks lie (R27). -/
def notePlace (s : State) (num index cid : Nat) (body : Bool) : State :=
  match launchOf s num with
  | some l => if body then setLaunch s { l with places := l.places ++ [(index, cid)] } else s
  | none => s

/-- A context is kept for no one any longer: what it was taken away for has come (R46). -/
def takeKept (saved : File Saved) (cid : Nat) : File Saved :=
  saved.map (fun (e : Nat × Saved) => if e.2.cid = cid then (e.1, { e.2 with forNode := none }) else e)

/-- A fresh task enters a context. -/
def enterTask (s : State) (n cid : Nat) (nd : Node) (l : Launch) (im : Image) (entry : Word) (args : List Word) (regs : List Nat)
    (index : Nat) (body : Bool) : State :=
  let st := newStack s l.asid l.record.stack
  let s1 := st.1
  let base : Ctx := { latches := entryLatches (coreOf s1 (cid / 4)) im (cid % 4) }
  let c := entryRegs args regs st.2 (entryK s1 l im index cid (entryBanks im entry base))
  let s2 := setCtx s1 cid { c with status := .ready, pc := entry, npc := entry, task := some (entryTask s1 l n nd index cid body) }
  let s3 := setCore s2 (cid / 4) (entryCore im (cid % 4) (nodeSlots nd) (coreOf s2 (cid / 4)))
  let waited := match nd.waited with | some w => w | none => s.gts - nd.entered
  let t := entryTask s1 l n nd index cid body
  let s4 := sealEntry (notePlace s3 l.num index cid body) l t.index
  setNode { s4 with nextId := s4.nextId + 1, saved := takeKept s4.saved cid } n { nd with state := .running, place := cid, waited := some waited }

/-- A CODE node is placed on a context: a fresh task enters, a saved one is read back. -/
def placeNode (s : State) (n cid : Nat) : State :=
  match fget? s.nodes n with
  | none => s
  | some nd =>
    if nd.state == .saved then setNode (setCtx s cid { ctxOf s cid with status := .saved }) n { nd with state := .loading }
    else match nd.kind, launchOf s nd.launch with
      | .code entry args regs _ index _ _ body, some l =>
        (match fget? s.images l.image with
         | some im => enterTask s n cid nd l im entry args regs index body
         | none => s)
      | _, _ => s

/-- Place nodes on contexts. -/
def placeAll (ps : List (Nat × Nat)) (s : State) : State := ps.foldl (fun t e => placeNode t e.1 e.2) s

/-! ### Lists and priorities (R37 to R39, R48) -/

/-- Kinds that compete for one resource: CODE of class M, of class S, COPY, EVENT. -/
def kindKey (nd : Node) : Nat :=
  match nd.kind with
  | .code .. => if nd.classS then 1 else 0
  | .copy .. => 2
  | .cond .. => 3
  | .event .. => 4

/-- The node is in the ready pool, or saved at the head of its list. -/
def inPool (nd : Node) : Bool := nd.state == .ready || nd.state == .saved

def sameList (a b : Node) : Bool := a.queue == b.queue && a.prio == b.prio && kindKey a == kindKey b

/-- It entered the ready pool in an earlier event of the harbour (R37; log 84). -/
def cameBefore (a b : Node) : Bool := decide (a.entered < b.entered) || (a.entered == b.entered && decide (a.turn < b.turn))

/-- It entered the ready pool earlier; in one cycle, it has the lower number. -/
def enteredBefore (a b : Nat × Node) : Bool := cameBefore a.2 b.2 || (!cameBefore b.2 a.2 && decide (a.1 < b.1))

/-- The node is the head of its list. -/
def isHead (s : State) (e : Nat × Node) : Bool :=
  inPool e.2 && s.nodes.all (fun x => x.1 == e.1 || !inPool x.2 || !sameList x.2 e.2 || enteredBefore e x)

/-- The effective priority of a head (R38): the harbour's clock runs at 1.30 GHz. -/
def effective (s : State) (nd : Node) : Nat :=
  let wait := match nd.waited with | some w => w | none => s.gts - nd.entered
  let aging := wait * 13 / 10 / max 1 (fget s.aging (shardOf nd.queue) 20800)
  min 7 (nd.prio + aging + (if nd.feeds && s.egressEmpty then 2 else 0))

/-- One head goes before another. Two heads that are equal in all that R39 names go in the order of their numbers, which the spec
leaves open (log 84). -/
def headBefore (s : State) (a b : Nat × Node) : Bool :=
  let x := effective s a.2
  let y := effective s b.2
  decide (y < x) || (x == y && (cameBefore a.2 b.2
    || (!cameBefore b.2 a.2 && (decide (a.2.queue < b.2.queue) || (a.2.queue == b.2.queue && decide (a.1 < b.1))))))

/-- Class M nodes are held in these states (R425). -/
def holdsM (s : State) : Bool := s.cold.state < 4 || s.cold.state = 8 || s.cold.state = 9

/-- A victim of the pre-emption for a node, or for its launch, is not yet SAVED (R46). -/
def victimsLeft (s : State) (n : Nat) (nd : Node) : Bool :=
  s.saved.any (fun e => (match e.2.forNode with | some m => preemptsFor s n nd m | none => false)
    && (fget? s.nodes e.1).any (fun x => x.state == .saving))

/-- A group is ready whole, and no victim for it still runs. -/
def groupReady (s : State) (n : Nat) (nd : Node) : Bool := wholeReady s n nd && !victimsLeft s n nd

/-- A core may take a COPY node: a matrix core of the destination's group with room in its queue (R31). -/
def copyFits (s : State) (n : Nat) (nd : Node) (core : Nat) : Bool :=
  match nd.kind with
  | .copy _ dst _ _ =>
    decide (core < Config.nMatrix) && !s.boot.masked.contains core && groupOf core == homeGroup s (nodeAsid s n) dst
      && decide ((coreOf s core).cqueue.length < Config.copyQueueDepth)
  | _ => false

/-- A head could be dispatched now. -/
def canDispatch (s : State) (e : Nat × Node) : Bool :=
  let nd := e.2
  !s.paused.contains nd.queue && !(kindKey nd == 0 && holdsM s) && !(kindKey nd == 2 && engineHeld s)
    && (match nd.kind with
        | .code .. =>
          if nd.state == .saved then
            (match fget? s.saved e.1 with
             | some sv => !(sv.res && sv.chosen) && (ctxOf s sv.cid).status == .free && !keptFor s e.1 nd sv.cid
             | none => false)
          else groupReady s e.1 nd && (placesFor s e.1 nd []).isSome
        | .copy .. => (List.range Config.nMatrix).any (copyFits s e.1 nd)
        | .event .. => true
        | .cond .. => false)

/-- The node is the head that its shard dispatches next to a resource of its kind. -/
def isNext (s : State) (e : Nat × Node) : Bool :=
  isHead s e && canDispatch s e
    && s.nodes.all (fun x => x.1 == e.1 || shardOf x.2.queue != shardOf e.2.queue || kindKey x.2 != kindKey e.2 || !isHead s x
        || !canDispatch s x || headBefore s e x)

/-! ### DISPATCH -/

/-- A COPY node joins the copy queue of a core (R31). -/
def startCopyNode (s : State) (n core : Nat) (nd : Node) : State :=
  match nd.kind with
  | .copy src dst len mask =>
    let asid := nodeAsid s n
    let k := coreOf s core
    let o : CopyOp :=
      { id := s.nextId, cid := 4 * core, kind := .node, va := src, word := BitVec.ofNat 64 n, word2 := dst, slot := 0, nslots := 0
        row := 0, nrows := (nodePieces s core asid (field src.toNat 0 60) len mask).length, rowBytes := 512 }
    setNode (setCore { s with nextId := s.nextId + 1 } core { k with cqueue := k.cqueue ++ [o] }) n
      { nd with state := .running, place := core }
  | _ => s

/-- The node goes to a place, its group to places beside it. A saved task whose image is on flash only is held at the head of its
list until the image has been read back (R404). -/
def dispatchCode (s : State) (n place : Nat) (nd : Node) : Option State :=
  if nd.state == .saved then
    match fget? s.saved n with
    | some sv =>
      if sv.cid ≠ place then none
      else if sv.res then some { s with saved := fset s.saved n { sv with chosen := true } } else some (placeNode s n place)
    | none => none
  else match placesFor s n nd [place] with
    | some ps => if ps.contains (n, place) then some (placeAll ps s) else none
    | none => none

/-- DISPATCH (R39); the tables of a task's stack and a node's image are in HBM, and wait for the end of an HBM timing hold (R431). -/
def execDispatch (node place : Nat) (s : State) : Out :=
  match fget? s.nodes node with
  | none => .next s
  | some nd =>
    if s.cold.hbmHold || !isNext s (node, nd) then .next s
    else match nd.kind with
      | .code .. => (match dispatchCode s node place nd with | some t => .next (settleRun t) | none => .next s)
      | .copy .. => if copyFits s node nd place then .next (startCopyNode s node place nd) else .next s
      | _ => .next s

/-- EGRESS_SAMPLE: whether remote-store, slack or message traffic waits for a link, every 100 ns of GTS (R38). -/
def waitsForLink (m : Outgoing) : Bool :=
  match m with
  | .decrement .. => true
  | .write .. => true
  | .arrival .. => true
  | .decision .. => true
  | .report .. => true
  | .commit .. => true
  | .sealed _ => true
  | .stepOver .. => true
  | .invalidate .. => true
  | .invalidated .. => true
  | .podCommit .. => true
  | .launchPart .. => true
  | .bodyDecrement .. => true
  | .launchReport .. => true
  | .storeFailed .. => true
  | .message .. => false
  | .rateHold _ => false
  | .bandReport .. => false
  | .telemetry _ => false

def execEgressSample (s : State) : Out :=
  if s.gts % 100 = 0 then .next { s with egressEmpty := !s.outbox.any waitsForLink } else .next s

/-! ### COPY and EVENT nodes finish (R31, R32) -/

/-- COPY_NODE_FINISH: its last write has performed. -/
def execCopyNodeFinish (node : Nat) (s : State) : Out :=
  match fget? s.nodes node with
  | none => .next s
  | some nd =>
    match (coreOf s nd.place).cqueue with
    | o :: _ =>
      if nd.state == .running && o.kind == .node && o.word.toNat == node && o.started && decide (o.nrows ≤ o.row) then
        .next (nodeFinished (popCopy s nd.place) node)
      else .next s
    | [] => .next s

/-- The completion record of a launch (R381). -/
def completionRecord (l : Launch) : List Byte :=
  leBytes 2 l.num ++ leBytes 2 (if l.done then 1 else 0) ++ leBytes 4 l.ok ++ leBytes 4 l.trapped ++ leBytes 4 l.watchdog
    ++ leBytes 4 l.segfail ++ leBytes 4 ((l.lowest.map (·.1)).getD 0) ++ leBytes 4 ((l.lowest.map (·.2)).getD 0)
    ++ leBytes 4 ((l.tend.map (·.2.toNat)).getD 0)

/-- Send an EVENT node's message, or write its record: none while a page is missing, or an observer's store still covers a part of a
unit of the record (R78.5). A payload that cannot be read sends nothing (R410), and a record that cannot be written is not. -/
def sendEvent (s : State) (n : Nat) (nd : Node) : State × Bool :=
  match nd.kind with
  | .event target tag payload len record =>
    let asid := nodeAsid s n
    if record then
      match launchOf s nd.launch with
      | some l =>
        (match translate s (hubReq .hub asid target 32 1 true) with
         | .notPresent k => (startPageIn s k, false)
         | _ => if hubBusy s asid target 32 then (s, false) else ((hubStore s asid target (completionRecord l)).1, true))
      | none => (s, true)
    else if len = 0 then ({ s with outbox := s.outbox ++ [.message target tag []] }, true)
    else match hubRead s asid payload len 1 with
      | (t, .data bs) => ({ t with outbox := t.outbox ++ [.message target tag bs] }, true)
      | (t, .fault) => (t, true)
      | (t, .held) => (t, false)
  | _ => (s, false)

/-- EVENT_NODE_SEND: the head EVENT node of its shard is sent and finishes (R32), after any HBM timing hold (R431). -/
def execEventNodeSend (node : Nat) (s : State) : Out :=
  match fget? s.nodes node with
  | none => .next s
  | some nd =>
    if s.cold.hbmHold || kindKey nd ≠ 4 || !isNext s (node, nd) then .next s
    else
      let r := sendEvent s node nd
      if r.2 then .next (nodeFinished r.1 node) else .next r.1

end Sys2Proof.Machine
end

