-- ==== Sys2Proof/Machine/Preempt.lean ====
section
/-! DEFINITION. Tasks complete, are taken away, saved, restored or stopped by the watchdog (R13, R30, R46 to R50, R128,
R129, R401 to R405, R432). -/

namespace Sys2Proof.Machine

/-- A node's state changes. -/
def setNodeState (s : State) (n : Nat) (st : NodeState) : State :=
  match fget? s.nodes n with
  | some nd => setNode s n { nd with state := st }
  | none => s

/-! ### Endings (R30, R381) -/

/-- The trap cause that a completion record gives of a failed task. -/
def causeOf (e : Ending) : Option Nat :=
  match e with
  | .running => none
  | .ok => none
  | .trapped t => some t.cause
  | .watchdog => some 0
  | .segfail => some 0
  | .imageLost => some 0x17

/-- A task's ending enters its launch's completion record. -/
def recordEnding (s : State) (t : Task) (e : Ending) : State :=
  match launchOf s t.launch with
  | none => s
  | some l =>
    let l1 := match e with
      | .ok => { l with ok := l.ok + 1 }
      | .watchdog => { l with watchdog := l.watchdog + 1 }
      | .segfail => { l with segfail := l.segfail + 1 }
      | .trapped _ => { l with trapped := l.trapped + 1 }
      | .imageLost => { l with trapped := l.trapped + 1 }
      | .running => l
    setLaunch s { l1 with
      lowest := match causeOf e with | some k => lowerOf l1.lowest t.index k | none => l1.lowest
      tend := if t.tend = 0 then l1.tend else lowerOf l1.tend t.index t.tend }

/-- The slots of a task are no longer allocated, and take no more contributions; a ready slot that was not popped stays with its
channel (R275). -/
def freeSlots (s : State) (core ctx : Nat) (slots : List Nat) : State :=
  let k := coreOf s core
  setCore s core { k with
    heads := slots.foldl (fun h x => fset h x 0) k.heads
    owners := slots.foldl (fun h x => fset h x Owner.thread) k.owners
    savedSlots := k.savedSlots.filter (fun x => !slots.contains x)
    chans := k.chans.map (fun e => if eCtx e.2.entry = ctx then
        (e.1, { e.2 with posted := e.2.posted.filter (fun p => p.ready || !slots.contains p.slot) }) else e) }

/-- Variable-latency producers of a context go on under another number; a record posted by a task that is gone is still
accepted. -/
def renumber (s : State) (core old new : Nat) : State :=
  let k := coreOf s core
  setCore { s with
      loads := s.loads.map (fun l => if l.cid = old then { l with cid := new } else l)
      pends := s.pends.map (fun p => if p.cid = old then { p with cid := new } else p) } core
    { k with sfu := k.sfu.map (fun r => if r.cid = old then { r with cid := new } else r) }

/-- Those of a task that has ended: only plane changes and posts matter still; the lanes that it has queued go through the
special-function unit before those that were queued later (R293). -/
def dropProducers (s : State) (core cid : Nat) : State :=
  let lasting (p : Pending) : Bool := match p.kind with | .post .. => true | .planeOp _ => true | _ => false
  renumber { s with
    loads := s.loads.filter (fun l => l.cid != cid)
    pends := s.pends.filter (fun p => p.cid != cid || lasting p) } core cid goneCid

/-- A task is over: its step group, its launch's record and its successors learn of it. -/
def taskOver (s : State) (t : Task) (e : Ending) : State :=
  let failed := match e with | .imageLost => true | .segfail => true | _ => false
  let s1 := match t.sgid with | some g => taskEnds s g t.index failed | none => s
  nodeFinished (recordEnding s1 t e) t.node

/-- Every copy and routine of a context has handed its tiles back, and its stores have performed at package scope, those of its
atomics too (R13, R30). -/
def workDone (s : State) (cid : Nat) : Bool :=
  let k := coreOf s (cid / 4)
  (routinesOf s cid).isEmpty && (k.cqueue ++ k.sendWait).all (fun o => o.cid != cid || o.kind == .node)
    && s.wbuf.all (fun p => p.cid != cid) && s.loads.all (fun l => l.cid != cid || !isAtom l)

/-- A context whose task has completed is FREE. Its registers, tiles and control-word table stay as the task left them until the
next entry (R14, R330). -/
def freedCtx (c : Ctx) : Ctx :=
  { landDue c (c.flight.foldl (fun m f => max m f.due) 0) with
    status := .free, task := none, imm := none, frozen := [], shelf := [], deferred := [], tagFail := none, seg := none, retry := none
    phase := .none, latches := [], readFrom := [], rebase := false, tended := false, tendShelf := false, linkOpen := false
    cwtwOut := 0, cwtwFail := false, cwtrOut := 0 }

/-- TASK_COMPLETE (R13, R30). -/
def execTaskComplete (cid : Nat) (s : State) : Out :=
  let c := ctxOf s cid
  match c.status, c.task with
  | .blocked .ended, some t =>
    if !workDone s cid then .next s
    else
      let s1 := dropProducers (freeSlots (setCtx s cid (freedCtx c)) (cid / 4) (cid % 4) t.slots) (cid / 4) cid
      .next (taskOver s1 t t.ending)
  | _, _ => .next s

/-! ### Taking a context away (R46, R47) -/

/-- Free save areas in a die's pool (R401). -/
def areasFree (s : State) (die : Nat) : Nat :=
  Config.saveAreas - (s.saved.filter (fun e => e.2.area.isSome && dieOf (e.2.cid / 4) == die)).length

/-- The pool has a free area. -/
def areaFree (s : State) (die : Nat) : Bool := (freeArea s die).isSome

/-- A context runs a task that can be stopped. -/
def stoppable (c : Ctx) : Bool :=
  match c.status with
  | .ready => c.task.isSome
  | .running => c.task.isSome
  | .blocked _ => c.task.isSome
  | _ => false

/-- The order of victims: lowest priority, latest placement, lowest core, lowest context. Of tasks placed in one dispatch, at one
time, the one placed later in its order is the later one, before the core number is asked (log 50). -/
def victimBefore (s : State) (a b : Nat) : Bool :=
  match (ctxOf s a).task, (ctxOf s b).task with
  | some x, some y =>
    decide (x.prio < y.prio) || (x.prio == y.prio && (decide (y.placedAt < x.placedAt)
      || (x.placedAt == y.placedAt && decide (y.order < x.order))
      || (x.placedAt == y.placedAt && x.order == y.order && decide (a ≤ b))))
  | _, _ => decide (a ≤ b)

/-- The victims below a priority, in their order. -/
def victims (s : State) (prio : Nat) : List Nat :=
  sortBy (victimBefore s) ((s.ctxs.filter (fun e => stoppable e.2 && e.2.task.any (fun t => decide (t.prio < prio))
    && areaFree s (dieOf (e.1 / 4)))).map (·.1))

/-- The victims in their order, no more of a die than it has free save areas (R401). -/
def withinAreas (s : State) (vs : List Nat) : List Nat :=
  vs.foldl (fun a v => if a.countP (fun x => dieOf (x / 4) == dieOf (v / 4)) < areasFree s (dieOf (v / 4)) then a ++ [v] else a) []

/-- The first victims that suffice. -/
def firstEnough (ok : List Nat → Bool) (vs taken : List Nat) : Option (List Nat) :=
  if ok taken then some taken
  else match vs with
    | [] => none
    | v :: rest => firstEnough ok rest (taken ++ [v])

/-- Those of them that are needed, the later ones dropped first. -/
def neededOf (ok : List Nat → Bool) (vs : List Nat) : List Nat :=
  vs.reverse.foldl (fun ws v => if ok (ws.filter (fun x => x != v)) then ws.filter (fun x => x != v) else ws) vs

/-- The victims of a launch in one unit: with its free contexts they hold what the launch has to dispatch. -/
def unitVictims (s : State) (n : Nat) (nd : Node) (free vs : List Nat) (dom u : Nat) : Option (List Nat) :=
  let inUnit (c : Nat) : Bool := unitOf dom c == u
  let ok (ws : List Nat) : Bool := (groupPlan s n nd (sortBy (fun a b => decide (a ≤ b)) (free.filter inUnit ++ ws))).isSome
  (firstEnough ok (withinAreas s (vs.filter inUnit)) []).map (neededOf ok)

/-- The smaller set of victims, or of two equal ones that whose victims come first. -/
def fewer (vs : List Nat) (a b : List Nat) : Bool :=
  decide (a.length < b.length) || (a.length == b.length && decide (a.map (vs.idxOf ·) < b.map (vs.idxOf ·)))

/-- The victims for a node, or for all that its launch dispatches together: as few as suffice, in their order; none where they do not
suffice (R46). Of a launch that expands lazily those tasks count that have been created (log 98). -/
def chooseVictims (s : State) (n : Nat) (nd : Node) : Option (List Nat) :=
  if isGroup s nd then
    match launchOf s nd.launch with
    | none => none
    | some l =>
      let vs := (victims s nd.prio).filter (fitsBut s nd)
      let dom := topDomain l.record.levels
      let free := openFor s n nd []
      (((free ++ vs).map (unitOf dom)).eraseDups.filterMap (unitVictims s n nd free vs dom)).foldl
        (fun (best : Option (List Nat)) ws => match best with | some b => if fewer vs ws b then some ws else some b | none => some ws) none
  else (((victims s nd.prio).filter (fitsPlace s n nd)).head?).map (fun v => [v])

/-- The results in flight with their remaining latencies (R399). -/
def relativeFlight (c : Ctx) (c0 : Nat) : List InFlight := c.flight.map (fun f => { f with due := f.due - c0 })

/-- How a restored task goes on: READY, or waiting still for its engine work to complete. -/
def resumeStatus (t : Option Task) : Status := if t.any (fun x => x.ending != .running) then .blocked .ended else .ready

/-- A context as it stops: an open `rdv` is withdrawn, its watchdog use is counted (R47, R50, R253). -/
def stoppedCtx (s : State) (cid : Nat) : Ctx :=
  let c := withdrawRdv (ctxOf s cid)
  let used := (coreOf s (cid / 4)).cycle
  { c with status := .saved, flight := [], task := c.task.map (fun t => { t with wdUsed := t.wdUsed + (used - t.placed) }) }

/-- The core looks for another context. -/
def leaveCore (s : State) (cid : Nat) : State :=
  let k := coreOf s (cid / 4)
  if k.running = some (cid % 4) then setCore s (cid / 4) { k with running := none, last := cid % 4 } else s

/-- The engine stops for a victim at its next retirement where it runs a routine of it; else the queued routines go at
once (R47, R128). -/
def stopEngine (s : State) (cid : Nat) : State :=
  let k := coreOf s (cid / 4)
  if k.run.any (fun r => r.r.cid == cid) then setCore s (cid / 4) { k with stopFor := k.stopFor ++ [cid % 4] }
  else parkRoutines s cid none

/-- A victim stops at its bundle boundary: its open segment ends, and it is saved as its engine work allows. For c0 of R399 the
core cycle in which it stops stands, whether it was running, READY or blocked (log 85); what a restore has not yet rebased keeps its
r. -/
def stopVictim (s : State) (cid : Nat) (forNode : Option Nat) : State :=
  match (ctxOf s cid).task with
  | none => s
  | some t =>
    let s1 := { endSegment { s with cur := cid } with cur := s.cur }
    let s2 := match t.sgid with | some g => taskLeaves s1 g t.index | none => s1
    let now := (coreOf s2 (cid / 4)).cycle
    let kept := (ctxOf s2 cid).rebase
    let s2 := if kept then s2 else setCtx s2 cid (landPast (ctxOf s2 cid) now)
    let flight := if kept then (ctxOf s2 cid).flight else relativeFlight (ctxOf s2 cid) now
    let s3 := leaveCore (setCtx s2 cid (stoppedCtx s2 cid)) cid
    let area := freeArea s3 (dieOf (cid / 4))
    let sv : Saved := {
      cid := cid, ctx := { flight := flight }, res := area.isNone, fcopy := area.isNone, since := s.gts, area := area
      forNode := forNode, block := s.nextBlock }
    stopEngine (setNodeState { s3 with
      nextBlock := if area.isSome then s3.nextBlock else s3.nextBlock + imageSize / 4096
      saved := fset s3.saved t.node sv } t.node .saving) cid

/-- PREEMPT: victims for a ready node, or for what its launch dispatches together, that has no eligible free context (R46). -/
def execPreempt (node : Nat) (s : State) : Out :=
  match fget? s.nodes node with
  | none => .next s
  | some nd =>
    if 1 < kindKey nd || nd.state != .ready || !isHead s (node, nd) || s.paused.contains nd.queue || (!nd.classS && holdsM s)
        || !groupReady s node nd || hasPlaces s node nd then .next s
    else match chooseVictims s node nd with
      | some vs => .next (vs.foldl (fun t v => stopVictim t v (some node)) s)
      | none => .next s

/-! ### Saving and restoring (R401 to R405) -/

/-- What must be complete before the image is written (R47, R128, R403); its stores have passed their colour checks. A held copy
goes into the image (R129). DESIGN CHOICE (log 103): a copy of it that has not started is waited for too, and goes into the image
where a held one stands in its core's queue. -/
def maySave (s : State) (cid : Nat) : Bool :=
  let k := coreOf s (cid / 4)
  !s.loads.any (fun l => l.cid == cid && !l.held)
    && !s.pends.any (fun p => p.cid == cid && (match p.kind with | .mstat _ => true | .hub _ => true | _ => false))
    && k.cqueue.all (fun o => o.cid != cid || o.kind == .node || o.held.isSome || (!o.started && k.cqueue.any (·.held.isSome)))
    && !k.stopFor.contains (cid % 4) && (routinesOf s cid).isEmpty && !storesShort s cid 1

/-- The sectors of a task's save area whose check state is not clean. -/
def areaSectors (s : State) (sv : Saved) : List Nat :=
  match sv.area with
  | some a => (s.sectors.map (·.1)).filter (fun k => a / 32 ≤ k && k < (a + imageSize) / 32)
  | none => []

/-- Every sector of the save area reads clean or corrected (R405, R409). -/
def areaGood (s : State) (sv : Saved) : Bool := (areaSectors s sv).all (fun k => goodClass (sectorClass s k 0))

/-- What the read of the save area finds goes to the banks of its stack (R409, R410). -/
def noteArea (s : State) (sv : Saved) : State :=
  (areaSectors s sv).foldl (fun t k => recordSector (.stack (stackOf (32 * k))) 0 none t k) s

/-- An image's HBM access waits for the end of the timing hold (R431). -/
def areaHeld (s : State) (sv : Saved) : Bool := sv.area.isSome && s.cold.hbmHold

/-- CONTEXT_SAVED: the image is written to its save area, or to flash where it has none (R401, R404); the context is FREE. -/
def execContextSaved (cid : Nat) (s : State) : Out :=
  match savedOf s cid with
  | none => .next s
  | some (n, sv) =>
    if (ctxOf s cid).status != .saved || !maySave s cid || areaHeld s sv then .next s
    else
      let k := coreOf s (cid / 4)
      let mine (o : CopyOp) : Bool := o.cid == cid && o.kind != .node
      let sv1 := { sv with
        ctx := { ctxOf s cid with status := resumeStatus (ctxOf s cid).task, flight := sv.ctx.flight }
        copies := k.cqueue.filter mine, sends := k.sendWait.filter mine, since := s.gts
        pipes := k.pipes.filter (fun p => k.cqueue.any (fun o => mine o && o.held.isSome && o.row % 2 == p.1)) }
      let s1 := setCore (setCtx s cid {}) (cid / 4)
        { k with cqueue := k.cqueue.filter (fun o => !mine o), sendWait := k.sendWait.filter (fun o => !mine o)
                 savedSlots := k.savedSlots ++ ((ctxOf s cid).task.map (·.slots)).getD [] }
      let s2 := renumber { s1 with saved := fset s1.saved n sv1 } (cid / 4) cid (imageCid n)
      .next (settleRun (setNodeState (if sv1.res then imageToFlash s2 sv1 else imageToArea s2 sv1) n .saved))

/-- Put the held copies back before what has not started (R129). -/
def insertCopies (q held : List CopyOp) : List CopyOp := q.takeWhile (·.started) ++ held ++ q.dropWhile (·.started)

/-- The routines of a core in issue order (R45). -/
def inIssueOrder (rs : List Routine) : List Routine := sortBy (fun a b => decide (a.num ≤ b.num)) rs

/-- The context resumes (R48, R399, R402, R403): its results land from the cycle in which its first unit is presented; its routines
take their places in issue order again, though the queue then may hold more than four (log 85). -/
def resumeTask (s : State) (n cid : Nat) (sv : Saved) : State :=
  let s0 := renumber { dropFlash s sv with saved := fdel s.saved n } (cid / 4) (imageCid n) cid
  let k := coreOf s0 (cid / 4)
  let c := { sv.ctx with
    status := resumeStatus sv.ctx.task
    flight := if resumeStatus sv.ctx.task = .ready then sv.ctx.flight else sv.ctx.flight.map (fun f => { f with due := f.due + k.cycle })
    rebase := resumeStatus sv.ctx.task = .ready
    task := sv.ctx.task.map (fun t => { t with placed := k.cycle, placedAt := s.gts, order := s.nextId }) }
  let s1 := setCtx { s0 with nextId := s0.nextId + 1 } cid c
  let s2 := setCore s1 (cid / 4) { k with
    mqueue := inIssueOrder (k.mqueue ++ sv.queue)
    cuts := k.cuts ++ (match sv.run with | some r => [r] | none => [])
    cqueue := insertCopies k.cqueue (sv.copies.map (fun o => { o with held := none }))
    sendWait := k.sendWait ++ sv.sends
    pipes := sv.pipes.foldl (fun ps p => fset ps p.1 p.2) k.pipes
    savedSlots := k.savedSlots.filter (fun x => !((sv.ctx.task.map (·.slots)).getD []).contains x) }
  let s3 := setNodeState s2 n .running
  settleRun ((s3.loads.filter (fun l => l.held && l.cid == cid)).foldl retryTable s3)

/-- Rows of slots become zero, with fresh check bits. -/
def zeroSlots (s : State) (core : Nat) (slots : List Nat) : State :=
  let k := coreOf s core
  setCore s core (freshSlots { k with spad := slots.foldl zeroSlot k.spad } slots)

/-- The image is lost: the task fails with cause 0x17 (R405, R420). -/
def loseImage (s : State) (n cid : Nat) (sv : Saved) : State :=
  let s1 := setCtx { dropFlash s sv with saved := fdel s.saved n } cid {}
  let s2 := recordError (count s1 5 1) .storage false { kind := 13, addr := n }
  let s3 := dropProducers s2 (cid / 4) (imageCid n)
  match sv.ctx.task with
  | none => s3
  | some t => taskOver (freeSlots (zeroSlots s3 (cid / 4) t.slots) (cid / 4) (cid % 4) t.slots) t .imageLost

/-- RESTORE_COMPLETE: the image, or its kept flash copy, is good, or the task fails (R405): an image in a save area is bad where a
sector of it is, and else as the read finds it. A result of the special-function unit has filled its row by then (R293, R300). -/
def execRestoreComplete (node cid : Nat) (hbmGood flashGood : Bool) (s : State) : Out :=
  match fget? s.saved node, fget? s.nodes node with
  | some sv, some nd =>
    if nd.state != .loading || sv.cid ≠ cid || areaHeld s sv then .next s
    else
      let s1 := noteArea (endSfu s (cid / 4) (fun q => q.cid == imageCid node)) sv
      let sv1 := (fget? s1.saved node).getD sv
      if (hbmGood && areaGood s sv) || (sv.fcopy && flashGood) then .next (resumeTask s1 node cid sv1) else .next (loseImage s1 node cid sv1)
  | _, _ => .next s

/-- IMAGE_TO_FLASH: an image whose task has been SAVED for longer than 1 s (R404). One that no longer reads back whole stays where it
is: the move is the service's to make or not. -/
def execImageToFlash (node : Nat) (s : State) : Out :=
  match fget? s.saved node, fget? s.nodes node with
  | some sv, some nd =>
    if nd.state != .saved || sv.res || s.gts ≤ sv.since + 10 ^ 9 || areaHeld s sv || !areaGood s sv then .next s
    else
      let sv1 := { sv with res := true, fcopy := true, area := none, chosen := false, block := if sv.fcopy then sv.block else s.nextBlock }
      let s1 := imageToFlash s sv1
      .next { s1 with
        saved := fset s.saved node sv1
        nextBlock := if sv.fcopy then s.nextBlock else s.nextBlock + imageSize / 4096 }
  | _, _ => .next s

/-- IMAGE_FROM_FLASH: the image of a task that the harbour has chosen to resume is read into a free save area (R404). -/
def execImageFromFlash (node : Nat) (s : State) : Out :=
  match fget? s.saved node, fget? s.nodes node with
  | some sv, some nd =>
    if nd.state != .saved || !sv.res || !sv.chosen || !areaFree s (dieOf (sv.cid / 4)) || s.cold.hbmHold then .next s
    else
      let sv1 := { sv with res := false, area := freeArea s (dieOf (sv.cid / 4)), chosen := false }
      .next (imageToArea { s with saved := fset s.saved node sv1 } sv1)
  | _, _ => .next s

/-! ### The watchdog (R50) -/

/-- Cycles of its budget that a task has used. -/
def watchdogUse (s : State) (cid : Nat) (t : Task) : Nat := t.wdUsed + ((coreOf s (cid / 4)).cycle - t.placed)

/-- Copies that a stopped task has not started, or that are held, and its sends that wait for a fill slot, are discarded (R47, R50). -/
def dropCopies (s : State) (cid : Nat) : State :=
  let k := coreOf s (cid / 4)
  let goes (o : CopyOp) : Bool := o.cid == cid && o.kind != .node
  setCore s (cid / 4) { k with
    cqueue := k.cqueue.filter (fun o => !(goes o && (!o.started || o.held.isSome)))
    sendWait := k.sendWait.filter (fun o => !goes o) }

/-- WATCHDOG_EXPIRY: the task stops at the boundary of R47, one that has halted and not completed too; its context is discarded, and
with it an open segment, routines and copies that have not started. -/
def execWatchdogExpiry (cid : Nat) (s : State) : Out :=
  let c := ctxOf s cid
  match c.task with
  | none => .next s
  | some t =>
    if !stoppable c || t.ending == .watchdog || watchdogUse s cid t < t.wdUnits * 65536 then .next s
    else
      let s1 := setCtx (dropWaiting { s with cur := cid } cid) cid
        { withdrawRdv (ctxOf (dropWaiting s cid) cid) with seg := none, segGen := c.segGen + 1, flight := [], frozen := [], deferred := [] }
      let t1 := dropCopies (stopEngine { stopTask s1 .watchdog with cur := s.cur } cid) cid
      let k := coreOf s (cid / 4)
      .next (setCore t1 (cid / 4) { coreOf t1 (cid / 4) with last := if k.running = some (cid % 4) then cid % 4 else k.last })

/-! ### Parking (R432) -/

/-- Every class M task stops and is saved on its core; one that was being read back stays saved. -/
def parkAll (s : State) : State :=
  let back : State := { s with
    nodes := s.nodes.map (fun (e : Nat × Node) => if e.2.state == .loading && kindKey e.2 == 0 then (e.1, { e.2 with state := .saved }) else e)
    ctxs := s.ctxs.map (fun (e : Nat × Ctx) =>
      if e.2.status == .saved && e.2.task.isNone && decide (e.1 / 4 < Config.nMatrix) then (e.1, {}) else e) }
  (back.ctxs.filter (fun e => stoppable e.2 && decide (e.1 / 4 < Config.nMatrix))).foldl (fun t e => stopVictim t e.1 none) back

end Sys2Proof.Machine
end

