-- ==== Sys2Proof/Machine/Heresh.lean ====
section
/-! DEFINITION. The Heresh service: address spaces, and requests to load, map, launch, arm, configure, query and attest
(R373 to R382, R385, R386, R391, R440, R443, R444). -/

namespace Sys2Proof.Machine

/-! ### Requests (R373, R376) -/

/-- The ASID that a job is bound to. -/
def asidOfJob (s : State) (job : Nat) : Option Nat := (s.asids.find? (fun e => e.2.granted && e.2.job == job)).map (·.1)

/-- The requester's ASID: that of the mailbox, or of the job. -/
def requester (s : State) (h : ReqHead) : Option Nat :=
  match h.box with
  | some (asid, _) => if (asidRec s asid).granted then some asid else none
  | none => asidOfJob s h.job

/-- The header is malformed: MAGIC, VER, LEN, a STATUS or a reserved byte that is not zero (R5, R373, R376). -/
def headBad (h : ReqHead) : Bool :=
  h.magic != 0x4845 || h.ver != 1 || h.len < 32 || 65536 < h.len || h.len != h.size || h.status != 0 || h.spare != 0

/-- What the service does with a request: an answer, or nothing yet. -/
inductive Answer where
  | reply (s : State) (status : Nat) (result : Word) (body : List Byte)
  | later (s : State)
  /-- it is served again when a page has moved -/
  | hold (s : State) (r : HeldReq)

def failWith (s : State) (status : Nat) : Answer := .reply s status 0 []

/-- The first 24 bytes of a request (R373). -/
def headBytes (h : ReqHead) (op : Nat) : List Byte :=
  leBytes 2 h.magic ++ leBytes 1 h.ver ++ leBytes 1 (h.otherOp.getD op) ++ leBytes 4 h.len ++ leBytes 8 h.rid.toNat ++ leBytes 4 h.status
    ++ leBytes 4 h.spare

/-- Memory of an address space holds bytes. -/
def holdsBytes (s : State) (asid : Nat) (va : Word) (bs : List Byte) : Bool :=
  bs.isEmpty || (match (hubRead s asid va bs.length 1 true).2 with | .data cs => cs == bs | _ => false)

/-- The doorbell has been rung for a request that the service has not taken (R377). -/
def bellRung (s : State) (asid : Nat) : Bool :=
  let a := asidRec s asid
  match (hubRead s asid a.doorbell 4 4 true).2 with
  | .data bs => leNat bs != a.taken % 2 ^ 32
  | _ => false

/-- The units of a mailbox that a request takes. -/
def requestUnits (off size : Nat) : List Nat := (List.range ((off + size + 3) / 4 - off / 4)).map (· + off / 4)

/-- The oldest ring that has not been answered is for a request at an offset: its ringer has stored the request there (R377). A
doorbell that was changed by something else than an `atom.add` of 1, or rung by a context that has stored nothing, tells no order (log
57). -/
def rungFor (a : AsidRec) (off : Nat) : Bool := match a.rings with | r :: _ => r.isEmpty || r.contains (off / 4) | [] => true

/-- A request of a mailbox stands there, with its header and those parts of its body whose bytes the spec gives, and the doorbell
has been rung. -/
def inMailbox (s : State) (h : ReqHead) (op : Nat) (known : List (Nat × List Byte)) : Bool :=
  match h.box with
  | none => true
  | some (asid, off) =>
    let at' := (asidRec s asid).mailbox + BitVec.ofNat 64 off
    decide (off + 32 ≤ 65536) && bellRung s asid && rungFor (asidRec s asid) off && holdsBytes s asid at' (headBytes h op)
      && known.all (fun k => holdsBytes s asid (at' + BitVec.ofNat 64 k.1) k.2)

/-- The service takes a request: those of a mailbox in the doorbell's order. -/
def takeRequest (s : State) (h : ReqHead) : State :=
  match h.box with
  | some (asid, off) =>
    let a := asidRec s asid
    let us := requestUnits off h.size
    setAsid s asid { a with
      taken := a.taken + 1
      mail := a.mail.filter (fun e => !us.contains e.1), rings := (a.rings.drop 1).map (fun r => r.filter (fun u => !us.contains u)) }
  | none => s

/-- The job that a request comes from: for one of a mailbox that of its address space. -/
def jobOf (s : State) (h : ReqHead) : Nat := match h.box with | some (asid, _) => (asidRec s asid).job | none => h.job

/-- OP names no operation (R374). -/
def opUnknown (h : ReqHead) : Bool := h.otherOp.any (fun k => k == 0 || 0x0B < k)

/-- What the service answers to a request that it has taken, in the order of R376's list (log 57). -/
def answerTo (s : State) (h : ReqHead) (f : State → Nat → Answer) : Answer :=
  if headBad h then failWith s 1
  else match requester s h with
    | none => failWith s 12
    | some asid => if opUnknown h then failWith s 13 else f s asid

/-- Do what an answer says. -/
def giveAnswer (h : ReqHead) (op : Nat) (a : Answer) : Out :=
  match a with
  | .reply t status result body => .next (sendReply t h (h.otherOp.getD op) status result body)
  | .later t => .next t
  | .hold t r => .next { t with heldReqs := t.heldReqs ++ [r] }

/-- What the service reads has performed at package scope: its replies, which are seen there at once, do not come before the stores
that its cores have read (R79). -/
def serviceSettled (s : State) : Bool := s.wbuf.all (fun q => !(isData q && q.grp && groupOf (q.cid / 4) == groupOf Config.nMatrix))

/-- The service cannot answer a request now: an HBM timing hold (R431), a store that its cores read and the other observers do not
(R79), a store to a part of a unit of the mailbox (R78.5). -/
def serviceWaits (s : State) (h : ReqHead) : Bool := s.cold.hbmHold || !serviceSettled s || boxBusy s h

/-- Serve a request. Nothing answers before the service runs; what comes in another mode than ROD is no request, and is counted
(R373, R383); what is not in the mailbox neither. -/
def serve (s : State) (h : ReqHead) (op : Nat) (known : List (Nat × List Byte)) (f : State → Nat → Answer) : Out :=
  if !s.boot.service || serviceWaits s h then .next s
  else if h.box.isNone && h.mode != .rod then .next (count s (if h.mode == .rud then 8 else 9) 1)
  else if !inMailbox s h op known then .next s
  else giveAnswer h op (answerTo (takeRequest s h) h f)

/-- Serve a request again that waited. -/
def serveAgain (s : State) (r : HeldReq) (h : ReqHead) (op : Nat) (f : State → Nat → Answer) : Out :=
  if serviceWaits s h then .next { s with heldReqs := s.heldReqs ++ [r] }
  else if s.boot.service then giveAnswer h op (answerTo s h f) else .next s

/-! ### Regions (R53, R374, R443) -/

/-- Round up to a multiple. -/
def alignUp (v n : Nat) : Nat := (v + n - 1) / n * n

/-- Place a region at a position, or at the next free one: the state, its number, and the region. -/
def placeRegion (s : State) (asid size psize : Nat) (sgid : Option Nat) (ceil : BitVec 32) (at' : Option Nat)
    (owners : List (Nat × Nat)) (descs : List Nat) (code : Bool) : State × Nat × Region :=
  let page := Config.pageBytes psize
  let lo := at'.getD (alignUp s.nextPos page)
  let r : Region := { asid := asid, lo := lo, hi := lo + size, psize := psize, rpd := 0, sgid := sgid, ceil := ceil, owners := owners
                      code := code }
  let e := enterRegion { s with nextPos := max s.nextPos (lo + alignUp size page + page) } r (asidRec s asid).gen descs
  ({ e.1 with regions := e.1.regions ++ [(e.1.nextId, e.2)], nextId := e.1.nextId + 1 }, e.1.nextId, e.2)

/-- A read-only plane-0 region that the service fills; `back` is its BACK code. -/
def placeReadOnly (s : State) (asid size back : Nat) (code : Bool) (bs : List Byte) : State × Region :=
  let (s1, _, r) := placeRegion s asid size 0 none 0x5555_5555 none [] [1 + 3 * 2 + back * 2 ^ 23] code
  let s2 := (regionPages r).foldl (fun t page => setPerm t r 0 1 page) s1
  (putPlane s2 r 0 0 bs, r)

/-- The body of a REGION request is one the service can honour. -/
def regionBad (s : State) (q : RegionReq) : Bool :=
  q.descs.length != 16 || q.size == 0 || 2 < q.psize || (q.sgid.any (fun g => 64 ≤ g))
    || !dEn ((q.descs.headD 0).toNat)
    || q.descs.zipIdx.any (fun e => dEn e.1.toNat && (!descValid e.2 e.1.toNat || (dShared e.1.toNat && q.sgid.isNone)))
    || q.owners.any (fun o => s.podPkgs ≤ o.1 || 16384 ≤ o.2 || (q.sgid.isNone && o.1 != s.pkg))
    || 2 ^ 60 < q.lo.getD (alignUp s.nextPos (Config.pageBytes q.psize)) + q.size
    || q.lo.any (fun lo => lo % Config.pageBytes q.psize != 0)

/-- The end of the last page of a region. -/
def pagesEnd (lo size psize : Nat) : Nat := lo + alignUp size (Config.pageBytes psize)

/-- The pages that a request gives meet a page of another region of the ASID (R53, R389). -/
def regionMeets (s : State) (asid : Nat) (q : RegionReq) : Bool :=
  q.lo.any (fun lo => s.regions.any (fun e => e.2.asid == asid
    && decide (lo < pagesEnd e.2.lo (e.2.hi - e.2.lo) e.2.psize ∧ e.2.lo < pagesEnd lo q.size q.psize)))

/-- What the planes of a new region cost here (R70, R443): a shared plane only on the pages that this package owns. -/
def regionCost (s : State) (q : RegionReq) : Nat :=
  let page := Config.pageBytes q.psize
  let d0 := (q.descs.headD 0).toNat
  let w0 := dBits d0 / 8
  let r : Region := { asid := 0, lo := 0, hi := q.size, psize := q.psize, rpd := 0, sgid := none, ceil := 0, owners := q.owners }
  (q.descs.map (fun d =>
    if dEn d.toNat then
      ((regionPages r).filter (fun k => !heldRemote s r d.toNat k)).length * max 64 (page * dBits d.toNat / (8 * w0 * 2 ^ dGran d.toNat))
    else 0)).foldl (· + ·) 0

/-- REGION: the result is the first position address. -/
def execRegion (h : ReqHead) (q : RegionReq) (s : State) : Out :=
  serve s h 0x03 [] (fun s asid =>
    if regionBad s q || regionMeets s asid q then failWith s 1
    else if (asidRec s asid).planeQuota < regionCost s q then failWith s 5
    else
      let e := placeRegion (chargePlane s asid (regionCost s q)) asid q.size q.psize q.sgid q.ceil q.lo q.owners
        (q.descs.map BitVec.toNat) false
      .reply e.1 0 (BitVec.ofNat 64 e.2.2.lo) [])

/-! ### PLANE (R373, R374) -/

/-- A page moves out for a request: it waits while another move of the page is under way. -/
def requestOut (s : State) (h : ReqHead) (n : Nat) (r : Region) (k : PageKey) (again : HeldReq) : Answer :=
  if s.moves.any (fun m => m.key == k) then .hold s again
  else if sState (slotAt s k.asid k.page k.plane) = 2 then .reply s 0 0 []
  else if mayPageOut s k n r then .later (startPageOut s k (some h))
  else failWith s 12

/-- A page moves in for a request; it joins a page-in that is under way (R394). -/
def requestIn (s : State) (h : ReqHead) (k : PageKey) (again : HeldReq) : Answer :=
  if s.moves.any (fun m => m.key == k && !m.inward) then .hold s again
  else if sState (slotAt s k.asid k.page k.plane) = 1 then .reply s 0 0 []
  else if sState (slotAt s k.asid k.page k.plane) = 2 then .later { s with moves := s.moves ++ [{ key := k, inward := true, reply := some h }] }
  else failWith s 1

/-- The first position of the page that holds a position of a region. -/
def pageOf (r : Region) (pos : Nat) : Nat := pos / Config.pageBytes r.psize * Config.pageBytes r.psize

/-- A PLANE request on a region of the requester. -/
def planeRequest (s : State) (h : ReqHead) (asid n : Nat) (r : Region) (p : Nat) (a : PlaneAction)
    (again : HeldReq) : Answer :=
  match a with
  | .descriptor d =>
    let k := descriptorCode s r p d
    if k = 1 then failWith s 5 else if k ≠ 0 then failWith s 1
    else .later (startInvalFor s (.descriptor n p d) (dShared d.toNat || hasShared s r) [h])
  | .pageOut pos => requestOut s h n r { asid := asid, page := pageOf r pos, plane := p } again
  | .pageIn pos => requestIn s h { asid := asid, page := pageOf r pos, plane := p } again
  | .quotas planeQuota pinQuota =>
    if Config.operatorJob (jobOf s h) then .reply (setAsid s asid { asidRec s asid with planeQuota := planeQuota, pinQuota := pinQuota }) 0 0 []
    else failWith s 12

/-- The position that an action names lies in the region. -/
def actionOutside (r : Region) (a : PlaneAction) : Bool :=
  match a with
  | .pageOut pos => pos < r.lo || r.hi ≤ pos
  | .pageIn pos => pos < r.lo || r.hi ≤ pos
  | .descriptor _ => false
  | .quotas .. => false

/-- What the service does with a PLANE request. -/
def servePlane (h : ReqHead) (region plane : Nat) (a : PlaneAction) (s : State) (asid : Nat) : Answer :=
  match regionAt s asid region with
  | none => failWith s 1
  | some (n, r) =>
    if 15 < plane || actionOutside r a then failWith s 1 else planeRequest s h asid n r plane a (.plane h region plane a)

/-- PLANE: `region` is a position address of the region. -/
def execPlane (h : ReqHead) (region plane : Nat) (a : PlaneAction) (s : State) : Out := serve s h opPlane [] (servePlane h region plane a)

/-! ### LOAD and UNLOAD (R204, R205, R317, R375, R444) -/

/-- An offset and a length lie inside the image. -/
def inside (len off n : Nat) : Bool := off + n ≤ len

/-- The bank images from an offset on: kernel, section, bytes; none where one leaves the image, or breaks R180 in its counts, lengths,
tags or reserved bits. Its checksum is not looked at here (R375; log 95). -/
def imageBanks (bs : List Byte) (n off : Nat) : Option (List (Nat × Nat × List Byte)) :=
  match n with
  | 0 => some []
  | k + 1 =>
    let len := recNat bs (off + 8) 4
    if !inside bs.length off 36 || !inside bs.length (off + 4) len || !(imageForm ((bs.drop (off + 4)).take len)).2.2 then none
    else (imageBanks bs k (off + 4 + len)).map (fun t => (recNat bs off 2, recNat bs (off + 2) 2, (bs.drop (off + 4)).take len) :: t)

/-- The routine-table entries of an image; an image without a routine set has ROFF 0. -/
def imageRtab (bs : List Byte) : List Nat :=
  let roff := recNat bs 36 4
  if roff = 0 then [] else (List.range 64).map (fun i => recNat bs (roff + 4 * i) 4)

/-- The micro-ops of an image. -/
def imageUops (bs : List Byte) : List Uop :=
  let roff := recNat bs 36 4
  if roff = 0 then [] else (List.range (recNat bs 40 4)).map (fun i => BitVec.ofNat 64 (recNat bs (roff + 256 + 8 * i) 8))

/-- An entry of the routine table is malformed. -/
def rtabBad (e : Nat) : Bool :=
  e / 2 ^ 22 != 0 || (bitAt e 21 && (field e 10 11 == 0 || 1024 < field e 0 10 + field e 10 11))

/-- The header, a count or an offset breaks R375. -/
def imageMalformed (bs : List Byte) : Bool :=
  let len := bs.length
  let nker := recNat bs 12 4
  let koff := recNat bs 16 4
  let roff := recNat bs 36 4
  let nuop := recNat bs 40 4
  recNat bs 4 4 / 2 != 0 || recNat bs 48 16 != 0 || nker == 0 || 256 < nker || 1024 < nuop
    || !inside len koff (16 * nker) || !inside len (recNat bs 20 4) (recNat bs 24 4) || len < recNat bs 28 4
    || (List.range nker).any (fun i => recNat bs (koff + 16 * i + 8) 8 / 2 != 0 || len ≤ recNat bs (koff + 16 * i) 8)
    || (imageBanks bs (recNat bs 32 4) (recNat bs 28 4)).isNone
    || (roff != 0 && !inside len roff (256 + 8 * nuop)) || (roff == 0 && nuop != 0)
    || len < recNat bs 44 4 || (imageRtab bs).any rtabBad

/-- LEN, MAGIC and VER of an image. -/
def imageHeadBad (bs : List Byte) : Bool :=
  bs.length < 128 || recNat bs 0 2 != 0x514B || recNat bs 2 2 != 1 || recNat bs 8 4 != bs.length

/-- The digest agrees. -/
def digestGood (bs : List Byte) : Bool := recNat bs 64 64 == (Config.sha3_512 (bs.drop 128)).toNat

/-- Loops of a routine close, and nest four deep at most (R317). -/
def loopsOk (depth : Nat) (is : List Instr) : Bool :=
  match is with
  | [] => depth == 0
  | i :: t =>
    match i with
    | .mlp .. => decide (depth < 4) && loopsOk (depth + 1) t
    | .mnd => loopsOk (depth - 1) t
    | _ => loopsOk depth t

/-- A routine of an image. -/
def routineUops (us : List Uop) (e : Nat) : List Instr := ((us.drop (field e 0 10)).take (field e 10 11)).filterMap decodeUop

/-- A micro-op is refused (R204, R317). -/
def uopsRefused (bs : List Byte) : Bool :=
  let us := imageUops bs
  us.any (fun w => match decodeUop w with | some i => !i.uopLoadable | none => true)
    || (imageRtab bs).any (fun e => bitAt e 21 && !loopsOk 0 (routineUops us e))

/-- The status of a LOAD, in the order of its checks. -/
def loadStatus (s : State) (asid : Nat) (image : Signed) : Nat :=
  let bs := image.bytes
  if imageHeadBad bs then 1
  else if !image.sigGood || !digestGood bs then 6
  else if bitAt (recNat bs 4 4) 0 && !(asidRec s asid).debug then 12
  else if imageMalformed bs then 1
  else if uopsRefused bs then 7 else 0

/-- Put bank images at multiples of 16 KiB. -/
def bankBytes (banks : List (Nat × Nat × List Byte)) : List Byte :=
  banks.flatMap (fun b => b.2.2 ++ List.replicate (16384 - b.2.2.length) 0)

/-- Place an image: its parcel stream in a read-only code region, zero to the region's end, and its bank images in a
region after it. Its handle is the address of the code region. -/
def loadImage (s : State) (asid : Nat) (bs : List Byte) : State × Nat :=
  let clen := recNat bs 24 4
  let stream := (bs.drop (recNat bs 20 4)).take clen
  let (s1, code) := placeReadOnly s asid (alignUp (max clen 1) 131072) 0 true stream
  let banks := (imageBanks bs (recNat bs 32 4) (recNat bs 28 4)).getD []
  let s2 := if banks.isEmpty then s1 else (placeReadOnly s1 asid (16384 * banks.length) 0 false (bankBytes banks)).1
  let koff := recNat bs 16 4
  let im : Image := {
    asid := asid, handle := code.lo, debug := bitAt (recNat bs 4 4) 0, base := BitVec.ofNat 64 code.lo
    kernels := (List.range (recNat bs 12 4)).map (fun i =>
      (BitVec.ofNat 64 (code.lo + recNat bs (koff + 16 * i) 8), bitAt (recNat bs (koff + 16 * i + 8) 1) 0))
    banks := banks, rtab := (imageRtab bs).map (BitVec.ofNat 32), uops := imageUops bs
    size := clen, chans := Config.symbolChannels (bs.drop (recNat bs 44 4)) }
  ({ s2 with images := fset s2.images code.lo im }, code.lo)

/-- LOAD. -/
def execLoad (h : ReqHead) (image : Signed) (s : State) : Out :=
  serve s h 0x01 [(32, image.bytes)] (fun s asid =>
    if loadStatus s asid image ≠ 0 then failWith s (loadStatus s asid image)
    else
      let r := loadImage s asid image.bytes
      .reply r.1 0 (BitVec.ofNat 64 r.2) [])

/-- An image of the requester that is loaded: its number, or a status. -/
def imageFor (s : State) (asid handle : Nat) : Nat :=
  match fget? s.images handle with
  | some im => if !im.live then 8 else if im.asid = asid then 0 else 12
  | none => 8

/-- UNLOAD: nothing new uses the image; what runs keeps its code until the last launch of it is over. -/
def execUnload (h : ReqHead) (handle : Nat) (s : State) : Out :=
  serve s h 0x02 [] (fun s asid =>
    if imageFor s asid handle ≠ 0 then failWith s (imageFor s asid handle)
    else
      .reply (dropCode { s with
        images := s.images.map (fun (e : Nat × Image) => if e.1 = handle then (e.1, { e.2 with live := false }) else e) }) 0 0 [])

/-! ### LAUNCH (R376, R378, R425) -/

/-- Class M before the first COLD_IDLE (R425). -/
def tooEarly (s : State) (bs : List Byte) : Bool := !bitAt (recNat bs 3 1) 2 && !s.cold.enabled

/-- What the service does with a LAUNCH request: the result is the launch number. -/
def serveLaunch (h : ReqHead) (handle : Nat) (record : List Byte) (s : State) (asid : Nat) : Answer :=
  match fget? s.images handle with
  | none => failWith s 8
  | some im =>
    if imageFor s asid handle ≠ 0 then failWith s (imageFor s asid handle)
    else if recordMalformed record then failWith s 1
    else if tooEarly s record then failWith s 14
    else match validate s asid im record with
      | (t, .bad k) => failWith t k
      | (t, .held) => .hold t (.launch h handle record)
      | (t, .ok r) =>
        if !launchFits t handle r || newLaunch t = 0 then failWith t 5
        else
          let e := createLaunch t asid handle r none
          .reply e.1 0 (BitVec.ofNat 64 e.2) []

/-- LAUNCH. -/
def execLaunch (h : ReqHead) (handle : Nat) (record : List Byte) (s : State) : Out :=
  serve s h 0x05 [(h.len - record.length, record)] (serveLaunch h handle record)

/-! ### Triggers (R382, R385) -/

/-- The lowest index that a trigger entry may take. -/
def freeTrigger (s : State) : Option Nat :=
  (List.range 4096).find? (fun i => match fget? s.triggers i with | some t => !t.armed && t.busy.isEmpty | none => true)

/-- The body of a trigger entry leaves its fields' ranges. The 32 bits of RING that hold the count and the size of its buffers are
16 each (log 89). -/
def triggerBad (q : TriggerReq) : Bool := 2 ^ 24 ≤ q.job || 2 ^ 32 ≤ q.cnt || 2 ^ 16 ≤ q.ringCount || 2 ^ 16 ≤ q.ringSize

/-- What the service does with an ARM request: the result is the trigger's index. -/
def serveArm (h : ReqHead) (q : TriggerReq) (handle : Nat) (record : List Byte) (s : State) (asid : Nat) : Answer :=
  match fget? s.images handle with
  | none => failWith s 8
  | some im =>
    if imageFor s asid handle ≠ 0 then failWith s (imageFor s asid handle)
    else if triggerBad q then failWith s 1
    else match validate s asid im record with
      | (t, .bad k) => failWith t k
      | (t, .held) => .hold t (.arm h q handle record)
      | (t, .ok r) =>
        if !launchFits t handle r then failWith t 5
        else match freeTrigger t with
        | none => failWith t 10
        | some i =>
          .reply { t with triggers := fset t.triggers i { armed := true, asid := asid, req := q, cnt := q.cnt, image := handle, record := r } }
            0 (BitVec.ofNat 64 i) []

/-- ARM. -/
def execArm (h : ReqHead) (q : TriggerReq) (handle : Nat) (record : List Byte) (s : State) : Out :=
  serve s h 0x06 [(h.len - record.length, record)] (serveArm h q handle record)

/-- A request is served again once a page has moved. -/
def execRetry (r : HeldReq) (s : State) : Out :=
  match r with
  | .launch h handle record => serveAgain s r h 0x05 (serveLaunch h handle record)
  | .arm h q handle record => serveAgain s r h 0x06 (serveArm h q handle record)
  | .plane h region plane a => serveAgain s r h opPlane (servePlane h region plane a)

/-- DISARM: the result is the final FIRED. -/
def execDisarm (h : ReqHead) (index : Nat) (s : State) : Out :=
  serve s h 0x07 [] (fun s asid =>
    match fget? s.triggers index with
    | none => failWith s 8
    | some t =>
      if t.asid ≠ asid then failWith s 12
      else if !t.armed then failWith s 8
      else .reply (dropCode { s with triggers := fset s.triggers index { t with armed := false } }) 0 (t.fired.setWidth 64) [])

/-- The armed entries of an ASID. -/
def armedOf (s : State) (asid : Nat) : Nat := s.triggers.countP (fun e => e.2.armed && e.2.asid == asid)

/-- Disarm every entry of an ASID. -/
def disarmAll (s : State) (asid : Nat) : State :=
  { s with triggers := s.triggers.map (fun (e : Nat × Trigger) => if e.2.asid = asid then (e.1, { e.2 with armed := false }) else e) }

/-- TRESET: the result is the number of entries disarmed. -/
def execTreset (h : ReqHead) (s : State) : Out :=
  serve s h 0x08 [] (fun s asid => .reply (dropCode (disarmAll s asid)) 0 (BitVec.ofNat 64 (armedOf s asid)) [])

/-! ### HCONF (R386) -/

/-- The quotas of a shard in all. -/
def shardQuota (quotas : File Nat) (shard : Nat) : Nat :=
  ((List.range 64).map (fun i => fget quotas (4 * i + shard) 256)).foldl (· + ·) 0

/-- The quotas that a request leaves. -/
def newQuotas (s : State) (c : HconfReq) : File Nat := c.queues.foldl (fun q e => fset q e.1 e.2.1) s.quotas

/-- A field is out of its range. -/
def hconfBad (s : State) (c : HconfReq) : Bool :=
  3 < c.shard || c.aging < 1300 || 2 ^ 24 ≤ c.aging
    || c.queues.any (fun e => 255 < e.1 || shardOf e.1 != c.shard || 16384 < e.2.1)
    || 16384 < shardQuota (newQuotas s c) c.shard

/-- HCONF, by an operator job. -/
def execHconf (h : ReqHead) (c : HconfReq) (s : State) : Out :=
  serve s h 0x09 [] (fun s _ =>
    if !Config.operatorJob (jobOf s h) then failWith s 12
    else if hconfBad s c then failWith s 1
    else
      let named := c.queues.map (·.1)
      .reply (harbourSettled { s with
        aging := fset s.aging c.shard c.aging
        quotas := newQuotas s c
        paused := s.paused.filter (fun q => !named.contains q) ++ (c.queues.filter (fun e => e.2.2)).map (·.1) }) 0 0 [])

/-! ### QUERY and ATTEST (R381, R440) -/

/-- The region of an ASID that holds its reports. -/
def reportRegion (s : State) (asid : Nat) : Option Region := (regionAt s asid (posOf (asidRec s asid).report)).map (·.2)

/-- Offset of the last queried record in the report region (log 61). -/
def recordOffset : Nat := 0x5000

/-- Write into the report region; the address. -/
def report (s : State) (asid off : Nat) (bs : List Byte) : State × Word :=
  (match reportRegion s asid with | some r => putPlane s r 0 off bs | none => s, (asidRec s asid).report + BitVec.ofNat 64 off)

/-- QUERY: the result is the record's address, and the body holds the record. -/
def execQuery (h : ReqHead) (k : QueryKey) (s : State) : Out :=
  serve s h 0x0A [] (fun s asid =>
    match k with
    | .launch n =>
      (match launchOf s n with
       | none => failWith s 8
       | some l =>
         if l.asid ≠ asid then failWith s 12
         else
           let r := report s asid recordOffset (completionRecord l)
           .reply r.1 0 r.2 (completionRecord l))
    | .trigger i =>
      (match fget? s.triggers i with
       | none => failWith s 8
       | some t =>
         if t.asid ≠ asid then failWith s 12
         else
           let f := takeFree s 32
           let r := report f.1 asid recordOffset (f.2.take 32)
           .reply r.1 0 r.2 (f.2.take 32)))

/-- A copy of an item that booted. -/
def booted (b : Boot) (item : FlashItem) : FlashCopy :=
  match item with
  | .record => if b.recFromB then b.recB else b.recA
  | .image => if b.imgFromB then b.imgB else b.imgA
  | .microcode => if b.mcFromB then b.mcB else b.mcA

/-- The bytes of a 64-byte digest. -/
def digestBytes (bs : List Byte) : List Byte := leBytes 64 (Config.sha3_512 bs).toNat

/-- The seed of the identity key pair: the first 32 bytes of SHA3-512 of the secret (R371). -/
def identitySeed (secret : BitVec 256) : BitVec 256 := (Config.sha3_512 (leBytes 32 secret.toNat)).setWidth 256

/-- The report up to its signature (R440); the configuration record is that of the copy that booted, with the signature stored there. -/
def attestBody (s : State) (challenge : List Byte) : List Byte :=
  let rec_ := block 4096 (booted s.boot .record).bytes
  leBytes 4 1 ++ leBytes 4 16454 ++ leBytes 8 s.gts ++ leBytes 4 (s.cold.band + 4 * s.cold.state) ++ leBytes 12 0 ++ challenge
    ++ digestBytes (booted s.boot .image).bytes ++ digestBytes (booted s.boot .microcode).bytes ++ digestBytes rec_
    ++ leBytes 224 0 ++ leBytes 2592 (Config.mlDsaPublic (identitySeed s.boot.secret)).toNat ++ rec_
    ++ block 4627 ((booted s.boot .record).bytes.drop 4096)

/-- The report with its signature. -/
def attestReport (s : State) (challenge : List Byte) : List Byte :=
  let body := attestBody s challenge
  body ++ leBytes 4627 (Config.mlDsaSign (identitySeed s.boot.secret) (digestBytes body)).toNat

/-- ATTEST: status 15 while the identity is unavailable (R371). -/
def execAttest (h : ReqHead) (challenge : List Byte) (s : State) : Out :=
  serve s h 0x0B [(32, challenge)] (fun s asid =>
    if challenge.length ≠ 64 then failWith s 1
    else if !s.boot.identity then failWith s 15
    else
      let bs := attestReport s challenge
      let r := report s asid 0 bs
      .reply r.1 0 r.2 bs)

/-! ### Address spaces (R375, R377, R391) -/

/-- ASID_GRANT: the record, the mailbox with its doorbell, the report region. -/
def execAsidGrant (asid job : Nat) (loadKey : BitVec 20736) (planeQuota pinQuota : Nat) (debug : Bool) (s : State) : Out :=
  if !s.boot.service || asid = 0 || 16384 ≤ asid || 2 ^ 24 ≤ job || (asidRec s asid).granted || (asidOfJob s job).isSome
      || s.invals.any (fun i => i.change == .asid asid) then .next s
  else
    let a := asidRec s asid
    let s1 := setAsid s asid { gen := a.gen, granted := true, job := job, loadKey := loadKey, planeQuota := planeQuota, pinQuota := pinQuota, debug := debug }
    let (s2, _, box) := placeRegion s1 asid 65536 0 none 0xAAAA_AAAA none [] [1 + 3 * 2 + 2 * 2 ^ 23] false
    let (s3, _, bell) := placeRegion s2 asid 64 0 none 0xAAAA_AAAA none [] [1 + 3 * 2 + 2 * 2 ^ 23] false
    let (s4, rep) := placeReadOnly s3 asid 131072 2 false []
    .next (setAsid s4 asid { asidRec s4 asid with
      mailbox := BitVec.ofNat 64 box.lo, doorbell := BitVec.ofNat 64 bell.lo, report := BitVec.ofNat 64 rep.lo })

/-- ASID_FREE: the whole ASID is invalidated, in the pod where a region of it holds a pod-shared plane (R393); its triggers go. Nothing
of it runs. -/
def execAsidFree (asid : Nat) (s : State) : Out :=
  if !s.boot.service || !(asidRec s asid).granted || s.launches.any (fun e => e.2.asid == asid && !e.2.done) then .next s
  else .next (startInval (setAsid (disarmAll s asid) asid { asidRec s asid with granted := false }) (.asid asid)
    (s.regions.any (fun e => e.2.asid == asid && hasShared s e.2)))

end Sys2Proof.Machine
end

