-- ==== Sys2Proof/Machine/Trigger.lean ====
section
/-! DEFINITION. Triggers: a delivered message is matched and fires a launch (R382 to R384, R436). -/

namespace Sys2Proof.Machine

/-- A delivery mode that is matched (R383). -/
def matchable (d : Delivery) : Bool := match d with | .rod => true | .rud => true | .rudi => false | .uud => false

/-- An armed entry matches a message. -/
def triggerMatches (t : Trigger) (m : Message) : Bool :=
  t.armed && (m.tag &&& t.req.mask) == t.req.value && m.job == t.req.job && t.req.ports.getLsbD m.port

/-- The matching entry with the lowest index. -/
def matching (s : State) (m : Message) : Option (Nat × Trigger) :=
  (s.triggers.filter (fun e => triggerMatches e.2 m)).foldl (fun best e =>
    match best with
    | some b => if e.1 < b.1 then some e else some b
    | none => some e) none

/-- The next free buffer of an entry's ring, from that of the next fire on (R384). -/
def nextBuffer (t : Trigger) : Option Nat :=
  ((List.range t.req.ringCount).map (fun i => (t.fired.toNat + i) % t.req.ringCount)).find? (fun b => !t.busy.any (fun x => x.1 == b))

/-- The entry after a fire into a buffer: FIRED advances modulo 2^32, CNT falls if it is not 0, and an entry whose CNT
reaches 0 disarms. -/
def afterFire (t : Trigger) (buffer launch : Nat) : Trigger :=
  { t with fired := t.fired + 1, cnt := t.cnt - 1, armed := t.armed && t.cnt != 1, busy := t.busy ++ [(buffer, launch)] }

/-- The record that a fire launches: with ARGF, FIRED replaces argument word 1. -/
def firedRecord (t : Trigger) : LaunchRec :=
  if t.req.argf then { t.record with args := t.record.args.set 1 (t.fired.setWidth 64) } else t.record

/-- The address of a buffer. -/
def bufferAt (t : Trigger) (b : Nat) : Word := t.req.ringBase + BitVec.ofNat 64 (b * t.req.ringSize)

/-- The step group of a record is free. -/
def groupFree (s : State) (r : LaunchRec) : Bool :=
  match r.step with | some x => !(fget? s.groups x.sgid).any (·.live) | none => true

/-- An entry fires: the launch is created, and the fire is recorded. -/
def fire (s : State) (i : Nat) (t : Trigger) (b : Nat) (m : Message) : State :=
  let t1 := afterFire t b (newLaunch s)
  let e := createLaunch { s with triggers := fset s.triggers i t1 } t.asid t.image (firedRecord t1) (some (i, bufferAt t b))
  ringAppend e.1 6 0 [(2, i), (4, t1.fired.toNat), (8, m.tag.toNat), (2, e.2), (16, (Config.sha3_512 m.payload).toNat)]

/-- A message meets the entry that it matches: one that finds the ring full or too small is not accepted. One whose payload meets a
missing page, a unit that an observer's store still covers in part (R78.5), or an HBM timing hold, or for which no launch number,
step group, node number or place of its routines is free, is not accepted either, and comes again (log 89). -/
def meet (s : State) (i : Nat) (t : Trigger) (m : Message) : State :=
  match nextBuffer t with
  | none => count s 10 1
  | some b =>
    if t.req.ringSize < m.payload.length then count s 10 1
    else if s.cold.hbmHold || hubBusy s t.asid (bufferAt t b) m.payload.length || newLaunch s = 0 || !routinesFit s t.image t.record || !groupFree s t.record || (newNumbers s t.record.nodes.length).length < t.record.nodes.length then s
    else if m.payload.isEmpty then fire s i t b m
    else
      let r := hubStore s t.asid (bufferAt t b) m.payload
      if r.2 then fire r.1 i t b m else r.1

/-- TRIGGER_MESSAGE: a whole message has been delivered (R383). -/
def execTriggerMessage (m : Message) (s : State) : Out :=
  if !s.boot.service then .next s
  else if !matchable m.mode then .next (count s 9 1)
  else match matching s m with
    | none => .next (count s 8 1)
    | some (i, t) => .next (meet s i t m)

end Sys2Proof.Machine
end

