-- ==== Sys2Proof/Machine/Errors.lean ====
section
/-! DEFINITION. Soft errors, patrol scrub, and the clearing of error banks (R408, R409, R417, R418, R427, R428). -/

namespace Sys2Proof.Machine

/-! ### Upsets (R408) -/

/-- A context of the module exists. -/
def cidOk (cid : Nat) : Bool := cid < 4 * Config.nCores

/-- A change of a sector's check state. -/
def changeSector (s : State) (sec : Nat) (f : Sector → Sector) : State :=
  { s with sectors := fset s.sectors sec (f (fget s.sectors sec {})) }

/-- What an upset changes; nothing notices it until the place is read. -/
def strike (u : Upset) (s : State) : State :=
  match u with
  | .reg cid code bit =>
    if cidOk cid && code < 0x68 && bit < (if 0x58 ≤ code then 1 else 64) then setCtx s cid (flipReg (ctxOf s cid) code (BitVec.ofNat 64 (2 ^ bit)) 0) else s
  | .residue cid code bit =>
    if cidOk cid && code < 0x68 && bit < 4 then setCtx s cid (flipReg (ctxOf s cid) code 0 (BitVec.ofNat 4 (2 ^ bit))) else s
  | .acc cid y row bit =>
    let cl := if y then Cluster.y else Cluster.x
    if cidOk cid && row < 128 && bit < 4096 then
      let old := readRow (ctxOf s cid) cl row
      setCtx s cid (putRow (ctxOf s cid) cl row { old with bits := old.bits ^^^ BitVec.ofNat 4096 (2 ^ bit) })
    else s
  | .spad core row bit double =>
    let k := coreOf s core
    let w := 64 * row + bit / 64
    if !(core < Config.nCores && row < 6144 && bit < 4096) || k.spadBad.contains w then s
    else if double || k.spadOne.contains w then
      setCore s core { k with spadBad := k.spadBad ++ [w], spadOne := k.spadOne.filter (fun x => x != w) }
    else setCore s core { k with spadOne := k.spadOne ++ [w] }
  | .cwt cid entry word double =>
    let c := ctxOf s cid
    let w := 4 * entry + word
    if !cidOk cid || 512 ≤ entry || 4 ≤ word || c.cwtBad.contains w then s
    else if double || c.cwtOne.contains w then
      setCtx s cid { c with cwtBad := c.cwtBad ++ [w], cwtOne := c.cwtOne.filter (fun x => x != w) }
    else setCtx s cid { c with cwtOne := c.cwtOne ++ [w] }
  | .chan core ch double =>
    let x := chanOf s core ch
    if !(core < Config.nCores && ch < 64) || x.bad then s
    else if double || x.one then setChan s core ch { x with bad := true, one := false }
    else setChan s core ch { x with one := true }
  | .tide sgid k =>
    match fget? s.groups sgid with
    | some g => setGroup s { g with writes := (g.writes.zipIdx).map (fun e => if e.2 = k then { e.1 with bad := true } else e.1) }
    | none => s
  | .hbm addr bit => changeSector s (addr / 32) (fun e => flipByte e (addr % 32) (BitVec.ofNat 8 (2 ^ (bit % 8))))
  | .tag sec colour => changeSector s sec (fun e => { e with tag := some (colour % 16) })
  | .misdirected sec => changeSector s sec (fun e => { e with misdir := true })

/-- TRANSIENT_UPSET. -/
def execTransientUpset (u : Upset) (s : State) : Out := .next (strike u s)

/-! ### Patrol scrub (R427, R428) -/

/-- A sector as patrol scrub decodes it, under the colour that fits it best. -/
def patrolClass (e : Sector) : EccClass :=
  if e.poison then .kind 6
  else if e.misdir then (if e.wrong.isEmpty then .kind 7 else .kind 6)
  else match e.wrong with
    | [] => .clean
    | [_] => .corrected
    | _ => .kind 6

/-- Visit a sector: a correction is recorded and is to be written back, an uncorrectable sector recorded. -/
def scrubSector (stack : Nat) (s : State) (sec : Nat) : State :=
  match patrolClass (fget s.sectors sec {}) with
  | .corrected =>
    recordError { s with cold := { s.cold with scrubs := s.cold.scrubs ++ [sec] } } (.stack stack) true { kind := 0, addr := 32 * sec }
  | .kind k => recordError s (.stack stack) false { kind := k, addr := 32 * sec }
  | _ => s

/-- The listed sectors of a row, ascending. -/
def rowSectors (s : State) (stack row : Nat) : List Nat :=
  sortBy (fun x y => decide (x ≤ y)) ((s.sectors.map (·.1)).filter (fun k =>
    stackOf (32 * k) == stack && stackByte (32 * k) / Config.rowBytes == row))

/-- A stack's corrected sectors are written back, but for those to which a store has performed since patrol read them: their
write-back was dropped (R428). -/
def writeBack (s : State) (stack : Nat) : State :=
  let mine (sec : Nat) : Bool := stackOf (32 * sec) == stack
  { s with
    sectors := s.sectors.map (fun e => if mine e.1 && s.cold.scrubs.contains e.1 then (e.1, { e.2 with wrong := [] }) else e)
    cold := { s.cold with scrubs := s.cold.scrubs.filter (fun sec => !mine sec) } }

/-- PATROL_SCRUB_ROW: the stack's next row is read; what its last visit corrected is written back before (R427, R428; log 55). -/
def execPatrolScrubRow (stack row : Nat) (s : State) : Out :=
  if s.cold.state = 0 || s.cold.hbmHold || 8 ≤ stack || fget s.cold.patrol stack 0 ≠ row then .next s
  else
    let s1 := (rowSectors s stack row).foldl (scrubSector stack) (writeBack s stack)
    let next := if 2 ^ 36 ≤ (row + 1) * Config.rowBytes then 0 else row + 1
    .next { s1 with cold := { s1.cold with patrol := fset s1.cold.patrol stack next } }

/-! ### Error banks (R417) -/

/-- The units with a bank: cores 0 to 399, stacks from 400, walkers from 408, the tidepool, the storage port. -/
def bankUnit (n : Nat) : Option BankUnit :=
  if n < 400 then some (.core n) else if n < 408 then some (.stack (n - 400)) else if n < 413 then some (.walker (n - 408))
  else if n = 413 then some .tidepool else if n = 414 then some .storage else none

/-- A bank after a write of 1s to its status word. -/
def clearBank (b : Bank) (mask : Nat) : Bank :=
  { b with
    v := b.v && !bitAt mask 0
    ovf := b.ovf && !bitAt mask 2
    cecnt := if field mask 8 16 = 0 then b.cecnt else 0
    uecnt := if field mask 24 16 = 0 then b.uecnt else 0 }

/-- ERRBANK_W1C: the service clears fields of a status word. -/
def execErrbankW1c (unit : Nat) (mask : Word) (s : State) : Out :=
  match bankUnit unit with
  | some u => if s.boot.service then .next (setBank s u (clearBank (bankOf s u) mask.toNat)) else .next s
  | none => .next s

end Sys2Proof.Machine
end

