-- ==== Sys2Proof/Machine/Cold.lean ====
section
/-! DEFINITION. Cold operation: sensors and bands, the cool-down state machine, refresh, clocks and timings, parking,
telemetry (R421 to R435). -/

namespace Sys2Proof.Machine

/-! ### Sensors (R421, R422) -/

/-- A reading in quarter kelvin that a sensor can give: 60 K to 400 K. -/
def readingOk (r : Option Nat) : Bool := match r with | some t => 240 ≤ t && t ≤ 1600 | none => false

/-- The sensors that have failed since power-up. -/
def failedAfter (failed : List Nat) (rs : List (Option Nat)) : List Nat :=
  failed ++ ((List.range 100).filter (fun i => !failed.contains i && !readingOk ((rs[i]?).getD none)))

/-- The readings of the working sensors: `none` for one that has failed or fails now (R421). -/
def workingReadings (failed : List Nat) (rs : List (Option Nat)) : List (Option Nat) :=
  (List.range 100).map (fun i => let r := (rs[i]?).getD none; if failed.contains i || !readingOk r then none else r)

def working (c : Cold) : List Nat := c.reading.filterMap id

def tmaxOf (c : Cold) : Nat := (working c).foldl max 0

/-- TMAX less the coldest working sensor (R424). -/
def spreadOf (c : Cold) : Nat := tmaxOf c - (working c).foldl min (tmaxOf c)

/-- A compute die has fewer than 8 working sensors; those of die d are 16·d to 16·d + 15. -/
def fewSensors (c : Cold) : Bool := [0, 1, 2, 3].any (fun d => ((c.reading.drop (16 * d)).take 16).countP (·.isSome) < 8)

/-- The warmest band whose entry threshold TMAX crosses. -/
def bandEntered (c : Cold) : Nat :=
  let t := tmaxOf c
  max (if 920 < t then 3 else if 500 < t then 2 else if 368 < t then 1 else 0) (if fewSensors c then 2 else 0)

/-- The condition to leave the present band: every working sensor below its lower threshold. -/
def leaves (c : Cold) : Bool :=
  c.band != 0 && !(c.band == 2 && fewSensors c)
    && (working c).all (fun t => t < (if c.band = 1 then 352 else if c.band = 2 then 484 else 904))

/-- Note since when the fall condition has held. -/
def noteFall (s : State) : State :=
  { s with cold := { s.cold with fallAt := if leaves s.cold then some (s.cold.fallAt.getD s.gts) else none } }

/-! ### Changes of band (R422, R423, R429 to R431) -/

/-- The arithmetic clock and that of the service cores, in MHz, of a band; 0 for held. -/
def clocksOf (band : Nat) : Nat × Nat :=
  if band = 0 then (1300, 1300) else if band = 3 then (0, 400) else (940, 940)

/-- Nanoseconds in each band so far. -/
def bandTimes (s : State) : File Nat :=
  fset s.cold.bandTime s.cold.band (fget s.cold.bandTime s.cold.band 0 + (s.gts - s.cold.lastTime))

/-- Refresh under a new band: a rise to K or T starts a sweep of 8,192 commands to each stack, W applies at once, a fall
waits for the end of the round, C stops refresh. -/
def refreshFor (c : Cold) (new : Nat) : Cold :=
  if c.band < new then
    (if new = 3 then { c with refresh := 3 } else { c with refresh := new, sweep := List.replicate 8 8192, roundLeft := List.replicate 8 8192 })
  else if new = 0 then { c with refresh := 0, sweep := [], roundLeft := [] }
  else c

/-- The module band changes: BSEQ, the report, the record, the clock pause, the timing hold, refresh. -/
def enterBand (s : State) (new : Nat) : State :=
  let c := s.cold
  let c1 := refreshFor { c with
    bseq := c.bseq + 1, bandAt := s.gts, bandTime := bandTimes s, lastTime := s.gts, fallAt := none
    pause := c.pause || clocksOf c.band != clocksOf new
    hbmHold := c.hbmHold || (decide (c.band < 2) != decide (new < 2)) } new
  let s1 := ringAppend { s with cold := { c1 with band := new } } 4 0 [(1, c.band), (1, new), (2, c.tmax)]
  { s1 with outbox := s1.outbox ++ [.bandReport new s1.cold.state] }

/-- Entry to QUIESCE: class M tasks are parked. -/
def quiesce (s : State) (requested : Bool) : State :=
  parkAll (setColdState { s with cold := { s.cold with warmReq := requested } } 8)

/-- Entry to SOAK or COLD_IDLE, and the states that follow the band (R426). -/
def followBand (s : State) : State :=
  let st := s.cold.state
  let b := s.cold.band
  if st = 2 ∧ b = 0 then setColdState { s with cold := { s.cold with soakAt := none, soaked := false } } 3
  else if st = 3 ∧ b ≠ 0 then setColdState { s with cold := { s.cold with soakAt := none, soaked := false } } 2
  else if 4 ≤ st ∧ st ≤ 7 then
    (if b = 3 then quiesce s false
     else if b = 2 then setColdState s 7
     else if b = 1 then setColdState s 6
     else if 6 ≤ st then setColdState s (if residentM s then 5 else 4)
     else s)
  else s

/-- SENSOR_SAMPLE's own part: readings, failures, TMAX. -/
def takeSample (s : State) (rs : List (Option Nat)) : State :=
  let failed := failedAfter s.cold.failed rs
  let c := { s.cold with failed := failed, reading := workingReadings failed rs }
  { s with cold := { c with tmax := tmaxOf c } }

/-- BAND_RISE. -/
def riseBand (s : State) : State :=
  if s.cold.band < bandEntered s.cold then followBand (enterBand s (bandEntered s.cold)) else s

/-- The soak condition: every working sensor below 88 K, a spread of 3 K or less. -/
def soakHolds (c : Cold) : Bool := (working c).all (fun t => t < 352) && spreadOf c ≤ 12

/-- A sample in SOAK. -/
def noteSoak (s : State) : State :=
  if s.cold.state = 3 then
    { s with cold := { s.cold with soakAt := if soakHolds s.cold then some (s.cold.soakAt.getD s.gts) else none } }
  else s

/-- WARMING_DONE: every working sensor reads 280 K or more. -/
def warmingDone (s : State) : State :=
  if s.cold.state = 9 && (working s.cold).all (fun t => 1120 ≤ t) then setColdState s 1 else s

/-- SENSOR_SAMPLE: when GTS is a multiple of 100 µs. -/
def execSensorSample (readings : List (Option Nat)) (s : State) : Out :=
  if s.cold.state = 0 || s.gts % 100000 != 0 then .next s
  else .next (warmingDone (noteSoak (noteFall (riseBand (takeSample s readings)))))

/-- The fall condition has held for 1 s since the entry to the band. -/
def fallDue (s : State) : Bool :=
  match s.cold.fallAt with
  | some t => leaves s.cold && decide (max t s.cold.bandAt + 10 ^ 9 ≤ s.gts)
  | none => false

/-- BAND_FALL: by one band. -/
def execBandFall (s : State) : Out :=
  if s.cold.state ≠ 0 && fallDue s then .next (noteFall (followBand (enterBand s (s.cold.band - 1)))) else .next s

/-! ### Clocks, timings, refresh (R429 to R431) -/

/-- CLOCK_PAUSE_END. -/
def execClockPauseEnd (s : State) : Out := .next { s with cold := { s.cold with pause := false } }

/-- HBM_TIMING_HOLD_END: what the harbour and the service held goes on. -/
def execHbmTimingHoldEnd (s : State) : Out :=
  if s.cold.hbmHold then .next (retryHeld (harbourSettled (retryConds (lateImages { s with cold := { s.cold with hbmHold := false } })))) else .next s

/-- A command of a round: the next round follows the last command, and with it a fallen band's interval. -/
def roundCommand (c : Cold) (stack : Nat) : Cold :=
  let left := (c.roundLeft[stack]?).getD 0
  let all := if c.roundLeft.length = 8 then c.roundLeft else List.replicate 8 8192
  let c1 := { c with roundLeft := all.set stack (if left = 0 then 8191 else left - 1) }
  if c1.roundLeft.all (· == 0) then { c1 with refresh := c.band, roundLeft := List.replicate 8 8192 } else c1

/-- REFRESH_COMMAND: a command of the sweep, else of the round; none in band C. It changes no data. -/
def execRefreshCommand (stack : Nat) (s : State) : Out :=
  let c := s.cold
  if c.state = 0 || 8 ≤ stack then .next s
  else if 0 < (c.sweep[stack]?).getD 0 then .next { s with cold := { c with sweep := c.sweep.set stack ((c.sweep[stack]?).getD 0 - 1) } }
  else if c.refresh = 0 then .next s
  else .next { s with cold := roundCommand c stack }

/-! ### The state machine (R424 to R426) -/

/-- A request that the present state does not allow (R376, R435, R442). -/
def refused (s : State) : State := count s 11 1

/-- An answer over the management link, which has no request identifier. -/
def answer (s : State) (status : Nat) : State :=
  { s with replies := s.replies ++ [{ job := 0, rid := 0, status := status, result := 0 }] }

/-- An action that the present state does not allow is refused with status 11 and counted (R426, R442). -/
def notNow (s : State) : State := answer (refused s) 11

/-- COOLDOWN_REQUEST by the service; in band C the module goes on to SOAK at once. -/
def execCooldownRequest (levelOk : Bool) (s : State) : Out :=
  if !s.boot.service then .next s
  else if s.cold.state = 1 && levelOk && (s.boot.identity || s.cold.poweredCold) then .next (followBand (setColdState s 2))
  else .next (notNow s)

/-- WARMUP_REQUEST. -/
def execWarmupRequest (s : State) : Out :=
  let st := s.cold.state
  if !s.boot.service then .next s
  else if 4 ≤ st ∧ st ≤ 7 then .next (quiesce s true)
  else if st = 2 ∨ st = 3 ∨ (st = 1 ∧ s.cold.band ≠ 3) then
    .next (setColdState { s with cold := { s.cold with soakAt := none, soaked := false } } 9)
  else .next (notNow s)

/-- RATE_HOLD goes on or off. -/
def setRateHold (s : State) (on : Bool) : State :=
  if s.cold.rateHold = on then s
  else { s with cold := { s.cold with rateHold := on }, outbox := s.outbox ++ [.rateHold on] }

/-- The readings with which those of now are compared: the oldest of the last 60 s (log 62). -/
def readingBefore (s : State) (now : List (Option Nat)) : List (Option Nat) :=
  (((s.cold.history.filter (fun h => s.gts ≤ h.1 + 60 * 10 ^ 9)).getLast?).map (·.2)).getD now

/-- The greatest fall, or rise, of a working sensor's reading over the last 60 s, in quarter kelvin. -/
def fastestChange (s : State) (fall : Bool) (now : List (Option Nat)) : Nat :=
  (((readingBefore s now).zip now).map (fun e => match e.1, e.2 with
    | some old, some new => if fall then old - new else new - old
    | _, _ => 0)).foldl max 0

/-- The readings of now join those of the last 60 s. -/
def noteReadings (s : State) (now : List (Option Nat)) : State :=
  { s with cold := { s.cold with
    history := (s.gts, now) :: s.cold.history.filter (fun h => h.1 != s.gts && decide (s.gts ≤ h.1 + 60 * 10 ^ 9)) } }

/-- RATE_JUDGE: what the sensors read in this second is judged by the fastest change of a working one over the last 60 s: a fall in
COOLING, a rise in WARMING; in the other states the rates are recorded (R424; log 62). -/
def execRateJudge (readings : List (Option Nat)) (s : State) : Out :=
  let now := workingReadings s.cold.failed readings
  let fall := fastestChange s true now
  let rise := fastestChange s false now
  let spread := spreadOf { s.cold with reading := now }
  let s1 := noteReadings s now
  if s.cold.state = 0 || s.gts % 10 ^ 9 != 0 then .next s
  else if s.cold.state = 2 then
    (if 12 < fall || 100 < spread then .next (setRateHold s1 true)
     else if fall ≤ 10 && spread ≤ 80 then .next (setRateHold s1 false) else .next s1)
  else if s.cold.state = 9 then .next (setRateHold s1 (decide (24 < rise)))
  else .next (setRateHold { s1 with cold := { s1.cold with rates := (fall, rise) } } false)

/-- SOAK_COMPLETE: 1,800 s of samples that meet the soak condition. -/
def execSoakComplete (s : State) : Out :=
  match s.cold.soakAt with
  | some t => if s.cold.state = 3 && t + 1800 * 10 ^ 9 ≤ s.gts then .next { s with cold := { s.cold with soaked := true } } else .next s
  | none => .next s

/-- ARRAY_SELF_TEST_DONE: failing cores leave the enabled-core mask; the state becomes COLD_IDLE. -/
def execArraySelfTestDone (failing : List Nat) (s : State) : Out :=
  if s.cold.state ≠ 3 || !s.cold.soaked then .next s
  else
    let b := { s.boot with masked := s.boot.masked ++ failing.filter (fun k => k < Config.nMatrix && !s.boot.masked.contains k) }
    .next (settleRun (setColdState { s with boot := b, cold := { s.cold with soaked := false, soakAt := none, enabled := true } } 4))

/-- Every context of a matrix core is FREE or SAVED (R432). -/
def parked (s : State) : Bool := s.ctxs.all (fun e => Config.nMatrix ≤ e.1 / 4 || e.2.status == .free)

/-- PARKING_COMPLETE: the service cores drop to 400 MHz. -/
def execParkingComplete (s : State) : Out :=
  if s.cold.state ≠ 8 || !parked s then .next s
  else
    let s1 := setColdState s (if s.cold.warmReq then 9 else 1)
    .next { s1 with cold := { s1.cold with warmReq := false, pause := s1.cold.pause || s1.cold.band != 3 } }

/-! ### Telemetry (R435) -/

/-- A counter of 64 bits. -/
def counter64 (n : Nat) : List Byte := leBytes 8 (min n (2 ^ 64 - 1))

/-- A step counter over the step groups. -/
def sumGroups (s : State) (f : StepGroup → Nat) : Nat := (s.groups.map (fun e => f e.2)).foldl (· + ·) 0

/-- A frame. -/
def telemetryFrame (s : State) (pwr vbus level pres : Half) : List Byte :=
  leBytes 8 s.gts ++ leBytes 8 (tbandWord s).toNat ++ leBytes 4 pwr.toNat ++ leBytes 4 vbus.toNat ++ leBytes 4 level.toNat
    ++ leBytes 4 pres.toNat
    ++ ([0, 1, 2, 3, 4, 5].flatMap (fun k => counter64 (fget s.counters k 0)))
    ++ counter64 (sumGroups s (·.stcdrop)) ++ counter64 (sumGroups s (·.stcexcl)) ++ counter64 (sumGroups s (·.stcrej))
    ++ counter64 (sumGroups s (·.stcdel)) ++ counter64 (sumGroups s (·.stcovf))
    ++ ([8, 9, 10].flatMap (fun k => counter64 (fget s.counters k 0)))
    ++ ([0, 1, 2, 3].flatMap (fun b => counter64 (fget (bandTimes s) b 0 / 10 ^ 9)))
    ++ counter64 ((s.banks.map (fun e => e.2.cecnt)).foldl (· + ·) 0) ++ counter64 ((s.banks.map (fun e => e.2.uecnt)).foldl (· + ·) 0)
    ++ counter64 s.ringSeq ++ counter64 (fget s.counters 11 0) ++ leBytes 48 0

/-- TELEMETRY_FRAME. -/
def execTelemetryFrame (pwr vbus level pres : Half) (s : State) : Out :=
  if s.boot.service then .next { s with outbox := s.outbox ++ [.telemetry (telemetryFrame s pwr vbus level pres)] } else .next s

end Sys2Proof.Machine
end

