-- ==== Sys2Proof/Machine/Boot.lean ====
section
/-! DEFINITION. Power, the boot sequence, boot flash and the identity (R369 to R372, R426, R442). -/

namespace Sys2Proof.Machine

/-! ### Boot flash (R370, R372) -/

/-- A copy of an item. -/
def flashCopy (b : Boot) (item : FlashItem) (second : Bool) : FlashCopy :=
  match item with
  | .record => if second then b.recB else b.recA
  | .image => if second then b.imgB else b.imgA
  | .microcode => if second then b.mcB else b.mcA

/-- Write a copy. -/
def putFlash (b : Boot) (item : FlashItem) (second : Bool) (c : FlashCopy) : Boot :=
  match item with
  | .record => if second then { b with recB := c } else { b with recA := c }
  | .image => if second then { b with imgB := c } else { b with imgA := c }
  | .microcode => if second then { b with mcB := c } else { b with mcA := c }

/-- The fields of a record are in their ranges: VERSION is 1, the reserved bits of ENMASK are 0, TPGIB is 1 to 32, SPGIB at most 64
(R5, R372; log 90). -/
def recordInRange (bs : List Byte) : Bool :=
  recNat bs 0 4 == 1 && recNat bs 88 64 / 2 ^ 400 == 0 && 1 ≤ recNat bs 1688 1 && recNat bs 1688 1 ≤ 32 && recNat bs 1689 1 ≤ 64

/-- A copy verifies: its signature, for a record its fields, and for an image a version of at least MINFW. -/
def copyGood (item : FlashItem) (minfw : Nat) (c : FlashCopy) : Bool :=
  c.sigGood && (match item with | .record => recordInRange c.bytes | _ => decide (minfw ≤ Config.imageVersion c.bytes))

/-- The copy that boots, A first: true for B; none where both are bad. -/
def bootCopyOf (b : Boot) (item : FlashItem) (minfw : Nat) : Option Bool :=
  if copyGood item minfw (flashCopy b item false) then some false
  else if copyGood item minfw (flashCopy b item true) then some true else none

/-- Fields of the configuration record: the SHA3-512 digest of the identity key, the row repair entries, MINFW, the cores masked
off, the spare rows. -/
def recordIddig (bs : List Byte) : Nat := recNat bs 24 64
def recordRepair (bs : List Byte) : List Byte := (bs.drop 1690).take 2406
def recordMinfw (bs : List Byte) : Nat := recNat bs 4 4
def recordMasked (bs : List Byte) : List Nat := (List.range 400).filter (fun k => !bitAt (recNat bs 88 64) k)
def recordSpare (bs : List Byte) : File (List Nat) :=
  (List.range 384).filterMap (fun k =>
    let rows := ((List.range 4).map (fun i => recNat bs (152 + 4 * k + i) 1)).filter (· != 0xFF)
    if rows.isEmpty then none else some (k, rows))

/-- The spare-row map of a core with the rows that a retest added. -/
def mergedSpare (spare extra : File (List Nat)) : File (List Nat) :=
  extra.foldl (fun m e => fset m e.1 ((fget m e.1 [] ++ e.2).eraseDups)) spare

/-- Cores whose map has more rows than there are spares (R109). -/
def overfull (m : File (List Nat)) : List Nat := (m.filter (fun e => 4 < e.2.length)).map (·.1)

/-! ### Power (R369, R426) -/

/-- Recovery: WARM_IDLE, with the management link alone. -/
def enterRecovery (s : State) : State := setColdState { s with boot := { s.boot with recovery := true } } 1

/-- Steps 4 and 5: the maps and masks, the service cores, which reserve the record ring: 16 MiB to 1 GiB (R436). -/
def startService (s : State) (rec_ : List Byte) (unmappable : List Nat) (ringMiB : Nat) : State :=
  let spare := mergedSpare (recordSpare rec_) s.boot.retested
  let b := { s.boot with
    masked := (recordMasked rec_ ++ unmappable ++ overfull spare).eraseDups, spare := spare
    repair := recordRepair rec_ ++ s.boot.retestedHbm, service := true, recovery := false }
  setColdState { s with
    boot := b, tideGiB := recNat rec_ 1688 1, spillGiB := recNat rec_ 1689 1
    ringCap := max 16 (min ringMiB 1024) * 2 ^ 14 } 1

/-- Steps 2 and 3: the record, the Heresh image, the hub microcode. -/
def verifyBoot (s : State) (unmappable : List Nat) (ringMiB : Nat) : State :=
  match bootCopyOf s.boot .record 0 with
  | none => enterRecovery s
  | some r =>
    let rec_ := (flashCopy s.boot .record r).bytes
    let minfw := recordMinfw rec_
    let s1 := { s with boot := { s.boot with recFromB := r, minfw := minfw } }
    match bootCopyOf s.boot .image minfw, bootCopyOf s.boot .microcode minfw with
    | some i, some m => startService { s1 with boot := { s1.boot with imgFromB := i, mcFromB := m } } rec_ unmappable ringMiB
    | _, _ => enterRecovery s1

/-- The record whose IDDIG the identity has to meet: the copy that boots, or once the service runs the one that booted, since a new
record takes effect at the next boot (R442). -/
def iddigOf (b : Boot) : Option Nat :=
  (if b.service then some b.recFromB else bootCopyOf b .record 0).map (fun r => recordIddig (flashCopy b .record r).bytes)

/-- Step 1: a secret gives the identity where SHA3-512 of the public key made from it is the record's IDDIG (R371). -/
def identityOf (b : Boot) (puf : Option (BitVec 256)) : Bool :=
  match puf, iddigOf b with
  | some x, some d => (Config.sha3_512 (leBytes 2592 (Config.mlDsaPublic (identitySeed x)).toNat)).toNat == d
  | _, _ => false

/-- The boot block with the identity derived, or as it was. -/
def deriveIdentity (b : Boot) (puf : Option (BitVec 256)) : Boot :=
  if identityOf b puf then { b with identity := true, secret := puf.getD 0 } else b

/-- The pod's packages that a boot finds: 1 to 288 (R24; log 76). -/
def podOf (b : BootInput) : Nat := max 1 (min b.pod 288)

/-- POWER_UP: the boot ROM's steps (R369). -/
def execPowerUp (b : BootInput) (s : State) : Out :=
  if s.cold.state ≠ 0 then .next s
  else
    let band := min b.band 3
    let c := { s.cold with
      band := band, bandAt := s.gts, lastTime := s.gts, refresh := band, poweredCold := band != 3 }
    .next (verifyBoot { s with
      cold := c, pkg := min b.pkg (podOf b - 1), podPkgs := podOf b
      boot := deriveIdentity { s.boot with identity := false } (if band = 3 then b.puf else none) } b.unmappable b.ringMiB)

/-- What is left without power: boot flash, the maps of the next boot, what NVMe holds, and the pod's time. -/
def powerOff (s : State) : State :=
  { State.reset with
    agenda := s.agenda, cur := s.cur, pkg := s.pkg, gts := s.gts, nextId := s.nextId, free := s.free
    nvme := s.nvme, nextBlock := s.nextBlock
    boot := { recA := s.boot.recA, recB := s.boot.recB, imgA := s.boot.imgA, imgB := s.boot.imgB, mcA := s.boot.mcA
              mcB := s.boot.mcB, retested := s.boot.retested, retestedHbm := s.boot.retestedHbm } }

/-- POWER_LOSS: any state goes to OFF. -/
def execPowerLoss (s : State) : Out := .next (powerOff s)

/-! ### Writing boot flash, the identity, retests (R369 to R371, R442) -/

/-- An image may be written: signed, and not older than the record permits. -/
def mayFlash (s : State) (item : FlashItem) (image : Signed) : Bool :=
  copyGood item s.boot.minfw { bytes := image.bytes, sigGood := image.sigGood }

/-- Write an image into a copy. -/
def writeFlash (s : State) (item : FlashItem) (second : Bool) (image : Signed) : State :=
  { s with boot := putFlash s.boot item second { bytes := image.bytes, sigGood := image.sigGood } }

/-- RECOVERY_IMAGE_WRITE: never over a copy that boots; refused where the module is not in recovery (R442). -/
def execRecoveryImageWrite (item : FlashItem) (copyB : Bool) (image : Signed) (s : State) : Out :=
  if !s.boot.recovery then .next (notNow s)
  else if mayFlash s item image && bootCopyOf s.boot item s.boot.minfw != some copyB then
    .next (writeFlash s item copyB image)
  else .next s

/-- IDENTITY_REDERIVE: in WARM_IDLE with BAND W. -/
def execIdentityRederive (puf : Option (BitVec 256)) (s : State) : Out :=
  if s.cold.state = 1 && s.cold.band = 3 && s.boot.service then .next { s with boot := deriveIdentity s.boot puf }
  else .next (notNow s)

/-- The copy that an update rewrites: true for B. In recovery it is the one that would not boot. -/
def updateTarget (b : Boot) (item : FlashItem) : Bool :=
  if b.service then !(match item with | .record => b.recFromB | .image => b.imgFromB | .microcode => b.mcFromB)
  else bootCopyOf b item b.minfw == some false

/-- BOOT_FLASH_UPDATE: the copy that did not boot (R370). -/
def execBootFlashUpdate (item : FlashItem) (image : Signed) (s : State) : Out :=
  if s.cold.state ≠ 1 then .next (notNow s)
  else if !mayFlash s item image then .next (answer s 6)
  else .next (answer (writeFlash s item (updateTarget s.boot item) image) 0)

/-- REPAIR_MAP_RETEST: the rows and the repair entries that the retest found, for the next boot (R442). -/
def execRepairMapRetest (maps : RetestMaps) (s : State) : Out :=
  if s.cold.state ≠ 1 || !s.boot.service then .next (notNow s)
  else
    .next (answer { s with boot := { s.boot with
      retested := mergedSpare s.boot.retested (maps.rows.filter (fun e => e.1 < Config.nMatrix))
      retestedHbm := s.boot.retestedHbm ++ maps.repair } } 0)

end Sys2Proof.Machine
end

