-- ==== Sys2Proof/Machine/Issue.lean ====
section
/-! DEFINITION. ISSUE: a control word is fetched and its live operations issue (R10, R177, R203, R411). -/

namespace Sys2Proof.Machine

/-- The plan of a slot operation, by the draws that come before it; none for every other row. -/
def planOf (i : Instr) : Option (Nat → State → Plan) :=
  match i with
  | .issue _ _ _ => none
  | .lbeg _ => none
  | .lend _ => none
  | .halt => none
  | .nops _ => none
  | .isync => none
  | .bswap _ => none
  | .nop o => some (fun _ => planNop o)
  | .add o => some (fun _ => planAdd o)
  | .sub o => some (fun _ => planSub o)
  | .mul o => some (fun _ => planMul o)
  | .mulh o => some (fun _ => planMulh o)
  | .mulhu o => some (fun _ => planMulhu o)
  | .div o => some (fun _ => planDiv o)
  | .divu o => some (fun _ => planDivu o)
  | .rem o => some (fun _ => planRem o)
  | .remu o => some (fun _ => planRemu o)
  | .and o => some (fun _ => planAnd o)
  | .or o => some (fun _ => planOr o)
  | .xor o => some (fun _ => planXor o)
  | .shl o => some (fun _ => planShl o)
  | .shr o => some (fun _ => planShr o)
  | .sra o => some (fun _ => planSra o)
  | .rol o => some (fun _ => planRol o)
  | .ror o => some (fun _ => planRor o)
  | .min o => some (fun _ => planMin o)
  | .max o => some (fun _ => planMax o)
  | .minu o => some (fun _ => planMinu o)
  | .maxu o => some (fun _ => planMaxu o)
  | .clz o => some (fun _ => planClz o)
  | .ctz o => some (fun _ => planCtz o)
  | .popc o => some (fun _ => planPopc o)
  | .cmp o => some (fun _ => planCmp o)
  | .sel o => some (fun _ => planSel o)
  | .ldi o => some (fun _ => planLdi o)
  | .sext o => some (fun _ => planSext o)
  | .zext o => some (fun _ => planZext o)
  | .aplane o => some (fun _ => planAplane o)
  | .xput o => some (fun _ => planXput o)
  | .yput o => some (fun _ => planYput o)
  | .xget o => some (fun _ => planXget o)
  | .yget o => some (fun _ => planYget o)
  | .bset o => some (fun _ => planBset o)
  | .jtab o => some (fun _ => planJtab o)
  | .call o => some (fun _ => planCall o)
  | .ret o => some (fun _ => planRet o)
  | .lset o => some (fun _ => planLset o)
  | .lstr o => some (fun _ => planLstr o)
  | .cmpt o => some (fun _ => planCmpt o)
  | .cmptP o => some (fun _ => planCmptP o)
  | .cmptV o => some (fun _ => planCmptV o)
  | .trap o => some (fun _ => planTrap o)
  | .brk o => some (fun _ => planBrk o)
  | .rfe o => some (fun _ => planRfe o)
  | .mtk o => some (fun _ => planMtk o)
  | .mtkQsoft o => some (fun _ => planMtkQsoft o)
  | .mtkQstat o => some (fun _ => planMtkQstat o)
  | .mtkRmode o => some (fun _ => planMtkRmode o)
  | .mtkMdepth o => some (fun _ => planMtkMdepth o)
  | .mtkDbgctl o => some (fun _ => planMtkDbgctl o)
  | .mfk o => some (fun _ => planMfk o)
  | .ld o => some (fun _ => planLd o)
  | .ldu o => some (fun _ => planLdu o)
  | .st o => some (fun _ => planSt o)
  | .stq o => some (fun _ => planStq o)
  | .vld o => some (fun _ => planVld o)
  | .vst o => some (fun _ => planVst o)
  | .vgth o => some (fun _ => planVgth o)
  | .vsct o => some (fun _ => planVsct o)
  | .vldg o => some (fun _ => planVldg o)
  | .vstg o => some (fun _ => planVstg o)
  | .vstxM o => some (fun _ => planVstxM o)
  | .atomAdd o => some (fun _ => planAtomAdd o)
  | .atomAnd o => some (fun _ => planAtomAnd o)
  | .atomOr o => some (fun _ => planAtomOr o)
  | .atomXor o => some (fun _ => planAtomXor o)
  | .atomMin o => some (fun _ => planAtomMin o)
  | .atomMax o => some (fun _ => planAtomMax o)
  | .atomMinu o => some (fun _ => planAtomMinu o)
  | .atomMaxu o => some (fun _ => planAtomMaxu o)
  | .atomSwap o => some (fun _ => planAtomSwap o)
  | .atomCas o => some (fun _ => planAtomCas o)
  | .vote o => some (fun _ => planVote o)
  | .wait o => some (fun _ => planWait o)
  | .fence o => some (fun _ => planFence o)
  | .drain o => some (fun _ => planDrain o)
  | .slack o => some (fun _ => planSlack o)
  | .rdv o => some (fun _ => planRdv o)
  | .errinj o => some (fun _ => planErrinj o)
  | .vadd o => some (fun n => planVadd n o)
  | .vsub o => some (fun n => planVsub n o)
  | .vmul o => some (fun n => planVmul n o)
  | .vfma o => some (fun n => planVfma n o)
  | .vfms o => some (fun n => planVfms n o)
  | .vfnma o => some (fun n => planVfnma n o)
  | .vfnms o => some (fun n => planVfnms n o)
  | .vmin o => some (fun _ => planVmin o)
  | .vmax o => some (fun _ => planVmax o)
  | .vabs o => some (fun _ => planVabs o)
  | .vneg o => some (fun _ => planVneg o)
  | .vcopysign o => some (fun _ => planVcopysign o)
  | .vand o => some (fun _ => planVand o)
  | .vor o => some (fun _ => planVor o)
  | .vxor o => some (fun _ => planVxor o)
  | .vshl o => some (fun _ => planVshl o)
  | .vshr o => some (fun _ => planVshr o)
  | .vsra o => some (fun _ => planVsra o)
  | .vsel o => some (fun _ => planVsel o)
  | .vcmp o => some (fun _ => planVcmp o)
  | .pand o => some (fun _ => planPand o)
  | .por o => some (fun _ => planPor o)
  | .pxor o => some (fun _ => planPxor o)
  | .pnot o => some (fun _ => planPnot o)
  | .pany o => some (fun _ => planPany o)
  | .pall o => some (fun _ => planPall o)
  | .vrsum o => some (fun _ => planVrsum o)
  | .vrmax o => some (fun _ => planVrmax o)
  | .vrmin o => some (fun _ => planVrmin o)
  | .vperm o => some (fun _ => planVperm o)
  | .vrot o => some (fun _ => planVrot o)
  | .vrotI o => some (fun _ => planVrotI o)
  | .vrotL o => some (fun _ => planVrotL o)
  | .vbcast o => some (fun _ => planVbcast o)
  | .vbcastI o => some (fun _ => planVbcastI o)
  | .vbcastL o => some (fun _ => planVbcastL o)
  | .vxfer o => some (fun _ => planVxfer o)
  | .vrcp o => some (fun _ => planVrcp o)
  | .vrsqrt o => some (fun _ => planVrsqrt o)
  | .vexp2 o => some (fun _ => planVexp2 o)
  | .vlog2 o => some (fun _ => planVlog2 o)
  | .vcvt m o => some (fun n => planVcvt n m o)
  | .vcvtSat m o => some (fun n => planVcvtSat n m o)
  | .vmxq m o => some (fun n => planVmxq n m o)
  | .vmxd m o => some (fun n => planVmxd n m o)
  | .vtype o => some (fun _ => planVtype o)
  | .qcmp cond o => some (fun _ => planQcmp cond o)
  | .qand o => some (fun _ => planQand o)
  | .qor o => some (fun _ => planQor o)
  | .qnot o => some (fun _ => planQnot o)
  | .qfromp o => some (fun _ => planQfromp o)
  | .qconst o => some (fun _ => planQconst o)
  | .qconstL o => some (fun _ => planQconstL o)
  | .qlin o => some (fun _ => planQlin o)
  | .qmov o => some (fun _ => planQmov o)
  | .qmovCross o => some (fun _ => planQmovCross o)
  | .qmovFromRow o => some (fun _ => planQmovFromRow o)
  | .qmovToRow o => some (fun _ => planQmovToRow o)
  | .vblendQ k o => some (fun _ => planVblendQ k o)
  | .qcol o => some (fun n => planQcol n o)
  | .qgcmp o => some (fun _ => planQgcmp o)
  | .qgblend o => some (fun _ => planQgblend o)
  | .mcall o => some (fun _ => planMcall o)
  | .mcallM o => some (fun _ => planMcallM o)
  | .mset o => some (fun _ => planMset o)
  | .msetL o => some (fun _ => planMsetL o)
  | .mtile o => some (fun _ => planMtile o)
  | .mstat o => some (fun _ => planMstat o)
  | .mstatStatusClr o => some (fun _ => planMstatStatusClr o)
  | .mbound o => some (fun _ => planMbound o)
  | .cpin o => some (fun _ => planCpin o)
  | .cpout o => some (fun _ => planCpout o)
  | .cpacc o => some (fun _ => planCpacc o)
  | .cpfill o => some (fun _ => planCpfill o)
  | .chpost o => some (fun _ => planChpost o)
  | .chsnd o => some (fun _ => planChsnd o)
  | .cpinReg o => some (fun _ => planCpinReg o)
  | .cpoutReg o => some (fun _ => planCpoutReg o)
  | .cpaccReg o => some (fun _ => planCpaccReg o)
  | .cpfillReg o => some (fun _ => planCpfillReg o)
  | .chpostReg o => some (fun _ => planChpostReg o)
  | .chsndReg o => some (fun _ => planChsndReg o)
  | .chq o => some (fun _ => planChq o)
  | .chqLatch o => some (fun _ => planChqLatch o)
  | .plnew o => some (fun _ => planPlnew o)
  | .pldel o => some (fun _ => planPldel o)
  | .plprot o => some (fun _ => planPlprot o)
  | .plq o => some (fun _ => planPlq o)
  | .plpin o => some (fun _ => planPlpin o)
  | .post o => some (fun _ => planPost o)
  | .tend o => some (fun _ => planTend o)
  | .targ o => some (fun _ => planTarg o)
  | .cwtw o => some (fun _ => planCwtw o)
  | .cwtr o => some (fun _ => planCwtr o)
  | .ifence o => some (fun _ => planIfence o)
  | .wld _ _ _ _ _ _ => none
  | .act _ _ _ _ _ _ _ _ _ _ => none
  | .drn _ _ _ _ _ _ _ _ _ _ _ => none
  | .cks _ _ _ _ _ => none
  | .mlp _ _ => none
  | .mnd => none
  | .midx _ _ _ _ => none
  | .msel _ _ _ => none
  | .mnop => none
  | .routineStart _ => none
  | .actRowLands _ => none
  | .mdepthExpiry _ => none
  | .fixedResultLands _ => none
  | .loadDataReturn _ _ => none
  | .jtabHeaderReturn _ => none
  | .jtabEntryReturn _ => none
  | .sfuResult _ => none
  | .mstatSample _ => none
  | .hubCounterArrives _ => none
  | .storePerformsGrp _ => none
  | .storePerformsPkg _ => none
  | .waitReread _ => none
  | .taskComplete _ => none
  | .remoteDecrement _ _ => none
  | .dispatch _ _ => none
  | .egressSample => none
  | .preempt _ => none
  | .contextSaved _ => none
  | .restoreComplete _ _ _ _ => none
  | .watchdogExpiry _ => none
  | .imageToFlash _ => none
  | .imageFromFlash _ => none
  | .copyStart _ => none
  | .copyRow _ => none
  | .copyNodeFinish _ => none
  | .eventNodeSend _ => none
  | .cwtwComplete _ => none
  | .chsndDeliver _ _ => none
  | .postAccepted _ => none
  | .pseWalkComplete _ _ _ => none
  | .invalidateAck _ _ => none
  | .pageInComplete _ _ => none
  | .pageOutComplete _ => none
  | .arrivalRecord _ _ _ _ => none
  | .stepDecision _ _ _ _ => none
  | .deferredWriteArrives _ => none
  | .stepApply _ => none
  | .applyReport _ _ _ => none
  | .stepCommit _ _ => none
  | .skewExpiry _ => none
  | .packageSealed _ => none
  | .triggerMessage _ => none
  | .load _ _ => none
  | .unload _ _ => none
  | .region _ _ => none
  | .plane _ _ _ _ => none
  | .launch _ _ _ => none
  | .arm _ _ _ _ => none
  | .disarm _ _ => none
  | .treset _ => none
  | .hconf _ _ => none
  | .query _ _ => none
  | .attest _ _ => none
  | .errbankW1c _ _ => none
  | .powerUp _ => none
  | .powerLoss => none
  | .recoveryImageWrite _ _ _ => none
  | .identityRederive _ => none
  | .cooldownRequest _ => none
  | .warmupRequest => none
  | .sensorSample _ => none
  | .bandFall => none
  | .clockPauseEnd => none
  | .hbmTimingHoldEnd => none
  | .refreshCommand _ => none
  | .patrolScrubRow _ _ => none
  | .rateJudge _ => none
  | .soakComplete => none
  | .arraySelfTestDone _ => none
  | .parkingComplete => none
  | .telemetryFrame _ _ _ _ => none
  | .replayArm _ _ _ => none
  | .drainRow _ => none
  | .microOpComplete _ => none
  | .pageOut _ => none
  | .transientUpset _ => none
  | .bootFlashUpdate _ _ => none
  | .repairMapRetest _ => none
  | .asidGrant _ _ _ _ _ _ => none
  | .asidFree _ => none

/-- The immediate that PREFIX payloads and the ISSUE bits make (R10): the first payload is sign-extended, each later one
shifts in. -/
def immOf (prefixes : List (BitVec 14)) (imm : BitVec 5) : Word :=
  match prefixes with
  | [] => imm.signExtend 64
  | p :: rest =>
    let v := rest.foldl (fun (acc : Word) q => (acc <<< 14) ||| q.setWidth 64) (p.signExtend 64)
    (v <<< 5) ||| imm.setWidth 64

/-- A slot of a control word; a reserved opcode raises the illegal-operation trap where it is live. -/
def slotOpOf (w : Hcw) (slot : SlotId) : SlotOp :=
  let x := slotOf w slot
  { slot := slot, opc := slotOpcode x, lmask := (unpackFields slot x).lmask
    plan := ((decodeSlot slot x).bind planOf).getD (fun _ _ => illegalPlan) }

/-- The slots of a control word in their order. -/
def slotOps (w : Hcw) : List SlotOp := [SlotId.sx, .sy, .vx, .vy, .mx, .cp].map (slotOpOf w)

/-- The control word of an index; an entry that nothing has written holds 0 (log 63). -/
def hcwAt (c : Ctx) (index : Nat) : Hcw := fget c.cwt index 0

/-- ISSUE: the bundle of a control word of the run bank; a single wrong bit of the entry is corrected as it is read (R411). -/
def execIssue (prefixes : List (BitVec 14)) (index : BitVec 9) (imm : BitVec 5) (s : State) : Out :=
  let c := me s
  let k := index.toNat
  if k / 256 ≠ runBank c then .next (illegalParcel s)
  else if entryBad c k then .next (detected s 9 0 k { cause := 0x15, addr := c.pc })
  else
    let w := hcwAt c k
    let s1 := noteEntry s s.cur k
    .next (issueBundle (headerOf w) (slotOps w) (setMe s1 { me s1 with imm := some (immOf prefixes imm) }))

end Sys2Proof.Machine
end

