-- ==== Sys2Proof/Machine/Dispatch.lean ====
section
/-! DEFINITION. One arm for each instruction: a direct call of its meaning. -/

namespace Sys2Proof.Machine

/-- The meaning of an instruction in a state. -/
def exec (i : Instr) (s : State) : Host.Outcome State Fault Refusal :=
  match i with
  | .issue prefixes index imm => Sys2Proof.Machine.execIssue prefixes index imm s
  | .lbeg k => Sys2Proof.Machine.execLbeg k s
  | .lend k => Sys2Proof.Machine.execLend k s
  | .halt => Sys2Proof.Machine.execHalt s
  | .nops n => Sys2Proof.Machine.execNops n s
  | .isync => Sys2Proof.Machine.execIsync s
  | .bswap k => Sys2Proof.Machine.execBswap k s
  | .nop o => Sys2Proof.Machine.execNop o s
  | .add o => Sys2Proof.Machine.execAdd o s
  | .sub o => Sys2Proof.Machine.execSub o s
  | .mul o => Sys2Proof.Machine.execMul o s
  | .mulh o => Sys2Proof.Machine.execMulh o s
  | .mulhu o => Sys2Proof.Machine.execMulhu o s
  | .div o => Sys2Proof.Machine.execDiv o s
  | .divu o => Sys2Proof.Machine.execDivu o s
  | .rem o => Sys2Proof.Machine.execRem o s
  | .remu o => Sys2Proof.Machine.execRemu o s
  | .and o => Sys2Proof.Machine.execAnd o s
  | .or o => Sys2Proof.Machine.execOr o s
  | .xor o => Sys2Proof.Machine.execXor o s
  | .shl o => Sys2Proof.Machine.execShl o s
  | .shr o => Sys2Proof.Machine.execShr o s
  | .sra o => Sys2Proof.Machine.execSra o s
  | .rol o => Sys2Proof.Machine.execRol o s
  | .ror o => Sys2Proof.Machine.execRor o s
  | .min o => Sys2Proof.Machine.execMin o s
  | .max o => Sys2Proof.Machine.execMax o s
  | .minu o => Sys2Proof.Machine.execMinu o s
  | .maxu o => Sys2Proof.Machine.execMaxu o s
  | .clz o => Sys2Proof.Machine.execClz o s
  | .ctz o => Sys2Proof.Machine.execCtz o s
  | .popc o => Sys2Proof.Machine.execPopc o s
  | .cmp o => Sys2Proof.Machine.execCmp o s
  | .sel o => Sys2Proof.Machine.execSel o s
  | .ldi o => Sys2Proof.Machine.execLdi o s
  | .sext o => Sys2Proof.Machine.execSext o s
  | .zext o => Sys2Proof.Machine.execZext o s
  | .aplane o => Sys2Proof.Machine.execAplane o s
  | .xput o => Sys2Proof.Machine.execXput o s
  | .yput o => Sys2Proof.Machine.execYput o s
  | .xget o => Sys2Proof.Machine.execXget o s
  | .yget o => Sys2Proof.Machine.execYget o s
  | .bset o => Sys2Proof.Machine.execBset o s
  | .jtab o => Sys2Proof.Machine.execJtab o s
  | .call o => Sys2Proof.Machine.execCall o s
  | .ret o => Sys2Proof.Machine.execRet o s
  | .lset o => Sys2Proof.Machine.execLset o s
  | .lstr o => Sys2Proof.Machine.execLstr o s
  | .cmpt o => Sys2Proof.Machine.execCmpt o s
  | .cmptP o => Sys2Proof.Machine.execCmptP o s
  | .cmptV o => Sys2Proof.Machine.execCmptV o s
  | .trap o => Sys2Proof.Machine.execTrap o s
  | .brk o => Sys2Proof.Machine.execBrk o s
  | .rfe o => Sys2Proof.Machine.execRfe o s
  | .mtk o => Sys2Proof.Machine.execMtk o s
  | .mtkQsoft o => Sys2Proof.Machine.execMtkQsoft o s
  | .mtkQstat o => Sys2Proof.Machine.execMtkQstat o s
  | .mtkRmode o => Sys2Proof.Machine.execMtkRmode o s
  | .mtkMdepth o => Sys2Proof.Machine.execMtkMdepth o s
  | .mtkDbgctl o => Sys2Proof.Machine.execMtkDbgctl o s
  | .mfk o => Sys2Proof.Machine.execMfk o s
  | .ld o => Sys2Proof.Machine.execLd o s
  | .ldu o => Sys2Proof.Machine.execLdu o s
  | .st o => Sys2Proof.Machine.execSt o s
  | .stq o => Sys2Proof.Machine.execStq o s
  | .vld o => Sys2Proof.Machine.execVld o s
  | .vst o => Sys2Proof.Machine.execVst o s
  | .vgth o => Sys2Proof.Machine.execVgth o s
  | .vsct o => Sys2Proof.Machine.execVsct o s
  | .vldg o => Sys2Proof.Machine.execVldg o s
  | .vstg o => Sys2Proof.Machine.execVstg o s
  | .vstxM o => Sys2Proof.Machine.execVstxM o s
  | .atomAdd o => Sys2Proof.Machine.execAtomAdd o s
  | .atomAnd o => Sys2Proof.Machine.execAtomAnd o s
  | .atomOr o => Sys2Proof.Machine.execAtomOr o s
  | .atomXor o => Sys2Proof.Machine.execAtomXor o s
  | .atomMin o => Sys2Proof.Machine.execAtomMin o s
  | .atomMax o => Sys2Proof.Machine.execAtomMax o s
  | .atomMinu o => Sys2Proof.Machine.execAtomMinu o s
  | .atomMaxu o => Sys2Proof.Machine.execAtomMaxu o s
  | .atomSwap o => Sys2Proof.Machine.execAtomSwap o s
  | .atomCas o => Sys2Proof.Machine.execAtomCas o s
  | .vote o => Sys2Proof.Machine.execVote o s
  | .wait o => Sys2Proof.Machine.execWait o s
  | .fence o => Sys2Proof.Machine.execFence o s
  | .drain o => Sys2Proof.Machine.execDrain o s
  | .slack o => Sys2Proof.Machine.execSlack o s
  | .rdv o => Sys2Proof.Machine.execRdv o s
  | .errinj o => Sys2Proof.Machine.execErrinj o s
  | .vadd o => Sys2Proof.Machine.execVadd o s
  | .vsub o => Sys2Proof.Machine.execVsub o s
  | .vmul o => Sys2Proof.Machine.execVmul o s
  | .vfma o => Sys2Proof.Machine.execVfma o s
  | .vfms o => Sys2Proof.Machine.execVfms o s
  | .vfnma o => Sys2Proof.Machine.execVfnma o s
  | .vfnms o => Sys2Proof.Machine.execVfnms o s
  | .vmin o => Sys2Proof.Machine.execVmin o s
  | .vmax o => Sys2Proof.Machine.execVmax o s
  | .vabs o => Sys2Proof.Machine.execVabs o s
  | .vneg o => Sys2Proof.Machine.execVneg o s
  | .vcopysign o => Sys2Proof.Machine.execVcopysign o s
  | .vand o => Sys2Proof.Machine.execVand o s
  | .vor o => Sys2Proof.Machine.execVor o s
  | .vxor o => Sys2Proof.Machine.execVxor o s
  | .vshl o => Sys2Proof.Machine.execVshl o s
  | .vshr o => Sys2Proof.Machine.execVshr o s
  | .vsra o => Sys2Proof.Machine.execVsra o s
  | .vsel o => Sys2Proof.Machine.execVsel o s
  | .vcmp o => Sys2Proof.Machine.execVcmp o s
  | .pand o => Sys2Proof.Machine.execPand o s
  | .por o => Sys2Proof.Machine.execPor o s
  | .pxor o => Sys2Proof.Machine.execPxor o s
  | .pnot o => Sys2Proof.Machine.execPnot o s
  | .pany o => Sys2Proof.Machine.execPany o s
  | .pall o => Sys2Proof.Machine.execPall o s
  | .vrsum o => Sys2Proof.Machine.execVrsum o s
  | .vrmax o => Sys2Proof.Machine.execVrmax o s
  | .vrmin o => Sys2Proof.Machine.execVrmin o s
  | .vperm o => Sys2Proof.Machine.execVperm o s
  | .vrot o => Sys2Proof.Machine.execVrot o s
  | .vrotI o => Sys2Proof.Machine.execVrotI o s
  | .vrotL o => Sys2Proof.Machine.execVrotL o s
  | .vbcast o => Sys2Proof.Machine.execVbcast o s
  | .vbcastI o => Sys2Proof.Machine.execVbcastI o s
  | .vbcastL o => Sys2Proof.Machine.execVbcastL o s
  | .vxfer o => Sys2Proof.Machine.execVxfer o s
  | .vrcp o => Sys2Proof.Machine.execVrcp o s
  | .vrsqrt o => Sys2Proof.Machine.execVrsqrt o s
  | .vexp2 o => Sys2Proof.Machine.execVexp2 o s
  | .vlog2 o => Sys2Proof.Machine.execVlog2 o s
  | .vcvt mode o => Sys2Proof.Machine.execVcvt mode o s
  | .vcvtSat mode o => Sys2Proof.Machine.execVcvtSat mode o s
  | .vmxq mode o => Sys2Proof.Machine.execVmxq mode o s
  | .vmxd mode o => Sys2Proof.Machine.execVmxd mode o s
  | .vtype o => Sys2Proof.Machine.execVtype o s
  | .qcmp cond o => Sys2Proof.Machine.execQcmp cond o s
  | .qand o => Sys2Proof.Machine.execQand o s
  | .qor o => Sys2Proof.Machine.execQor o s
  | .qnot o => Sys2Proof.Machine.execQnot o s
  | .qfromp o => Sys2Proof.Machine.execQfromp o s
  | .qconst o => Sys2Proof.Machine.execQconst o s
  | .qconstL o => Sys2Proof.Machine.execQconstL o s
  | .qlin o => Sys2Proof.Machine.execQlin o s
  | .qmov o => Sys2Proof.Machine.execQmov o s
  | .qmovCross o => Sys2Proof.Machine.execQmovCross o s
  | .qmovFromRow o => Sys2Proof.Machine.execQmovFromRow o s
  | .qmovToRow o => Sys2Proof.Machine.execQmovToRow o s
  | .vblendQ k o => Sys2Proof.Machine.execVblendQ k o s
  | .qcol o => Sys2Proof.Machine.execQcol o s
  | .qgcmp o => Sys2Proof.Machine.execQgcmp o s
  | .qgblend o => Sys2Proof.Machine.execQgblend o s
  | .mcall o => Sys2Proof.Machine.execMcall o s
  | .mcallM o => Sys2Proof.Machine.execMcallM o s
  | .mset o => Sys2Proof.Machine.execMset o s
  | .msetL o => Sys2Proof.Machine.execMsetL o s
  | .mtile o => Sys2Proof.Machine.execMtile o s
  | .mstat o => Sys2Proof.Machine.execMstat o s
  | .mstatStatusClr o => Sys2Proof.Machine.execMstatStatusClr o s
  | .mbound o => Sys2Proof.Machine.execMbound o s
  | .cpin o => Sys2Proof.Machine.execCpin o s
  | .cpout o => Sys2Proof.Machine.execCpout o s
  | .cpacc o => Sys2Proof.Machine.execCpacc o s
  | .cpfill o => Sys2Proof.Machine.execCpfill o s
  | .chpost o => Sys2Proof.Machine.execChpost o s
  | .chsnd o => Sys2Proof.Machine.execChsnd o s
  | .cpinReg o => Sys2Proof.Machine.execCpinReg o s
  | .cpoutReg o => Sys2Proof.Machine.execCpoutReg o s
  | .cpaccReg o => Sys2Proof.Machine.execCpaccReg o s
  | .cpfillReg o => Sys2Proof.Machine.execCpfillReg o s
  | .chpostReg o => Sys2Proof.Machine.execChpostReg o s
  | .chsndReg o => Sys2Proof.Machine.execChsndReg o s
  | .chq o => Sys2Proof.Machine.execChq o s
  | .chqLatch o => Sys2Proof.Machine.execChqLatch o s
  | .plnew o => Sys2Proof.Machine.execPlnew o s
  | .pldel o => Sys2Proof.Machine.execPldel o s
  | .plprot o => Sys2Proof.Machine.execPlprot o s
  | .plq o => Sys2Proof.Machine.execPlq o s
  | .plpin o => Sys2Proof.Machine.execPlpin o s
  | .post o => Sys2Proof.Machine.execPost o s
  | .tend o => Sys2Proof.Machine.execTend o s
  | .targ o => Sys2Proof.Machine.execTarg o s
  | .cwtw o => Sys2Proof.Machine.execCwtw o s
  | .cwtr o => Sys2Proof.Machine.execCwtr o s
  | .ifence o => Sys2Proof.Machine.execIfence o s
  | .wld wslot wfc sslot srow cks expswz => Sys2Proof.Machine.execWld wslot wfc sslot srow cks expswz s
  | .act aslot afc acc fresh row0 nr srow0 ix scslot expswz => Sys2Proof.Machine.execAct aslot afc acc fresh row0 nr srow0 ix scslot expswz s
  | .drn src dkind dacc dslot dfc mode sat amax row0 nr ix => Sys2Proof.Machine.execDrn src dkind dacc dslot dfc mode sat amax row0 nr ix s
  | .cks write cacc crow racc rrow => Sys2Proof.Machine.execCks write cacc crow racc rrow s
  | .mlp count mreg => Sys2Proof.Machine.execMlp count mreg s
  | .mnd => Sys2Proof.Machine.execMnd s
  | .midx ireg op val mreg => Sys2Proof.Machine.execMidx ireg op val mreg s
  | .msel k src val => Sys2Proof.Machine.execMsel k src val s
  | .mnop => Sys2Proof.Machine.execMnop s
  | .routineStart core => Sys2Proof.Machine.execRoutineStart core s
  | .actRowLands core => Sys2Proof.Machine.execActRowLands core s
  | .mdepthExpiry core => Sys2Proof.Machine.execMdepthExpiry core s
  | .fixedResultLands cid => Sys2Proof.Machine.execFixedResultLands cid s
  | .loadDataReturn id remote => Sys2Proof.Machine.execLoadDataReturn id remote s
  | .jtabHeaderReturn id => Sys2Proof.Machine.execJtabHeaderReturn id s
  | .jtabEntryReturn id => Sys2Proof.Machine.execJtabEntryReturn id s
  | .sfuResult core => Sys2Proof.Machine.execSfuResult core s
  | .mstatSample id => Sys2Proof.Machine.execMstatSample id s
  | .hubCounterArrives id => Sys2Proof.Machine.execHubCounterArrives id s
  | .storePerformsGrp id => Sys2Proof.Machine.execStorePerformsGrp id s
  | .storePerformsPkg id => Sys2Proof.Machine.execStorePerformsPkg id s
  | .waitReread cid => Sys2Proof.Machine.execWaitReread cid s
  | .taskComplete cid => Sys2Proof.Machine.execTaskComplete cid s
  | .remoteDecrement node skip => Sys2Proof.Machine.execRemoteDecrement node skip s
  | .dispatch node place => Sys2Proof.Machine.execDispatch node place s
  | .egressSample => Sys2Proof.Machine.execEgressSample s
  | .preempt node => Sys2Proof.Machine.execPreempt node s
  | .contextSaved cid => Sys2Proof.Machine.execContextSaved cid s
  | .restoreComplete node cid hbmGood flashGood => Sys2Proof.Machine.execRestoreComplete node cid hbmGood flashGood s
  | .watchdogExpiry cid => Sys2Proof.Machine.execWatchdogExpiry cid s
  | .imageToFlash node => Sys2Proof.Machine.execImageToFlash node s
  | .imageFromFlash node => Sys2Proof.Machine.execImageFromFlash node s
  | .copyStart core => Sys2Proof.Machine.execCopyStart core s
  | .copyRow core => Sys2Proof.Machine.execCopyRow core s
  | .copyNodeFinish node => Sys2Proof.Machine.execCopyNodeFinish node s
  | .eventNodeSend node => Sys2Proof.Machine.execEventNodeSend node s
  | .cwtwComplete cid => Sys2Proof.Machine.execCwtwComplete cid s
  | .chsndDeliver core pos => Sys2Proof.Machine.execChsndDeliver core pos s
  | .postAccepted id => Sys2Proof.Machine.execPostAccepted id s
  | .pseWalkComplete cache asid page => Sys2Proof.Machine.execPseWalkComplete cache asid page s
  | .invalidateAck inv cache => Sys2Proof.Machine.execInvalidateAck inv cache s
  | .pageInComplete key readGood => Sys2Proof.Machine.execPageInComplete key readGood s
  | .pageOutComplete key => Sys2Proof.Machine.execPageOutComplete key s
  | .arrivalRecord sgid pkg vote counts => Sys2Proof.Machine.execArrivalRecord sgid pkg vote counts s
  | .stepDecision sgid rvote excluded skew => Sys2Proof.Machine.execStepDecision sgid rvote excluded skew s
  | .deferredWriteArrives w => Sys2Proof.Machine.execDeferredWriteArrives w s
  | .stepApply sgid => Sys2Proof.Machine.execStepApply sgid s
  | .applyReport sgid pkg overflow => Sys2Proof.Machine.execApplyReport sgid pkg overflow s
  | .stepCommit sgid overflow => Sys2Proof.Machine.execStepCommit sgid overflow s
  | .skewExpiry sgid => Sys2Proof.Machine.execSkewExpiry sgid s
  | .packageSealed sgid => Sys2Proof.Machine.execPackageSealed sgid s
  | .triggerMessage m => Sys2Proof.Machine.execTriggerMessage m s
  | .load h image => Sys2Proof.Machine.execLoad h image s
  | .unload h handle => Sys2Proof.Machine.execUnload h handle s
  | .region h r => Sys2Proof.Machine.execRegion h r s
  | .plane h region plane a => Sys2Proof.Machine.execPlane h region plane a s
  | .launch h handle record => Sys2Proof.Machine.execLaunch h handle record s
  | .arm h t handle record => Sys2Proof.Machine.execArm h t handle record s
  | .disarm h index => Sys2Proof.Machine.execDisarm h index s
  | .treset h => Sys2Proof.Machine.execTreset h s
  | .hconf h c => Sys2Proof.Machine.execHconf h c s
  | .query h k => Sys2Proof.Machine.execQuery h k s
  | .attest h challenge => Sys2Proof.Machine.execAttest h challenge s
  | .errbankW1c unit mask => Sys2Proof.Machine.execErrbankW1c unit mask s
  | .powerUp b => Sys2Proof.Machine.execPowerUp b s
  | .powerLoss => Sys2Proof.Machine.execPowerLoss s
  | .recoveryImageWrite item copyB image => Sys2Proof.Machine.execRecoveryImageWrite item copyB image s
  | .identityRederive puf => Sys2Proof.Machine.execIdentityRederive puf s
  | .cooldownRequest levelOk => Sys2Proof.Machine.execCooldownRequest levelOk s
  | .warmupRequest => Sys2Proof.Machine.execWarmupRequest s
  | .sensorSample readings => Sys2Proof.Machine.execSensorSample readings s
  | .bandFall => Sys2Proof.Machine.execBandFall s
  | .clockPauseEnd => Sys2Proof.Machine.execClockPauseEnd s
  | .hbmTimingHoldEnd => Sys2Proof.Machine.execHbmTimingHoldEnd s
  | .refreshCommand stack => Sys2Proof.Machine.execRefreshCommand stack s
  | .patrolScrubRow stack row => Sys2Proof.Machine.execPatrolScrubRow stack row s
  | .rateJudge readings => Sys2Proof.Machine.execRateJudge readings s
  | .soakComplete => Sys2Proof.Machine.execSoakComplete s
  | .arraySelfTestDone failing => Sys2Proof.Machine.execArraySelfTestDone failing s
  | .parkingComplete => Sys2Proof.Machine.execParkingComplete s
  | .telemetryFrame pwr vbus level pres => Sys2Proof.Machine.execTelemetryFrame pwr vbus level pres s
  | .replayArm sgid winners exclusions => Sys2Proof.Machine.execReplayArm sgid winners exclusions s
  | .drainRow core => Sys2Proof.Machine.execDrainRow core s
  | .microOpComplete core => Sys2Proof.Machine.execMicroOpComplete core s
  | .pageOut key => Sys2Proof.Machine.execPageOut key s
  | .transientUpset u => Sys2Proof.Machine.execTransientUpset u s
  | .bootFlashUpdate item image => Sys2Proof.Machine.execBootFlashUpdate item image s
  | .repairMapRetest maps => Sys2Proof.Machine.execRepairMapRetest maps s
  | .asidGrant asid job loadKey planeQuota pinQuota debug => Sys2Proof.Machine.execAsidGrant asid job loadKey planeQuota pinQuota debug s
  | .asidFree asid => Sys2Proof.Machine.execAsidFree asid s

end Sys2Proof.Machine
end

