-- ==== Sys2Proof/Machine/Run.lean ====
section
/-! DEFINITION. Which context a core runs next (R44), when a blocked one is READY again (R43), what it presents: the next
unit of its stream; and how a program is placed for a first step. -/

namespace Sys2Proof.Machine

/-- What an agent presents: a finished step, or an instruction to execute in a state. -/
inductive Present where
  | done (s : State)
  | unit (i : Instr) (s : State)
deriving DecidableEq, Repr

/-! ### Blocked contexts (R43) -/

/-- What a bundle of a context was blocked on has passed. -/
def passed (s : State) (cid : Nat) (why : Reason) : Bool :=
  let c := ctxOf s cid
  let k := coreOf s (cid / 4)
  match why with
  | .scalar code => (readReg c code).full
  | .row cl r => (readRow c cl r).full || (tileOf c cl).owner != .thread
  | .tile t => tileOwner s cid t == .thread
  | .matrixQueue => !queueFull { s with cur := cid }
  | .copyQueue => decide (k.cqueue.length < Config.copyQueueDepth)
  | .latch h => !(latchReady c h).isEmpty
  | .stores scope => !storesShort s cid scope
  | .waiting => (match c.phase with | .waitFor .. => false | _ => true)
  | .rendezvous n gen => allMet { s with cur := cid } n gen
  | .slack => (match groupOfCtx s c with | some g => (kget c 0x18).toNat != g.stepno.toNat | none => true)
  | .shardFull queue => roomFor s queue 1
  | .isync => lstate c != 1
  | .cwtOps => c.cwtwOut + c.cwtrOut == 0
  | .chanDepth ch => decide ((fget k.chans ch {}).posted.length < eDepth (fget k.chans ch {}).entry)
  | .page key _ _ _ => !s.moves.any (fun m => m.key == key)
  | .loads => !(loadsOut { s with cur := cid })
  | .ended => false

/-- Everything that a context was blocked on has passed, or a deferred fault waits for delivery (R396; log 4); its bundle is then
presented again whole. -/
def mayReissue (s : State) (cid : Nat) (why : Reason) : Bool :=
  (!(ctxOf s cid).deferred.isEmpty && why != .ended) || (passed s cid why && (ctxOf s cid).alsoOn.all (passed s cid))

/-- A context whose waits have passed is READY. -/
def wakeContext (s : State) (cid : Nat) : State :=
  match (ctxOf s cid).status with
  | .blocked why => if mayReissue s cid why then setCtx s cid { ctxOf s cid with status := .ready } else s
  | _ => s

/-- The four contexts of a core. -/
def wakeCore (s : State) (core : Nat) : State := [0, 1, 2, 3].foldl (fun t c => wakeContext t (4 * core + c)) s

/-! ### The next unit (R44, R208) -/

/-- The context of a core that runs next: the running one, else the first READY after the last one (R44). -/
def pickContext (s : State) (core : Nat) : Option Nat :=
  let k := coreOf s core
  match k.running with
  | some c => some c
  | none =>
    ((List.range 4).map (fun i => (k.last + 1 + i) % 4)).find? (fun c => (ctxOf s (4 * core + c)).status == .ready)

/-- Make a context of a core the running one and the one that acts. -/
def runContext (s : State) (core ctx : Nat) : State :=
  let s1 := setCore { s with cur := 4 * core + ctx } core { coreOf s core with running := some ctx }
  setMe s1 { me s1 with status := .running }

/-- The results of a restored context land from the cycle in which its first unit is presented (R399). -/
def rebased (c : Ctx) (t : Nat) : Ctx :=
  if c.rebase then { c with flight := c.flight.map (fun f => { f with due := f.due + t }), rebase := false } else c

/-- A pending link that was not known becomes so where the rest of the delay region can now be followed (R224, R444). -/
def knowLink (s : State) (npc : Word) (c : Ctx) : Ctx :=
  match c.xfer with
  | some x =>
    if x.known then c
    else match afterDelay 4 s npc x.count with
      | some v => { c with xfer := some { x with value := v, known := true } }
      | none => c
  | none => c

/-- The unit that the acting context presents: due results land first (R208). A context that a `tend` has stopped goes on as at
`halt` (R269). -/
def presentNext (s : State) : Present :=
  let s1 := publishDepth (setMe s (landDue (rebased (me s) (now s)) (now s))) s.cur
  if (me s1).tended then .done (haltContext s1 0)
  else match fetchUnit s1 (me s1).pc with
  | .unit i next => .unit i (noteFetch (setMe s1 { knowLink s1 (me s1).pc (me s1) with npc := next }) (me s1).pc next)
  | .illegal => .done (illegalParcel s1)
  | .stop x => .done (stopUnit s1 x)

/-- A core issues nothing: its clock is held, its fetch waits for HBM, or it is a matrix core that is not enabled (R369, R425, R430,
R431). -/
def coreHeld (s : State) (core : Nat) : Bool :=
  s.cold.pause || s.cold.hbmHold || (!isService core && engineHeld s) || (isService core && !s.boot.service)

/-- A core issues; the results of its special-function unit that are due have filled their rows (R293). -/
def presentUnit (s : State) (core : Nat) : Present :=
  if coreHeld s core then .done s
  else
    let s1 := wakeCore (landSfu s core) core
    match pickContext s1 core with
    | none => .done s1
    | some c => presentNext (runContext s1 core c)

/-- A finished step of an engine. -/
def engineDone (s : State) (o : Out) : Present := match o with | .next t => .done t | _ => .done s

/-- The matrix engine of a core goes on: the next row of a drain, the completion of a micro-op or of the routine, else its
next micro-op, on behalf of the routine's context. -/
def presentUop (s : State) (core : Nat) : Present :=
  match (coreOf s core).run with
  | some r =>
    if r.busy && (match r.drain with | some d => decide (d.next ≤ d.last) | none => false) then engineDone s (execDrainRow core s)
    else if r.busy || routineEnd r.r ≤ r.pc then engineDone s (execMicroOpComplete core s)
    else .unit (uopAt (coreOf s core) r.pc) { s with cur := 4 * core }
  | none => .done s

/-- Cycles pass on a core in which nothing issues; none while its clock is held. -/
def idle (s : State) (core n : Nat) : State := if s.cold.pause then s else { advance { s with cur := 4 * core } n with cur := s.cur }

/-! ### What comes about by itself (log 2) -/

/-- The events of the memory system that may be due for a context. -/
def memoryMoves (s : State) : List Instr :=
  s.loads.map (fun l => match l.use with
    | .jtabHead .. => Instr.jtabHeaderReturn l.id
    | .jtabEntry .. => .jtabEntryReturn l.id
    | _ => .loadDataReturn l.id [])
  ++ s.wbuf.flatMap (fun p => if p.grp then [Instr.storePerformsPkg p.id] else [.storePerformsGrp p.id])
  ++ s.pends.map (fun p => match p.kind with
    | .mstat _ => Instr.mstatSample p.id
    | .hub _ => .hubCounterArrives p.id
    | .query _ => .hubCounterArrives p.id
    | .post .. => .postAccepted p.id
    | .planeOp i => .invalidateAck i .hub)
  ++ s.invals.flatMap (fun i => i.waiting.map (Instr.invalidateAck i.id))
  ++ s.moves.map (fun m => if m.inward then Instr.pageInComplete m.key true else .pageOutComplete m.key)

/-- The events of a core's engines. -/
def engineMoves (core : Nat) : List Instr :=
  [.actRowLands core, .mdepthExpiry core, .routineStart core, .copyStart core, .copyRow core
   , .cwtwComplete (4 * core), .cwtwComplete (4 * core + 1), .cwtwComplete (4 * core + 2), .cwtwComplete (4 * core + 3)
   , .chsndDeliver core 0, .chsndDeliver core 1, .sfuResult core]

/-- The events of the harbour. -/
def harbourMoves (s : State) : List Instr :=
  s.ctxs.map (fun (e : Nat × Ctx) => Instr.taskComplete e.1)
  ++ (s.nodes.filter (fun (e : Nat × Node) => e.2.state == .ready || e.2.state == .saved || e.2.state == .running)).flatMap (fun (e : Nat × Node) =>
    match e.2.kind with
    | .code .. =>
      (match e.2.state, fget? s.saved e.1 with
       | .saved, some sv => [Instr.dispatch e.1 sv.cid]
       | _, _ => (match (placesFor s e.1 e.2 []).bind (fun ps => ps.find? (fun p => p.1 == e.1)) with
         | some p => [Instr.dispatch e.1 p.2]
         | none => []))
    | .copy .. => (match (List.range Config.nMatrix).find? (copyFits s e.1 e.2) with | some p => [.dispatch e.1 p, .copyNodeFinish e.1] | none => [.copyNodeFinish e.1])
    | .event .. => [.eventNodeSend e.1]
    | .cond .. => [])

/-- The events of contexts and their saved images. -/
def taskMoves (s : State) : List Instr :=
  s.ctxs.flatMap (fun (e : Nat × Ctx) => match e.2.status with
    | .saved => [Instr.contextSaved e.1]
    | .blocked .waiting => [.waitReread e.1, .fixedResultLands e.1, .watchdogExpiry e.1]
    | .blocked _ => [.fixedResultLands e.1, .watchdogExpiry e.1]
    | .free => []
    | _ => [.watchdogExpiry e.1])
  ++ s.nodes.flatMap (fun (e : Nat × Node) => match e.2.state with
    | .ready => [Instr.preempt e.1]
    | .loading => [.restoreComplete e.1 e.2.place true true]
    | .saved => [.imageToFlash e.1, .imageFromFlash e.1]
    | _ => [])

/-- The events of step groups. -/
def stepMoves (s : State) : List Instr :=
  s.groups.flatMap (fun (e : Nat × StepGroup) =>
    [Instr.stepApply e.1, .skewExpiry e.1] ++ (if e.2.closing then [.packageSealed e.1] else []))

/-- What may come about by itself when nothing is on the agenda, in the order in which it is tried: the acting core issues,
its engine, its engines' events, the memory system, tasks, the harbour, step groups. -/
def naturalMoves (s : State) : List Input :=
  let core := s.cur / 4
  [Input.turn core, .engine core]
    ++ (engineMoves core ++ memoryMoves s ++ harbourMoves s ++ taskMoves s ++ stepMoves s).map Input.event

/-! ### Placing a program for a first step -/

/-- The 12 bytes of the longest unit that a number holds, zeros behind it. -/
def unitBytes (nbits w : Nat) : List Byte := leBytes 12 (w % 2 ^ nbits)

/-- A code region of ASID 1 with a unit at its start, and context 0 of core 0 running there: what LOAD, LAUNCH and DISPATCH
do for a program, for one unit (log 64). -/
def placeUnit (s : State) (nbits w : Nat) : State :=
  let (s1, r) := placeReadOnly s 1 131072 0 true (unitBytes nbits w)
  let c := { kset (ctxOf s1 0) 0x12 1 with status := .running, pc := BitVec.ofNat 64 r.lo, npc := BitVec.ofNat 64 r.lo, imm := none, xfer := none }
  let s2 := setCore (setCtx s1 0 c) 0 { coreOf s1 0 with running := some 0 }
  { s2 with
    agenda := [.turn 0]
    cold := { s2.cold with state := (if 4 ≤ s2.cold.state ∧ s2.cold.state ≤ 7 then s2.cold.state else 5), pause := false, hbmHold := false } }

end Sys2Proof.Machine
end

