-- ==== Sys2Proof/Machine/Auto.lean ====
section
/-! DEFINITION. One input of the module, and what comes about when the agenda is empty (log 1, log 2). -/

namespace Sys2Proof.Machine

/-- What is presented runs. -/
def runPresent (p : Present) : Host.Outcome State Fault Refusal :=
  match p with
  | .done s => .next s
  | .unit i s => exec i s

/-- One input. -/
def runInput (x : Input) (s : State) : Host.Outcome State Fault Refusal :=
  match x with
  | .event i => exec i s
  | .turn core => if core < Config.nCores then runPresent (presentUnit s core) else .fault (.noSuchCore core)
  | .engine core => if core < Config.nCores then runPresent (presentUop s core) else .fault (.noSuchCore core)
  | .clock ns => .next { s with gts := s.gts + ns }
  | .podChange pkg inv c => .next (podChange s pkg inv c)
  | .podCommit pkg inv ok => .next (podCommit s pkg inv ok)
  | .serviceInval c => .next (serviceInval s c)
  | .retry r => execRetry r s
  | .podLaunch p => .next (podLaunch s p)
  | .podBody home num skip => .next (podBody s home num skip)
  | .podReport num r => .next (podReport s num r)
  | .podStepOver sgid pkg ended => .next (podStepOver s sgid pkg ended)
  | .podStoreFailed source sgid t => .next (noteStoreFailed s source sgid t)
  | .depart => .next { s with outbox := s.outbox.drop 1 }
  | .cycles core n => if core < Config.nCores then .next (idle s core n) else .fault (.noSuchCore core)

/-- The input changes the state. -/
def moves (s : State) (x : Input) : Bool :=
  match runInput x s with
  | .next t => t != s
  | _ => true

/-- The input that comes about when the agenda is empty: the first natural move that changes the state, else a cycle on the
acting core. -/
def autoInput (s : State) : Input :=
  match (naturalMoves s).find? (moves s) with
  | some x => x
  | none => .cycles (s.cur / 4) 1

end Sys2Proof.Machine
end

