-- ==== Sys2Proof/Machine/Step.lean ====
section
/-! DEFINITION. One step of the module. -/

namespace Sys2Proof.Machine

/-- One step: the oldest input of the agenda, else what comes about by itself. -/
def step (s : State) : Host.Outcome State Fault Refusal :=
  match s.agenda with
  | x :: rest => runInput x { s with agenda := rest }
  | [] => runInput (autoInput s) s

/-- The state with a unit of the parcel stream where the next step fetches it. -/
def State.withFetchWord (s : State) (nbits w : Nat) : State := placeUnit s nbits w

end Sys2Proof.Machine
end

