-- ==== Sys2Proof/Safety.lean ====
section
/-! DEFINITION. The vocabulary of claims: when an operation issues undisturbed, what it means for an operand to be ready, what
a result in flight is, what a frame is, and the invariants of the machine. -/

namespace Sys2Proof.Machine

/-! ### Steps -/

/-- A step that goes on. -/
def Goes (s : State) : Prop := ∃ t, step s = .next t

/-- An instruction answers a next state with a property. -/
def Answers (i : Instr) (s : State) (P : State → Prop) : Prop := ∃ t, exec i s = .next t ∧ P t

/-! ### Issuing undisturbed -/

/-- Nothing waits to be taken before the acting context's next unit, no segment is open, no transfer is pending, no step trap
is due. -/
structure Quiet (s : State) : Prop where
  deferred : (me s).deferred = []
  seg : (me s).seg = none
  xfer : (me s).xfer = none
  step : stepTrapDue (me s) = false

/-- The operation is live in a bundle without a tree (leaf L0), in one of the slots that may hold it, on a matrix core or in
a slot that a service core has (R184, R202). -/
def Placed (s : State) (o : Fields) (allowed : List SlotId) : Prop :=
  o.lmask.getLsbD 0 = true ∧ slotOk s o allowed = true

/-- A scalar operand is full and holds a value with its right residue; 0x68 is the immediate latch (R194, R238). -/
def Holds (s : State) (code : Nat) (v : Word) : Prop :=
  (code < 0x68 ∧ (readReg (me s) code).full = true ∧ (readReg (me s) code).val = v
    ∧ carried code (readReg (me s) code) = rho v)
  ∨ (code = 0x68 ∧ ((me s).imm).getD 0 = v)

/-- Source B of an entry with forms R and I: the short field, or a scalar operand (R193). -/
def HoldsB (s : State) (o : Fields) (v : Word) : Prop :=
  if o.twin then o.short.signExtend 64 = v else Holds s o.srcb.toNat v

/-- A scalar destination that no outstanding producer will still fill (R194, R344). -/
def FreeScalar (s : State) (code : Nat) : Prop := code < 0x68 ∧ destWaits s (.scalar code) = []

/-- A row of a cluster that is full, in a tile that the thread holds (R20, R23). -/
def HoldsRow (s : State) (cl : Cluster) (r : Nat) (v : Row) : Prop :=
  tileTaken s cl = false ∧ readRow (me s) cl r = { bits := v, full := true }

/-- A row that may be written: its tile is the thread's, and no outstanding producer will still fill it (R279). -/
def FreeRow (s : State) (cl : Cluster) (r : Nat) : Prop := destWaits s (.row cl r) = []

/-- An entry of the scalar slots with operands A and B and one scalar destination issues undisturbed. -/
structure TwoScalars (s : State) (o : Fields) (a b : Word) : Prop where
  quiet : Quiet s
  placed : Placed s o [.sx, .sy]
  free : FreeScalar s o.dst.toNat
  srcA : Holds s o.srca.toNat a
  srcB : HoldsB s o b

/-- The same with operand A alone. -/
structure OneScalar (s : State) (o : Fields) (a : Word) : Prop where
  quiet : Quiet s
  placed : Placed s o [.sx, .sy]
  free : FreeScalar s o.dst.toNat
  srcA : Holds s o.srca.toNat a

/-- An entry of the vector slots with row A and one destination row issues undisturbed. -/
structure OneRow (s : State) (o : Fields) (a : Row) : Prop where
  quiet : Quiet s
  placed : Placed s o [.vx, .vy]
  free : FreeRow s (vecCluster o) o.dst.toNat
  srcA : HoldsRow s (vecCluster o) o.srca.toNat a

/-- The same with rows A and B. -/
structure TwoRows (s : State) (o : Fields) (a b : Row) : Prop extends OneRow s o a where
  srcB : HoldsRow s (vecCluster o) o.srcb.toNat b

/-- The base and the displacement of a memory entry hold values, and this is their sum (R197, R241). -/
def HoldsAddr (s : State) (o : Fields) (va : Word) : Prop :=
  ∃ code a d, baseCode o = some code ∧ Holds s code a ∧ HoldsB s o d ∧ va = a + d

/-- A tile slot of the acting context's task that no engine owns (R20, R243). -/
def OwnSlot (s : State) (k : Nat) : Prop :=
  allocatedTo (coreOf s (myCore s)) (s.cur % 4) k = true ∧ slotOwner (coreOf s (myCore s)) k = .thread

/-- No engine uses the scratchpad banks in the cycle in which the acting context issues (R127). -/
def BanksFree (s : State) (bs : List Nat) : Prop := ∀ b ∈ bs, bankTaken (coreOf s (myCore s)) (now s) b = false

/-- The atomics with the numbers of their operations. -/
def atomicOps : List (Nat × (Fields → Instr)) :=
  [(0, .atomAdd), (1, .atomAnd), (2, .atomOr), (3, .atomXor), (4, .atomMin), (5, .atomMax), (6, .atomMinu), (7, .atomMaxu)
   , (8, .atomSwap), (9, .atomCas)]

/-- A request reaches the service: by a message in ROD mode, or in its mailbox, with those parts of its body whose bytes the spec
gives and with the doorbell rung (R373, R377). -/
def Arrives (s : State) (h : ReqHead) (op : Nat) (known : List (Nat × List Byte)) : Prop :=
  (h.box = none → h.mode = .rod) ∧ inMailbox s h op known = true

/-! ### What follows -/

/-- The unit has issued in one cycle and the program goes on behind it. -/
def goOn (s : State) : State := moveOn s 1

/-- The operation issues, and its one result is in flight, to land `lat` cycles after its issue (R208). -/
def Sends (i : Instr) (s : State) (lat : Nat) (d : Dest) (v : Payload) : Prop :=
  exec i s = .next (goOn (sendResult s { due := now s + lat, dest := d, val := v }))

/-- The operation issues, and its results are in flight, in this order. -/
def SendsAll (i : Instr) (s : State) (fs : List InFlight) : Prop := exec i s = .next (goOn (fs.foldl sendResult s))

/-- The same for an operation that takes n DRAW values (R168). -/
def SendsDrawing (i : Instr) (s : State) (n : Nat) (fs : List InFlight) : Prop :=
  exec i s = .next (goOn (advanceDraw n (fs.foldl sendResult s)))

/-- The QSTAT changes that land with the result of a q entry: a lineage overlap, a clamped code among the n lanes worked
(R96, R97, R302). -/
def qNotes (s : State) (lat n : Nat) (qs : List QReg) (overlap : Bool) : List InFlight :=
  let flags := (if overlap then 1 else 0) + (if qs.any (qClamps n) then 4 else 0)
  if flags = 0 then []
  else [{ due := now s + lat, dest := .kspace 0x0A, val := .qstat (BitVec.ofNat 64 flags) (if overlap then 1 else 0) }]

/-- A word as a scalar result, with its residue (R238). -/
def wordOf (v : Word) : Payload := .word v (rho v)

/-- The matrix engine of the acting context's core may start the next micro-op of a routine (R49, R324). -/
structure Working (s : State) (r : Run) : Prop where
  run : runOf s (myCore s) = some r
  idle : r.busy = false
  unpaused : s.cold.pause = false
  enabled : engineHeld s = false
  depth : depthOut s r = false

/-- A micro-op leaves its routine as given; accumulator tiles after their last touch return to the thread (R313). -/
def Runs (i : Instr) (s : State) (r : Run) : Prop := exec i s = .next (returnAccs (setRun s (myCore s) r) (myCore s))

/-- A scalar register after a value has arrived in it: full, with the value's residue; s0 and b0 read 0, a c register keeps
bit 0 (R194, R242). -/
def filled (code : Nat) (v : Word) : Reg :=
  if hardZero code then {} else { val := if 0x58 ≤ code then v &&& 1 else v, res := rho v, full := true }

/-- A context of the module, not the image of one (R403). -/
def OfModule (cid : Nat) : Prop := cid < 4 * Config.nCores

/-- Everything of a state but one context's record and its core's. -/
structure SameElsewhere (s t : State) : Prop where
  cur : t.cur = s.cur
  mem : t.mem = s.mem
  sectors : t.sectors = s.sectors
  wbuf : t.wbuf = s.wbuf
  loads : t.loads = s.loads
  pends : t.pends = s.pends
  ctxs : ∀ n, n ≠ s.cur → ctxOf t n = ctxOf s n
  cores : ∀ n, n ≠ myCore s → coreOf t n = coreOf s n

/-! ### What the encodings hold, and what only a register receives -/

/-- The instruction has words: it is a unit of the stream, an operation of a slot, or a micro-op. -/
def hasWords (i : Instr) : Bool :=
  i.fields?.isSome || match i with
  | .issue _ _ _ | .lbeg _ | .lend _ | .halt | .nops _ | .isync | .bswap _ | .wld _ _ _ _ _ _ | .act _ _ _ _ _ _ _ _ _ _
  | .drn _ _ _ _ _ _ _ _ _ _ _ | .cks _ _ _ _ _ | .mlp _ _ | .mnd | .midx _ _ _ _ | .msel _ _ _ | .mnop => true
  | _ => false

/-- The operations of the slots whose whole effect is results in flight to registers. -/
def registerOnly (i : Instr) : Bool :=
  match i with
  | .nop _ | .add _ | .sub _ | .mul _ | .mulh _ | .mulhu _ | .div _ | .divu _ | .rem _ | .remu _ | .and _ | .or _ |
    .xor _ | .shl _ | .shr _ | .sra _ | .rol _ | .ror _ | .min _ | .max _ | .minu _ | .maxu _ | .clz _ | .ctz _ |
    .popc _ | .cmp _ | .sel _ | .ldi _ | .sext _ | .zext _ | .aplane _ | .xput _ | .yput _ | .xget _ | .yget _ |
    .bset _ | .lset _ | .lstr _ | .cmpt _ | .cmptP _ | .cmptV _ | .mtk _ | .mtkQsoft _ | .mtkQstat _ | .mtkRmode _ |
    .mtkDbgctl _ | .vote _ | .vadd _ | .vsub _ | .vmul _ | .vfma _ | .vfms _ | .vfnma _ | .vfnms _ | .vmin _ | .vmax _ |
    .vabs _ | .vneg _ | .vcopysign _ | .vand _ | .vor _ | .vxor _ | .vshl _ | .vshr _ | .vsra _ | .vsel _ | .vcmp _ |
    .pand _ | .por _ | .pxor _ | .pnot _ | .pany _ | .pall _ | .vrsum _ | .vrmax _ | .vrmin _ | .vperm _ | .vrot _ |
    .vrotI _ | .vrotL _ | .vbcast _ | .vbcastI _ | .vbcastL _ | .vxfer _ | .vtype _ | .qand _ | .qor _ | .qnot _ |
    .qfromp _ | .qconst _ | .qconstL _ | .qlin _ | .qmov _ | .qmovCross _ | .qmovFromRow _ | .qmovToRow _ | .qcol _ |
    .qgcmp _ | .qgblend _ | .mset _ | .msetL _ | .targ _ | .vcvt _ _ | .vcvtSat _ _ | .vmxq _ _ | .vmxd _ _ |
    .qcmp _ _ | .vblendQ _ _ => true
  | _ => false

/-- A unit of the stream, or an operation of a slot. -/
def ofStream (i : Instr) : Bool :=
  (planOf i).isSome || match i with
  | .issue _ _ _ | .lbeg _ | .lend _ | .halt | .nops _ | .isync | .bswap _ => true
  | _ => false

/-- What a unit leaves as it was when its only effect is results in flight, or a trap: every byte of HBM and of the
scratchpads, every other context, every register but the link register of a transfer that is pending, every k-space register but
DRAW and the trap registers; but where the q-dependence trap is taken, the q register it names and QSTAT have been written
(R302). -/
structure RegistersStay (s t : State) (landed : Option (Cluster × Nat)) : Prop where
  cur : t.cur = s.cur
  mem : ∀ a, memByte t.mem a = memByte s.mem a
  spad : ∀ core row, spadRow (coreOf t core) row = spadRow (coreOf s core) row
  ctxs : ∀ n, n ≠ s.cur → ctxOf t n = ctxOf s n
  regs : ∀ code, (∀ x l, (me s).xfer = some x → x.link = some l → code ≠ 0x50 + l) → readReg (me t) code = readReg (me s) code
  rows : ∀ cl r, readRow (me t) cl r = readRow (me s) cl r
  preds : ∀ cl n, readPred (me t) cl n = readPred (me s) cl n
  qregs : ∀ cl n, landed ≠ some (cl, n) → readQ (me t) cl n = readQ (me s) cl n
  mregs : ∀ k, readM (me t) k = readM (me s) k
  kspace : ∀ i, i ≠ 0x05 → (i < 0xC0 ∨ 0xC7 < i) → (i = 0x0A → landed = none) → kget (me t) i = kget (me s) i

/-- The q register that the q-dependence trap of an operation may leave written: QMODE.DEPTRAP is 1 (R100, R302). -/
def landsAtTrap (s : State) (i : Instr) : Option (Cluster × Nat) :=
  if (kget (me s) 0x09).getLsbD 1 then
    match i with
    | .qand o | .qor o => some (vecCluster o, o.dst.toNat)
    | _ => none
  else none

/-- The entries of the scalar slots with operands A and B and one scalar result. -/
def twoOperand : List (Fields → Instr) :=
  [.add, .sub, .mul, .mulh, .mulhu, .div, .divu, .rem, .remu, .and, .or, .xor, .shl, .shr, .sra, .rol, .ror, .min, .max, .minu, .maxu]

/-! ### Tables, step groups, triggers -/

/-- The entries that the walk of a position reads from a table on, the leaf last (R387, R388). -/
def tableEntries (s : State) (pos : Nat) (levels : List Nat) (table : Nat) : List Nat :=
  match levels with
  | [] => []
  | level :: rest =>
    let entry := table + 8 * tableIndex level pos
    let e := memNat s.mem entry 8
    entry :: (if e % 4 = 1 then tableEntries s pos rest (e / 256 * 256) else [])

/-- The entries that the walk of a position reads, the root entry first (R387). -/
def pageEntries (s : State) (asid pos : Nat) : List Nat :=
  let root := s.rootBase + 16 * asid
  root :: tableEntries s pos [1, 2, 3, 4, 5] (memNat s.mem root 8 / 8192 * 8192)

/-- n bytes at an address lie apart from m bytes at another one. -/
def Apart (a n b m : Nat) : Prop := a + n ≤ b ∨ b + m ≤ a

/-- A step group has moved on to its next step: STEPNO counts it, STEPSTAT says what became of it, the loss scale follows the overflow
vote (R135, R136, R145). Halving and doubling an fp32 power of two moves its exponent field by one. -/
structure StepMoved (s : State) (g h : StepGroup) (overflow : Bool) : Prop where
  stepno : h.stepno = g.stepno + 1
  rvote : h.stepstat.setWidth 32 = g.rvote
  disc : h.stepstat.getLsbD 32 = g.rvote.getLsbD 0
  ovfl : h.stepstat.getLsbD 33 = overflow
  excl : h.stepstat.getLsbD 34 = !g.excluded.isEmpty
  self : h.stepstat.getLsbD 35 = g.excluded.contains s.pkg
  skew : h.stepstat.getLsbD 36 = g.skewed
  rest : ∀ i, 37 ≤ i → h.stepstat.getLsbD i = false
  halves : g.rvote.getLsbD 0 = true → h.clean = 0
    ∧ (g.scale = g.lsmin → h.scale = g.scale ∧ h.skip = min (g.skip + 1) 0xFFFF_FFFF)
    ∧ (g.scale ≠ g.lsmin → h.scale = g.scale - 0x0080_0000 ∧ h.skip = g.skip)
  doubles : g.rvote.getLsbD 0 = false → h.skip = g.skip
    ∧ (g.scale = g.lsmax → h.scale = g.scale ∧ h.clean = min (g.clean + 1) g.lswin)
    ∧ (g.scale ≠ g.lsmax → g.clean + 1 = g.lswin → h.scale = g.scale + 0x0080_0000 ∧ h.clean = 0)
    ∧ (g.scale ≠ g.lsmax → g.clean + 1 ≠ g.lswin → h.scale = g.scale ∧ h.clean = g.clean + 1)

/-- The new value of one unit of n bytes from its deferred writes `us` in source order; `old` is what the last slack committed (R138,
R139). -/
def StepValue (d n old : Nat) (us : List UnitWrite) (v : Nat) : Prop :=
  let fc := rtypeFormat (dRtype d)
  let vs := us.map (fun u => leNat u.bytes)
  let sum := vs.foldl (fun a x => fp32 (xadd false (decodeNum 1 a) (decodeNum fc x))) (fp32 (decodeNum fc old))
  (dRule d = 1 → dRtype d = 1 → v = sum)
  ∧ (dRule d = 1 → dRtype d = 2 → v = roundEncode 2 0 0 false (decodeNum 1 sum))
  ∧ (dRule d = 1 → (dRtype d = 3 ∨ dRtype d = 4) → v = (old + vs.foldl (· + ·) 0) % 2 ^ (8 * n))
  ∧ (dRule d = 2 → v = encodeNum fc false (vs.foldl (fun a x => xmax a (decodeNum fc x)) (decodeNum fc old)))
  ∧ (dRule d = 3 → v = encodeNum fc false (vs.foldl (fun a x => xmin a (decodeNum fc x)) (decodeNum fc old)))
  ∧ (dRule d = 4 → v = vs.foldl Nat.lor old)
  ∧ (dRule d = 5 → ∀ u ∈ us, (∀ w ∈ us, w = u ∨ w.gts < u.gts ∨ (w.gts = u.gts
      ∧ (w.source < u.source ∨ (w.source = u.source ∧ w.order < u.order)))) → v = leNat u.bytes)
  ∧ (dRule d = 6 → ((∀ u ∈ us, ∀ w ∈ us, u.source = w.source) → v = vs.getLastD old)
      ∧ ((∃ u ∈ us, ∃ w ∈ us, u.source ≠ w.source) → v = old))

/-! ### Invariants -/

/-- HBM is in canonical form (log 13). -/
def MemoryCanonical (s : State) : Prop := Memory.wf s.mem

end Sys2Proof.Machine
end

