-- ==== Sys2Proof/Certificates/Slice0/Obligations.lean ====
section
/-! DEFINITION. The statements for the provers. -/

open Sys2Proof Sys2Proof.Machine

/-! ### Scalar entries (R210 to R218) -/

/-- R210, R211, R238: sums, differences and products, quotients and remainders of two operands land as given, with their
residues; the corners of a zero divisor and of the most negative dividend. -/
def Obligations.ScalarArithmetic : Prop :=
  (∀ (s : State) (o : Fields) (a b : Word), TwoScalars s o a b →
      Sends (.add o) s 1 (.scalar o.dst.toNat) (wordOf (a + b))
      ∧ Sends (.sub o) s 1 (.scalar o.dst.toNat) (wordOf (a - b))
      ∧ Sends (.mul o) s 3 (.scalar o.dst.toNat) (wordOf (a * b))
      ∧ Sends (.mulh o) s 3 (.scalar o.dst.toNat) (wordOf (BitVec.ofInt 64 (a.toInt * b.toInt / 2 ^ 64)))
      ∧ Sends (.mulhu o) s 3 (.scalar o.dst.toNat) (wordOf (BitVec.ofNat 64 (a.toNat * b.toNat / 2 ^ 64))))
  ∧ (∀ (s : State) (o : Fields) (a b : Word), TwoScalars s o a b →
      let lands (v : Word) : List InFlight :=
        [{ due := now s + 20, dest := .scalar o.dst.toNat, val := wordOf v, slot := slotNumber o.slot }]
      SendsAll (.div o) s (lands (if b = 0 then -1 else if a = BitVec.intMin 64 ∧ b = -1 then a else a.sdiv b))
      ∧ SendsAll (.divu o) s (lands (if b = 0 then -1 else a.udiv b))
      ∧ SendsAll (.rem o) s (lands (if b = 0 then a else if a = BitVec.intMin 64 ∧ b = -1 then 0 else a.srem b))
      ∧ SendsAll (.remu o) s (lands (if b = 0 then a else a.umod b)))

/-- R210: bitwise entries, shifts and rotations by B[5:0], lesser and greater; the counts of leading zeros, of trailing zeros
and of ones, of form N, so SRCB and BTB are 0. -/
def Obligations.ScalarLogic : Prop :=
  (∀ (s : State) (o : Fields) (a b : Word), TwoScalars s o a b →
      Sends (.and o) s 1 (.scalar o.dst.toNat) (wordOf (a &&& b))
      ∧ Sends (.or o) s 1 (.scalar o.dst.toNat) (wordOf (a ||| b))
      ∧ Sends (.xor o) s 1 (.scalar o.dst.toNat) (wordOf (a ^^^ b))
      ∧ Sends (.shl o) s 1 (.scalar o.dst.toNat) (wordOf (a <<< (b.toNat % 64)))
      ∧ Sends (.shr o) s 1 (.scalar o.dst.toNat) (wordOf (a >>> (b.toNat % 64)))
      ∧ Sends (.sra o) s 1 (.scalar o.dst.toNat) (wordOf (a.sshiftRight (b.toNat % 64)))
      ∧ Sends (.rol o) s 1 (.scalar o.dst.toNat) (wordOf (a.rotateLeft (b.toNat % 64)))
      ∧ Sends (.ror o) s 1 (.scalar o.dst.toNat) (wordOf (a.rotateRight (b.toNat % 64)))
      ∧ Sends (.min o) s 1 (.scalar o.dst.toNat) (wordOf (if b.slt a then b else a))
      ∧ Sends (.max o) s 1 (.scalar o.dst.toNat) (wordOf (if a.slt b then b else a))
      ∧ Sends (.minu o) s 1 (.scalar o.dst.toNat) (wordOf (if b.ult a then b else a))
      ∧ Sends (.maxu o) s 1 (.scalar o.dst.toNat) (wordOf (if a.ult b then b else a)))
  ∧ (∀ (s : State) (o : Fields) (a : Word), OneScalar s o a → noB o = true →
      (∀ n, n ≤ 64 → (∀ i, i < n → a.getMsbD i = false) → (n < 64 → a.getMsbD n = true) →
        Sends (.clz o) s 1 (.scalar o.dst.toNat) (wordOf (BitVec.ofNat 64 n)))
      ∧ (∀ n, n ≤ 64 → (∀ i, i < n → a.getLsbD i = false) → (n < 64 → a.getLsbD n = true) →
        Sends (.ctz o) s 1 (.scalar o.dst.toNat) (wordOf (BitVec.ofNat 64 n)))
      ∧ Sends (.popc o) s 1 (.scalar o.dst.toNat) (wordOf (BitVec.ofNat 64 ((List.range 64).filter a.getLsbD).length)))

/-- R212: a compare writes 1 or 0 into the c register DST[3:0]; the conditions 6 and 7 of DST[6:4] raise the illegal-operation
trap. -/
def Obligations.ScalarCompare : Prop :=
  ∀ (s : State) (o : Fields) (a b : Word), Quiet s → Placed s o [.sx, .sy] → FreeScalar s (0x58 + o.dst.toNat % 16) →
    Holds s o.srca.toNat a → HoldsB s o b →
    let c := Dest.scalar (0x58 + o.dst.toNat % 16)
    (o.dst.toNat / 16 = 0 → Sends (.cmp o) s 1 c (wordOf (if a = b then 1 else 0)))
    ∧ (o.dst.toNat / 16 = 1 → Sends (.cmp o) s 1 c (wordOf (if a ≠ b then 1 else 0)))
    ∧ (o.dst.toNat / 16 = 2 → Sends (.cmp o) s 1 c (wordOf (if a.toInt < b.toInt then 1 else 0)))
    ∧ (o.dst.toNat / 16 = 3 → Sends (.cmp o) s 1 c (wordOf (if a.toInt ≤ b.toInt then 1 else 0)))
    ∧ (o.dst.toNat / 16 = 4 → Sends (.cmp o) s 1 c (wordOf (if a.toNat < b.toNat then 1 else 0)))
    ∧ (o.dst.toNat / 16 = 5 → Sends (.cmp o) s 1 c (wordOf (if a.toNat ≤ b.toNat then 1 else 0)))
    ∧ (6 ≤ o.dst.toNat / 16 → exec (.cmp o) s = .next (trapHere s { cause := 3, slot := slotNumber o.slot }))

/-- R213 to R216: select, immediates, extension of the low n bits for n from 1 to 64, and the plane field of an address; a count of 0
or of 65 and more, and a plane beyond 15, raise the illegal-operation trap. -/
def Obligations.ScalarMoves : Prop :=
  (∀ (s : State) (o : Fields) (a b d : Word), TwoScalars s o a b → Holds s o.dst.toNat d →
    Sends (.sel o) s 1 (.scalar o.dst.toNat) (wordOf (if a ≠ 0 then b else d)))
  ∧ (∀ (s : State) (o : Fields) (b : Word), Quiet s → Placed s o [.sx, .sy] → noA o = true →
    FreeScalar s o.dst.toNat → HoldsB s o b → Sends (.ldi o) s 1 (.scalar o.dst.toNat) (wordOf b))
  ∧ (∀ (s : State) (o : Fields) (a : Word) (n : Nat), OneScalar s o a → 1 ≤ n → n ≤ 64 → o.short = BitVec.ofNat 8 n →
    Sends (.sext o) s 1 (.scalar o.dst.toNat) (wordOf ((a.extractLsb' 0 n).signExtend 64))
    ∧ Sends (.zext o) s 1 (.scalar o.dst.toNat) (wordOf ((a.extractLsb' 0 n).setWidth 64)))
  ∧ (∀ (s : State) (o : Fields) (a : Word) (p : BitVec 4), OneScalar s o a → o.short = p.setWidth 8 →
    Sends (.aplane o) s 1 (.scalar o.dst.toNat) (wordOf ((p ++ a.extractLsb' 0 60 : BitVec 64))))
  ∧ (∀ (s : State) (o : Fields) (a : Word), OneScalar s o a →
    let ill := Host.Outcome.next (trapHere s { cause := 3, slot := slotNumber o.slot })
    (o.short = 0 ∨ 65 ≤ o.short.toNat → exec (.sext o) s = ill ∧ exec (.zext o) s = ill)
    ∧ (16 ≤ o.short.toNat → exec (.aplane o) s = ill))

/-- R217, R218: one lane of a row from a scalar, and one lane into a scalar, extended by the sign for a signed
integer type. -/
def Obligations.LaneExchange : Prop :=
  ∀ (s : State) (o : Fields) (cl : Cluster) (a b : Word) (row : Row),
    Quiet s → Placed s o [.sx, .sy] → HoldsB s o b → b.toNat < 4096 / etWidth (me s) cl →
    (Holds s o.srca.toNat a → HoldsRow s cl o.dst.toNat row →
      Sends (if cl = .x then .xput o else .yput o) s 1 (.row cl o.dst.toNat) (.lane b.toNat (etWidth (me s) cl) a))
    ∧ (HoldsRow s cl o.srca.toNat row → FreeScalar s o.dst.toNat →
      Sends (if cl = .x then .xget o else .yget o) s 1 (.scalar o.dst.toNat)
        (wordOf (if isSignedInt (etOf (me s) cl) then (BitVec.ofNat (etWidth (me s) cl) (lane row (etWidth (me s) cl) b.toNat)).signExtend 64
          else BitVec.ofNat 64 (lane row (etWidth (me s) cl) b.toNat))))

/-! ### Targets, calls, loops, checks (R219 to R234) -/

/-- R219, R220: a branch target relative to the bundle from an immediate, absolute from a register; an odd target traps; a
jump table's register is empty until its header has been read. -/
def Obligations.BranchTargets : Prop :=
  (∀ (s : State) (o : Fields) (v : Word), Quiet s → Placed s o [.sx] → noA o = true → 0x50 ≤ o.dst.toNat →
    o.dst.toNat < 0x58 → FreeScalar s o.dst.toNat → HoldsB s o v →
    let t := if o.twin ∨ o.srcb.toNat = 0x68 then (me s).pc + v else v
    (t.getLsbD 0 = false → Sends (.bset o) s 1 (.scalar o.dst.toNat) (wordOf t))
    ∧ (t.getLsbD 0 = true → exec (.bset o) s = .next (trapHere s { cause := 3, slot := slotNumber o.slot })))
  ∧ (∀ (s : State) (o : Fields) (a b : Word) (acc : Access), Quiet s → Placed s o [.sx] → 0x50 < o.dst.toNat →
    o.dst.toNat < 0x58 → FreeScalar s o.dst.toNat → Holds s o.srca.toNat a → HoldsB s o b →
    translate s (threadReq s a 16 16 false) = .ok acc →
    exec (.jtab o) s = .next (goOn (issueLoad (setMe s (emptyReg (me s) o.dst.toNat)) a acc
      (.jtabHead (o.dst.toNat - 0x50) b a))))

/-- R224, R226: a call and a return leave a transfer pending for three delay cycles; a call's link is the address of the unit
after them, as far as the stream there can be followed when it issues (log 20). -/
def Obligations.CallAndReturn : Prop :=
  ∀ (s : State) (o : Fields) (a : Word), Quiet s → Placed s o [.sx] → noB o = true → 0x50 ≤ o.srca.toNat →
    o.srca.toNat < 0x58 → Holds s o.srca.toNat a → a ≠ 0 → a.getLsbD 0 = false → (me s).arch.loops = [] →
    (0x50 ≤ o.dst.toNat → o.dst.toNat < 0x58 → FreeScalar s o.dst.toNat → Answers (.call o) s (fun t =>
      ∃ v k, (me t).xfer = some { target := a, link := some (o.dst.toNat - 0x50), value := v, count := 3, known := k }
        ∧ (me t).pc = (me s).npc ∧ now t = now s + 1
        ∧ ∀ l, afterDelay 4 s (me s).npc 3 = some l → v = l ∧ k = true))
    ∧ (o.dst = 0 → Answers (.ret o) s (fun t =>
      ∃ v k, (me t).xfer = some { target := a, link := none, value := v, count := 3, known := k }
        ∧ (me t).pc = (me s).npc ∧ now t = now s + 1))

/-- R18, R175, R224, R225, R226: an empty run of n cycles moves the program on; inside a delay region it counts the pending
transfer down, and its last cycle moves fetch to the target and writes the link register, unless a later producer has yet to fill
it. R178, R179, R275: `isync` passes
once no load of the other bank is under way, `bswap` changes the banks and goes on at bk, `halt` ends the task once its stores
have passed their checks. Four points are this model's choice: a run too long for its delay region records the address of the run
in TADDR (log 28), a link register that a producer has taken over is not written while it is empty (log 96), the moment at which
`halt` stops its context (log 25), and the status that the context has from then on until TASK_COMPLETE (log 85). -/
def Obligations.ParcelUnits : Prop :=
  (∀ (s : State) (n : BitVec 10), stepTrapDue (me s) = false → (me s).deferred = [] →
      ((me s).xfer = none → Answers (.nops n) s (fun t =>
        (me t).pc = (me s).npc ∧ now t = now s + (n.toNat + 1) ∧ (me t).arch = (me s).arch))
      ∧ (∀ x, (me s).xfer = some x → n.toNat + 1 < x.count → Answers (.nops n) s (fun t =>
        (me t).pc = (me s).npc ∧ (me t).xfer = some { x with count := x.count - (n.toNat + 1) }))
      ∧ (∀ x, (me s).xfer = some x → n.toNat + 1 = x.count → (∀ f ∈ (me s).flight, f.dest ≠ .kspace 0xD0 ∧ f.dest ≠ .kspace 0xC0) →
        Answers (.nops n) s (fun t => (me t).pc = x.target ∧ (me t).xfer = none
          ∧ (∀ l, x.link = some l → 0 < l → l < 8 → (x.overtaken = false ∨ (readReg (me s) (0x50 + l)).full = true) →
            (readReg (me t) (0x50 + l)).val = if x.known then x.value else (me s).npc)
          ∧ ((me s).flight = [] → (∀ l, x.link = some l → x.overtaken = true ∧ (readReg (me s) (0x50 + l)).full = false) →
            (me t).arch.regs = (me s).arch.regs)))
      ∧ (∀ x, (me s).xfer = some x → x.count < n.toNat + 1 →
        exec (.nops n) s = .next (trapHere s { cause := 1, addr := (me s).pc })))
  ∧ ((∀ s : State, Quiet s →
      (lstate (me s) = 0 ∨ lstate (me s) = 2 → Answers .isync s (fun t => (me t).pc = (me s).npc ∧ (me t).arch = (me s).arch))
      ∧ (lstate (me s) = 1 → exec .isync s = .next (blockOn s .isync))
      ∧ (lstate (me s) = 3 → exec .isync s = .next (trapHere s { cause := 0x11 })))
    ∧ (∀ (s : State) (k : BitVec 3), Quiet s → lstate (me s) = 2 → (me s).arch.loops = [] →
      (readReg (me s) (0x50 + k.toNat)).full = true → Answers (.bswap k) s (fun t =>
        runBank (me t) = 1 - runBank (me s) ∧ lstate (me t) = 0
          ∧ (me t).pc = (if (readReg (me s) (0x50 + k.toNat)).val = 0 then (me s).npc else (readReg (me s) (0x50 + k.toNat)).val)))
    ∧ (∀ s : State, Quiet s → (∀ p ∈ s.wbuf, p.cid = s.cur → p.grp = true) → (me s).tagFail = none →
      Answers .halt s (fun t => (me t).status = .blocked .ended ∧ (∀ k, (me s).task = some k → (me t).task = some { k with ending := .ok })
        ∧ ∀ n, n ≠ s.cur → ctxOf t n = ctxOf s n)))

/-- R18, R227 to R229: the count of a level and its stride slots land after one cycle, a count at or above 2^32 traps; `lbeg` opens
a level with the count, or skips the body; `lend` adds the strides of its level, and goes back to the body or closes the level. -/
def Obligations.LoopLevels : Prop :=
  (∀ (s : State) (o : Fields) (v : Word), Quiet s → Placed s o [.sx, .sy] → noA o = true → 1 ≤ o.dst.toNat →
    o.dst.toNat ≤ 6 → HoldsB s o v → v.toNat < 2 ^ 32 → Answers (.lset o) s (fun t =>
      (me t).flight = (me s).flight ++ [{ due := now s + 1, dest := .loopCount o.dst.toNat, val := .word v 0 }]
        ∧ (me t).pc = (me s).npc ∧ now t = now s + 1 ∧ (me t).arch = (me s).arch))
  ∧ (∀ (s : State) (o : Fields) (v : Word), Quiet s → Placed s o [.sx, .sy] → noA o = true → 1 ≤ o.dst.toNat →
    o.dst.toNat ≤ 6 → HoldsB s o v → 2 ^ 32 ≤ v.toNat →
    exec (.lset o) s = .next (trapHere s { cause := 3, slot := slotNumber o.slot }))
  ∧ (∀ (s : State) (o : Fields) (v : Word), Quiet s → Placed s o [.sx, .sy] → o.bta = false → o.dst.toNat < 32 →
    1 ≤ o.dst.toNat % 8 → o.dst.toNat % 8 ≤ 6 → (o.srca = 0 ∨ 0x40 ≤ o.srca.toNat ∧ o.srca.toNat < 0x50) → HoldsB s o v →
    Sends (.lstr o) s 1 (.stride (o.dst.toNat % 8) (o.dst.toNat / 8))
      (.stride (if o.srca = 0 then none else some (o.srca.toNat, v))))
  ∧ (∀ (s : State) (k : BitVec 3), Quiet s → 1 ≤ k.toNat → k.toNat ≤ 6 →
    (∀ l ∈ (me s).arch.loops, l.level ≠ k.toNat) →
    (fget (me s).arch.lcount k.toNat 0 ≠ 0 → Answers (.lbeg k) s (fun t =>
      (me t).arch.loops = { level := k.toNat, count := (fget (me s).arch.lcount k.toNat 0).toNat, body := (me s).npc
                            first := true } :: (me s).arch.loops
        ∧ (me t).pc = (me s).npc))
    ∧ (∀ va, fget (me s).arch.lcount k.toNat 0 = 0 → afterLend (2 ^ 59) s k.toNat (me s).npc = .inl va →
      Answers (.lbeg k) s (fun t => (me t).arch.loops = (me s).arch.loops ∧ (me t).pc = va)))
  ∧ (∀ (s : State) (k : BitVec 3) (l : Loop) (rest : List Loop), Quiet s → (me s).arch.loops = l :: rest →
    l.level = k.toNat → (∀ e ∈ stridesOf (me s) k.toNat, (readReg (me s) e.1).full = true) →
    Answers (.lend k) s (fun t =>
      (me t).arch.regs = ((stridesOf (me s) k.toNat).foldl addStride (me s)).arch.regs
        ∧ (l.count ≤ 1 → (me t).arch.loops = rest ∧ (me t).pc = (me s).npc)
        ∧ (1 < l.count → (me t).arch.loops = { l with count := l.count - 1, first := false } :: rest ∧ (me t).pc = l.body)))

/-- R10, R82, R177, R203, R411: `issue` of an index outside the run bank is an illegal parcel, of a wrong entry a detected error;
else the control word's bundle is presented with the latch holding the unit's immediate, the correction of a single wrong bit
recorded. It completes: a bundle that passes every check of R203 and waits for nothing has the effects of its live operations, its
draws, its branch and its pops, and the program goes on in the next cycle; a bundle without tests that holds one operation, in any
slot, is that operation. What TADDR holds for an illegal parcel and for a wrong entry, the address of the parcel, is this model's
choice (log 28). -/
def Obligations.IssueRunsItsOperation : Prop :=
  ∀ (s : State) (pre : List (BitVec 14)) (index : BitVec 9) (imm : BitVec 5),
    let k := index.toNat
    let w := hcwAt (me s) k
    let h := headerOf w
    let noted := noteEntry s s.cur k
    let start := setMe noted { me noted with imm := some (immOf pre imm) }
    (k / 256 ≠ runBank (me s) → exec (.issue pre index imm) s = .next (illegalParcel s))
    ∧ (k / 256 = runBank (me s) → entryBad (me s) k = true → exec (.issue pre index imm) s
      = .next (detected s 9 0 k { cause := 0x15, addr := (me s).pc }))
    ∧ (k / 256 = runBank (me s) → entryBad (me s) k = false →
      exec (.issue pre index imm) s = .next (issueBundle h (slotOps w) start)
      ∧ (∀ leaf, Quiet s → h.seg = false → bundleIllegal h (slotOps w) (me start) = false → leafOf (me start) h = .inl leaf →
        let target := targetOf h leaf (me start)
        let live := livePlans h (slotOps w) leaf start
        live.any (fun p => postRfe p.2) = false → branchIllegal (target != 0) live (me start) = false → doubleWrite [] live = none →
        (∀ p ∈ live, p.2.illegal = none ∧ p.2.emptyTrap = false ∧ p.2.errs = [] ∧ p.2.fire = none ∧ p.2.gate start = none
          ∧ p.2.stop = none ∧ p.2.spadBad = none ∧ p.2.await start = none ∧ p.2.post = .none ∧ p.2.qdep = false) →
        bundleBlocks h leaf live (me start) = [] → ((me s).tagFail = none ∨ ∀ p ∈ live, p.2.takesTag = false) →
        losesBank live start = false →
        let popped := (popList h).foldl popLatch (advanceDraw (drawCount h (slotOps w) live) (runEffects live start))
        let t := goOn (takeBranch (target != 0) target popped)
        stepTrapDue (me t) = false → exec (.issue pre index imm) s = .next t)
      ∧ (∀ slot i, (∀ x ∈ (me s).cwtOne, x / 4 ≠ k) → h.shape = 14 → h.pop = 0 → h.seg = false → h.dup = false →
        (∀ sl, sl ≠ slot → slotOpcode (slotOf w sl) = 0) → decodeSlot slot (slotOf w slot) = some i →
        exec (.issue pre index imm) s = exec i (setMe s { me s with imm := some (immOf pre imm) })))

/-- R231, R232: a check whose condition fails passes; one whose condition holds fires with its code, outside a segment as the
check trap. -/
def Obligations.Checks : Prop :=
  ∀ (s : State) (o : Fields), Quiet s → Placed s o [.sx, .sy] →
    let fires := trapHere s { cause := 0x0C, code := o.dst.toNat % 16, slot := slotNumber o.slot }
    (∀ a b : Word, Holds s o.srca.toNat a → HoldsB s o b → o.dst.toNat / 16 < 6 →
      exec (.cmpt o) s = .next (if condHolds (o.dst.toNat / 16) a b then fires else goOn s))
    ∧ (o.srca.toNat < 16 → o.srcb.toNat < 16 → exec (.cmptP o) s = .next
        (if readPred (me s) .x o.srca.toNat ≠ readPred (me s) .y o.srcb.toNat then fires else goOn s))
    ∧ (∀ x y : Row, HoldsRow s .x o.srca.toNat x → HoldsRow s .y o.srcb.toNat y →
      exec (.cmptV o) s = .next (if x ≠ y then fires else goOn s))

/-- R233, R234, R398: the software trap and the breakpoint are taken behind their bundle with their code; `rfe` goes on at
TPC, out of handler mode, with the frozen results in flight again. That a restored link is not written to a register which a producer
of the handler has yet to fill is this model's choice (log 96). -/
def Obligations.TrapsAndReturn : Prop :=
  (∀ (s : State) (o : Fields), Quiet s → Placed s o [.sx, .sy] → noA o = true → o.dst = 0 →
    exec (.trap o) s = .next (takeTrap (goOn s) { cause := 0x0D, code := o.short.toNat, slot := slotNumber o.slot } (me s).npc)
    ∧ exec (.brk o) s = .next (takeTrap (goOn s) { cause := 0x0E, code := o.short.toNat, slot := slotNumber o.slot } (me s).npc))
  ∧ (∀ (s : State) (o : Fields), Quiet s → Placed s o [.sx] → noA o = true → noB o = true → o.dst = 0 →
    inHandler (me s) = true → (me s).flight = [] → Answers (.rfe o) s (fun t =>
      (me t).pc = kget (me s) 0xC1 ∧ inHandler (me t) = false ∧ (me t).arch.loops = (me s).shelf
        ∧ (me t).xfer = restoredXfer s ∧ (me t).frozen = []
        ∧ (me t).flight = (me s).frozen.map (ofFrozen (now s + 1))
        ∧ ∀ i, i ≠ 0xC0 → kget (me t) i = kget (me s) i))

/-! ### The k-space (R235 to R237, R397) -/

/-- R95, R96, R159, R237, R397: a write lands after one cycle with the bits its register keeps. That a refused QSOFT value lands
with its QSTAT bit is this model's choice (log 34), and so is which context counts as the Heresh service, which alone writes MDEPTH
(log 35). -/
def Obligations.KWrites : Prop :=
  ∀ (s : State) (o : Fields) (a : Word), Quiet s → Placed s o [.sx, .sy] → o.dst = 0 → Holds s o.srca.toNat a →
    (o.short ∈ [0x04#8, 0xC8#8, 0xC9#8, 0xCA#8, 0xCB#8] →
      Sends (.mtk o) s 1 (.kspace o.short.toNat) (.word a 0))
    ∧ (o.short ∈ [0x05#8, 0x06#8] → Sends (.mtk o) s 1 (.kspace o.short.toNat) (.word (a &&& 0xFFFF_FFFF) 0))
    ∧ (o.short = 0x07 → Sends (.mtk o) s 1 (.kspace 0x07) (.word (a &&& 0x1F_FFFF_FFFF_FFFF) 0))
    ∧ (o.short = 0x09 → Sends (.mtk o) s 1 (.kspace 0x09) (.word (a &&& 0x3) 0))
    ∧ (o.short ∈ [0x02#8, 0x03#8] → clusterType (a.toNat % 256) = true →
      Sends (.mtk o) s 1 (.kspace o.short.toNat) (.word (a &&& 0xFF) 0))
    ∧ (o.short ∈ [0x02#8, 0x03#8] → clusterType (a.toNat % 256) = false →
      exec (.mtk o) s = .next (trapHere s { cause := 3, slot := slotNumber o.slot }))
    ∧ (o.short = 0x1A → (mySgid s).isSome = true → Sends (.mtk o) s 1 (.kspace 0x1A) (.word (a &&& 0xFFFF_FFFF) 0))
    ∧ (o.short ∈ [0xC1#8, 0xC4#8, 0xC5#8] → inHandler (me s) = true →
      Sends (.mtk o) s 1 (.kspace o.short.toNat) (.word a 0))
    ∧ (o.short = 0xC6 → inHandler (me s) = true → Sends (.mtk o) s 1 (.kspace 0xC6)
      (.word (if a &&& 3 = 0 then (a &&& 0x3F) ||| 1 else a &&& 0x3F) 0))
    ∧ (o.short = 0xD1 → inDebug (me s) = true → Sends (.mtk o) s 1 (.kspace 0xD1) (.word a 0))
    ∧ (inDebug (me s) = true → Sends (.mtkDbgctl o) s 1 (.kspace 0xD0) (.word ((kget (me s) 0xD0 &&& 1) ||| (a &&& 2)) 0))
    ∧ Sends (.mtkQstat o) s 1 (.kspace 0x0A) (.word a 0)
    ∧ Sends (.mtkRmode o) s 1 (.kspace 0x01) (.word (if 5 ≤ a.toNat % 8 then a &&& 8 else a &&& 0xF) 0)
    ∧ (badTemperature (a.toNat % 2 ^ 32) = false → Sends (.mtkQsoft o) s 1 (.kspace 0x08) (.word (a &&& 0xFFFF_FFFF) 0))
    ∧ (badTemperature (a.toNat % 2 ^ 32) = true → SendsAll (.mtkQsoft o) s
      [{ due := now s + 1, dest := .kspace 0x08, val := .word 0 0 }, { due := now s + 1, dest := .kspace 0x0A, val := .qstat 2 0 }])
    ∧ (isService (myCore s) = true → (me s).task = none →
      Sends (.mtkMdepth o) s 1 (.kspace 0x30) (.word (BitVec.ofNat 64 (min (max a.toNat 1300) (2 ^ 24 - 1))) 0))

/-- R235, R237, R397: the registers of a trap handler, of debug mode, of the Heresh service (this model's choice of it: log 35) and
of a stepped launch cannot be written elsewhere; a read-only or reserved index cannot be written at all. R235 to R237, R344: a
register of the core is read with a latency of two cycles; a hub counter leaves its destination empty and a read outstanding for it. -/
def Obligations.KReadsAndPrivilege : Prop :=
  (∀ (s : State) (o : Fields) (a : Word), Quiet s → Placed s o [.sx, .sy] → o.dst = 0 → Holds s o.srca.toNat a →
      let ill := Host.Outcome.next (trapHere s { cause := 3, slot := slotNumber o.slot })
      (o.short ∈ [0xC1#8, 0xC4#8, 0xC5#8, 0xC6#8] → inHandler (me s) = false → exec (.mtk o) s = ill)
      ∧ (o.short = 0xD1 → inDebug (me s) = false → exec (.mtk o) s = ill)
      ∧ (inDebug (me s) = false → exec (.mtkDbgctl o) s = ill)
      ∧ ((isService (myCore s) = false ∨ (me s).task.isSome) → exec (.mtkMdepth o) s = ill)
      ∧ (o.short = 0x1A → mySgid s = none → exec (.mtk o) s = ill)
      ∧ (o.short ∉ [0x01#8, 0x02#8, 0x03#8, 0x04#8, 0x05#8, 0x06#8, 0x07#8, 0x08#8, 0x09#8, 0x0A#8, 0x1A#8, 0x30#8, 0xC1#8, 0xC4#8,
          0xC5#8, 0xC6#8, 0xC8#8, 0xC9#8, 0xCA#8, 0xCB#8, 0xD0#8, 0xD1#8] → exec (.mtk o) s = ill))
  ∧ (∀ (s : State) (o : Fields), Quiet s → Placed s o [.sx, .sy] → noA o = true → FreeScalar s o.dst.toNat →
      kIndex o.short.toNat = true →
      (hubIndex o.short.toNat = false → Sends (.mfk o) s 2 (.scalar o.dst.toNat) (wordOf (kread s o.short.toNat)))
      ∧ (hubIndex o.short.toNat = true → Answers (.mfk o) s (fun t =>
        (hardZero o.dst.toNat = false → (readReg (me t) o.dst.toNat).full = false)
          ∧ t.pends = s.pends ++ [{ id := s.nextId, cid := s.cur, code := o.dst.toNat, kind := .hub o.short.toNat, since := now s }]
          ∧ (me t).pc = (me s).npc)))

/-! ### Memory (R241 to R251) -/

/-- R241, R242, R244: a load that translates leaves its registers empty and a load outstanding for them. -/
def Obligations.ScalarLoads : Prop :=
  ∀ (s : State) (o : Fields) (va : Word) (acc : Access), Quiet s → Placed s o [.sy] → HoldsAddr s o va →
    (∀ n, n = 2 ^ variantOf o → memFormOk o n = true → destWaits s (.scalar (memReg o)) = [] →
      translate s (threadReq s va n n false) = .ok acc →
      exec (.ld o) s = .next (goOn (issueLoad (setMe s (emptyReg (me s) (memReg o))) va acc (.scalar (memReg o) n true) (memWide o))))
    ∧ (∀ n, n = 2 ^ variantOf o → variantOf o < 3 → memFormOk o n = true → destWaits s (.scalar (memReg o)) = [] →
      translate s (threadReq s va n n false) = .ok acc →
      exec (.ldu o) s = .next (goOn (issueLoad (setMe s (emptyReg (me s) (memReg o))) va acc (.scalar (memReg o) n false) (memWide o))))
    ∧ (variantOf o = 3 → memReg o % 2 = 0 → destWaits s (.scalar (memReg o)) = [] → destWaits s (.scalar (memReg o + 1)) = [] →
      translate s (threadReq s va 16 16 false) = .ok acc →
      exec (.ldu o) s = .next (goOn (issueLoad (setMe s (emptyReg (emptyReg (me s) (memReg o)) (memReg o + 1))) va acc
        (.scalar (memReg o) 16 false) (memWide o))))

/-- R241, R244: a store that translates hands its bytes, low end first, to the write buffers, or to the tidepool of a
pod-shared page. -/
def Obligations.ScalarStores : Prop :=
  ∀ (s : State) (o : Fields) (va : Word) (acc : Access), Quiet s → Placed s o [.sy] → HoldsAddr s o va →
    (∀ n v, n = 2 ^ variantOf o → memFormOk o n = true → Holds s (memReg o) v →
      translate s (threadReq s va n n true) = .ok acc →
      exec (.st o) s = .next (goOn (issueStore s s.cur .data (memWide o) acc va ((leBytes 8 v.toNat).take n))))
    ∧ (∀ v w, variantOf o = 0 → memReg o % 2 = 0 → Holds s (memReg o) v → Holds s (memReg o + 1) w →
      translate s (threadReq s va 16 16 true) = .ok acc →
      exec (.stq o) s = .next (goOn (issueStore s s.cur .data (memWide o) acc va (leBytes 8 v.toNat ++ leBytes 8 w.toNat))))

/-- R127, R242, R243, R246: a row is read from the scratchpad in four cycles, or written there, in row order or in that of
`.z`; where an engine uses the bank in that cycle the bundle is held for one cycle, which BHOLD counts. -/
def Obligations.ScratchpadRows : Prop :=
  ∀ (s : State) (o : Fields) (va : Word), Quiet s → Placed s o [.sy] → HoldsAddr s o va → va.toNat % 512 = 0 →
    OwnSlot s (va.toNat / 16384) →
    let core := coreOf s (myCore s)
    let z := o.srca.getLsbD 6
    let h := headOf core (va.toNat / 16384)
    (z = true → hLayout h = true ∧ (headWidth h = 8 ∨ headWidth h = 16)) →
    (FreeRow s (memCluster o) o.dst.toNat → (∀ w ∈ spadWords core z va.toNat, w ∉ core.spadBad) →
      (BanksFree s (rowBanks (spadRows core z va.toNat)) →
        exec (.vld o) s = .next (goOn (sendResult (noteWords s (myCore s) (spadWords core z va.toNat) (some s.cur))
          { due := now s + 4, dest := .row (memCluster o) o.dst.toNat, val := .row (spadLoad core z va.toNat) })))
      ∧ (¬ BanksFree s (rowBanks (spadRows core z va.toNat)) → exec (.vld o) s = .next (holdCycle s)))
    ∧ (∀ row, HoldsRow s (memCluster o) o.dst.toNat row →
      (BanksFree s (rowBanks (spadRows core z va.toNat)) →
        exec (.vst o) s = .next (goOn (setCore s (myCore s) (spadStore core z va.toNat row))))
      ∧ (¬ BanksFree s (rowBanks (spadRows core z va.toNat)) → exec (.vst o) s = .next (holdCycle s)))
    ∧ ((me (holdCycle s)).pc = (me s).pc ∧ now (holdCycle s) = now s + 1
      ∧ (me (holdCycle s)).bhold = min ((me s).bhold + 1) (2 ^ 32 - 1))

/-- R247: where no engine uses a bank of the lanes, lane i is read from, or written to, the offset base + I[i]·w/8, in ascending
lane order. -/
def Obligations.GatherScatter : Prop :=
  ∀ (s : State) (o : Fields) (code : Nat) (a : Word) (index : Row), Quiet s → Placed s o [.sy] → o.srca.getLsbD 6 = false →
    baseCode o = some code → Holds s code a → HoldsRow s (memCluster o) o.srcb.toNat index →
    let w := etWidth (me s) (memCluster o)
    let offs := (List.range (4096 / w)).map (fun i => (a + BitVec.ofNat 64 (lane index w i * (w / 8))).toNat)
    let core := coreOf s (myCore s)
    (∀ x ∈ offs, OwnSlot s (x / 16384) ∧ OwnSlot s ((x + w / 8 - 1) / 16384)) →
    BanksFree s (rowBanks (laneRows w offs)) →
    (FreeRow s (memCluster o) o.dst.toNat → (∀ x ∈ laneWords w offs, x ∉ core.spadBad) →
      exec (.vgth o) s = .next (goOn (sendResult (noteWords s (myCore s) (laneWords w offs) (some s.cur))
        { due := now s + 8, dest := .row (memCluster o) o.dst.toNat
          val := .row (rowOfLanes w (offs.map (fun x => spadNum core x (w / 8)))) })))
    ∧ (∀ data, HoldsRow s (memCluster o) o.dst.toNat data →
      exec (.vsct o) s = .next (goOn (setCore s (myCore s) (scatter w offs data core))))

/-- R75, R248, R249: 512 bytes of a plane into a row, a row to a plane, and the rectified row to plane 0 with its sign bits to
plane 5. -/
def Obligations.PlaneRows : Prop :=
  ∀ (s : State) (o : Fields) (va : Word), Quiet s → Placed s o [.sy] → o.srca.getLsbD 6 = false → HoldsAddr s o va →
    let cl := memCluster o
    let fc := etOf (me s) cl
    let w := etWidth (me s) cl
    (∀ acc, FreeRow s cl o.dst.toNat → translate s (vecReq s cl va false) = .ok acc →
      exec (.vldg o) s = .next (goOn (issueLoad
        (setMe s (emptyRow (me s) cl o.dst.toNat)) va acc (.row cl o.dst.toNat))))
    ∧ (∀ acc row, HoldsRow s cl o.dst.toNat row → translate s (vecReq s cl va true) = .ok acc →
      exec (.vstg o) s = .next (goOn (issueStore s s.cur .data false acc va (rowBytes row))))
    ∧ (∀ acc0 acc5 row, HoldsRow s cl o.dst.toNat row → maskable fc = true →
      let pos := va.toNat % 2 ^ 60
      let va0 := BitVec.ofNat 64 pos
      let va5 := BitVec.ofNat 64 (pos + 5 * 2 ^ 60)
      let lanes := (List.range (4096 / w)).map (fun i => rectify fc (lane row w i))
      translate s { threadReq s va0 512 (w / 8) true with dwidth := some w } = .ok acc0 →
      translate s { threadReq s va5 (4096 / w / 8) 1 true with shape := some (0, 0) } = .ok acc5 →
      exec (.vstxM o) s = .next (goOn (issueStore
        (issueStore s s.cur .data false acc0 va0 (rowBytes (rowOfLanes w (lanes.map (·.1))))) s.cur .data false acc5 va5
        (maskBytes (lanes.map (·.2))))))

/-- R242, R250, R251: an atomic that translates takes its operand, leaves its register empty and an access outstanding that
names the operation. -/
def Obligations.AtomicsIssue : Prop :=
  ∀ (s : State) (o : Fields) (va : Word) (acc : Access), Quiet s → Placed s o [.sy] → HoldsAddr s o va →
    ∀ p ∈ atomicOps, ∀ n, n = atomSize (variantOf o) → atomFormOk o p.1 = true →
      (∀ c ∈ regGroup (memReg o) (atomRegs p.1 n), Holds s c (readReg (me s) c).val) →
      translate s { threadReq s va n n true with atomic := true } = .ok acc →
      exec (p.2 o) s = .next (goOn (issueLoad (setMe s (emptyAll (me s) (regGroup (memReg o) (if n = 16 then 2 else 1)))) va acc
        (.atom p.1 (memReg o) n ((regGroup (memReg o) (atomRegs p.1 n)).map (fun c => (readReg (me s) c).val)) (memWide o)) (memWide o)))

/-! ### Synchronisation and error injection (R252 to R255, R274) -/

/-- R79 to R81, R252, R254: votes are OR'd in, and trap in an unstepped launch; a fence passes once the context's local loads have
returned and its stores have performed at the scope, a drain once its atomics have returned and its stores have performed at pkg. -/
def Obligations.FencesAndVotes : Prop :=
  ∀ (s : State) (o : Fields), Quiet s → Placed s o [.sy] →
    (∀ a b, o.dst = 0 → (mySgid s).isSome = true → Holds s o.srca.toNat a → HoldsB s o b →
      Sends (.vote o) s 1 (.kspace 0x1A) (.orWord ((a ||| b) &&& 0xFFFF_FFFF)))
    ∧ (∀ a b, o.dst = 0 → mySgid s = none → Holds s o.srca.toNat a → HoldsB s o b →
      exec (.vote o) s = .next (trapHere s { cause := 3, slot := slotNumber o.slot }))
    ∧ (noA o = true → noB o = true → o.dst.toNat ≤ 4 → (me s).tagFail = none →
      (∀ l ∈ s.loads, l.cid = s.cur → isLocal l.acc = false) →
      (∀ p ∈ s.wbuf, p.cid = s.cur → o.dst.toNat ≤ 2 ∧ p.grp = true) → exec (.fence o) s = .next (goOn s))
    ∧ (noA o = true → noB o = true → o.dst = 5 → (me s).tagFail = none → (∀ l ∈ s.loads, l.cid = s.cur → isAtom l = false) →
      (∀ p ∈ s.wbuf, p.cid ≠ s.cur) → exec (.drain o) s = .next (goOn s))

/-- R89, R135, R136, R142, R253: a slack whose step has been committed takes the new STEPNO and STEPSTAT and clears VOTE; one
whose step is still open arrives and blocks. A rendezvous whose partners have all issued its generation passes; else it waits.
R255: a wait whose condition holds for the unit as its context reads it goes on, else it blocks on the unit, or traps where
the unit is pod-shared. -/
def Obligations.Meetings : Prop :=
  (∀ (s : State) (o : Fields), Quiet s → Placed s o [.sy] → noA o = true → (me s).tagFail = none →
      (∀ l ∈ s.loads, l.cid = s.cur → isLocal l.acc = false) → (∀ p ∈ s.wbuf, p.cid ≠ s.cur) →
      (∀ g, noB o = true → o.dst = 6 → groupOfCtx s (me s) = some g →
        ((kget (me s) 0x18).toNat ≠ g.stepno.toNat → Answers (.slack o) s (fun t =>
          kget (me t) 0x18 = g.stepno.setWidth 64 ∧ kget (me t) 0x19 = g.stepstat ∧ kget (me t) 0x1A = 0
            ∧ (me t).pc = (me s).npc))
        ∧ ((kget (me s) 0x18).toNat = g.stepno.toNat → taskIndex (me s) ∉ g.arrived →
          exec (.slack o) s = .next (blockOn (arriveTask s) .slack)))
      ∧ (∀ n scope, o.dst = 7 → HoldsB s o n → n.toNat < 16 → rdvScope s (me s) = some scope → scope < 5 →
        let t := issueRdv n.toNat s
        let gen := fget (me t).arch.rdvGen n.toNat 0
        (allMet t n.toNat gen = true → exec (.rdv o) s = .next (goOn t))
        ∧ (allMet t n.toNat gen = false → exec (.rdv o) s = .next (blockOn t (.rendezvous n.toNat gen)))))
  ∧ (∀ (s : State) (o : Fields) (va c : Word) (acc : Access), Quiet s → Placed s o [.sy] → HoldsAddr s o va →
      memWide o = false → Holds s (memReg o) c → (∀ l ∈ s.loads, l.cid ≠ s.cur) → (me s).phase = .none →
      translate s (threadReq s va 4 4 false) = .ok acc → isLocal acc = true → s.cold.hbmHold = false →
      readClass s s.cur (me s).seq acc = 0 →
      let t := recordSeen (noteWalks s (threadPipe (myCore s)) (myCore s) acc) s.cur (me s).seq acc
      (waitHolds (variantOf o) (waitUnit s s.cur acc) (c.setWidth 32) = true →
        exec (.wait o) s = .next (goOn (noteReads t s.cur (accReads t s.cur (me s).seq acc))))
      ∧ (waitHolds (variantOf o) (waitUnit s s.cur acc) (c.setWidth 32) = false →
        (acc.shared = none →
          exec (.wait o) s = .next (blockOn (setMe t { me t with phase := .waitFor va (variantOf o) (c.setWidth 32) }) .waiting))
        ∧ (acc.shared.isSome = true → exec (.wait o) s
          = .next (trapHere s { cause := 3, qual := 1, addr := va, plane := va.toNat / 2 ^ 60, slot := slotNumber o.slot }))))

/-- R274: in debug mode an upset of a register, a residue, a tile, the scratchpad, an HBM symbol or a sector tag is injected;
outside debug mode the entry raises the illegal-operation trap. How far an address reaches into the scratchpad, and that the HBM
kinds go by way of the write buffers, pod-shared planes too, is this model's choice (log 33). -/
def Obligations.ErrorInjection : Prop :=
  ∀ (s : State) (o : Fields) (n : Word), Quiet s → Placed s o [.sx, .sy] → Holds s o.srca.toNat n →
    let kind := o.short.toNat % 8
    let param := o.short.toNat / 8
    (inDebug (me s) = false → exec (.errinj o) s = .next (trapHere s { cause := 3, slot := slotNumber o.slot }))
    ∧ (inDebug (me s) = true → o.dst.toNat < 0x50 → (readReg (me s) o.dst.toNat).full = true → param = 0 →
      (kind = 0 → n.toNat < 64 → exec (.errinj o) s = .next (goOn (setMe s (flipReg (me s) o.dst.toNat (BitVec.ofNat 64 (2 ^ n.toNat)) 0))))
      ∧ (kind = 1 → n.toNat < 4 → exec (.errinj o) s = .next (goOn (setMe s (flipReg (me s) o.dst.toNat 0 (BitVec.ofNat 4 (2 ^ n.toNat)))))))
    ∧ (inDebug (me s) = true → o.dst = 0 → param = 0 → kind = 2 → n.toNat < 2 ^ 20 →
      let cl := if n.getLsbD 0 then Cluster.y else Cluster.x
      let r := n.toNat / 2 % 128
      let k := 32 * (n.toNat / 2 ^ 8 % 128) + n.toNat / 2 ^ 15 % 32
      tileTaken s cl = false → exec (.errinj o) s = .next (goOn (setMe s (putRow (me s) cl r
        { readRow (me s) cl r with bits := (readRow (me s) cl r).bits ^^^ BitVec.ofNat 4096 (2 ^ k) }))))
    ∧ (inDebug (me s) = true → o.dst = 0 → param = 0 → kind = 3 → n.toNat < 2 ^ 25 → n.toNat % 2 ^ 22 < 3145728 →
      let core := coreOf s (myCore s)
      exec (.errinj o) s = .next (goOn (setCore s (myCore s) (putSpadBits core (n.toNat % 2 ^ 22) 8
        (spadBits core (n.toNat % 2 ^ 22) 8 ^^^ 2 ^ (n.toNat / 2 ^ 22 % 8))))))
    ∧ (∀ acc, inDebug (me s) = true → o.dst = 0 → param < 16 → translate s (threadReq s n 1 1 true) = .ok acc →
      let own := { acc with shared := none }
      let m := BitVec.ofNat 8 (2 ^ (param % 8))
      (kind = 4 → exec (.errinj o) s = .next (goOn (
        if 8 ≤ param then issueStore (issueStore s s.cur .flip false own n [m]) s.cur .flip false (pairByte own) n [m]
        else issueStore s s.cur .flip false own n [m])))
      ∧ (kind = 5 → exec (.errinj o) s = .next (goOn (issueStore s s.cur .retag false own n [BitVec.ofNat 8 param]))))

/-! ### Vector entries (R277 to R299) -/

/-- R158, R160, R172, R282: a float lane is the exact value of the entry, rounded once in RMODE and fitted; a NaN and a zero sum as
the number formats give. Under SR the bundle takes one DRAW value. The sign of an exact zero sum in mode RDN is this model's choice
(log 24). -/
def Obligations.VectorFloat : Prop :=
  ∀ (s : State) (o : Fields) (a b : Row), TwoRows s o a b →
    let c := me s
    let cl := vecCluster o
    let fc := etOf c cl
    let w := fmtWidth fc
    floatType fc = true →
    let mode := rmode c
    let round (v : Nat → XVal) : Row := mapLanes w (fun i =>
      roundEncode fc mode (if mode = 4 then drawOf c (drawAt c 0) i 0 else 0) (rovf c) (v i))
    let x (i : Nat) := decodeNum fc (lane a w i)
    let y (i : Nat) := decodeNum fc (lane b w i)
    let down := mode == 3
    let sends (i : Instr) (lat : Nat) (v : Nat → XVal) : Prop :=
      SendsDrawing i s (if mode = 4 then 1 else 0) [{ due := now s + lat, dest := .row cl o.dst.toNat, val := .row (round v) }]
    sends (.vadd o) 4 (fun i => xadd down (x i) (y i))
    ∧ sends (.vsub o) 4 (fun i => xadd down (x i) (xneg (y i)))
    ∧ sends (.vmul o) 4 (fun i => xmul (x i) (y i))
    ∧ (∀ d, HoldsRow s cl o.dst.toNat d →
      let z (i : Nat) := decodeNum fc (lane d w i)
      sends (.vfma o) 6 (fun i => xadd down (xmul (x i) (y i)) (z i))
      ∧ sends (.vfms o) 6 (fun i => xadd down (xmul (x i) (y i)) (xneg (z i)))
      ∧ sends (.vfnma o) 6 (fun i => xadd down (xneg (xmul (x i) (y i))) (xneg (z i)))
      ∧ sends (.vfnms o) 6 (fun i => xadd down (xneg (xmul (x i) (y i))) (z i)))

/-- R283: an integer lane is the exact value modulo 2^w. -/
def Obligations.VectorInteger : Prop :=
  ∀ (s : State) (o : Fields) (a b : Row), TwoRows s o a b →
    let cl := vecCluster o
    let fc := etOf (me s) cl
    let w := fmtWidth fc
    isInt fc = true → floatType fc = false →
    let x (i : Nat) : Int := (lane a w i : Nat)
    let y (i : Nat) : Int := (lane b w i : Nat)
    let wrap (v : Nat → Int) : Payload := .row (mapLanes w (fun i => (v i % 2 ^ w).toNat))
    Sends (.vadd o) s 3 (.row cl o.dst.toNat) (wrap (fun i => x i + y i))
    ∧ Sends (.vsub o) s 3 (.row cl o.dst.toNat) (wrap (fun i => x i - y i))
    ∧ Sends (.vmul o) s 4 (.row cl o.dst.toNat) (wrap (fun i => x i * y i))
    ∧ (∀ d, HoldsRow s cl o.dst.toNat d →
      let z (i : Nat) : Int := (lane d w i : Nat)
      Sends (.vfma o) s 6 (.row cl o.dst.toNat) (wrap (fun i => x i * y i + z i))
      ∧ Sends (.vfms o) s 6 (.row cl o.dst.toNat) (wrap (fun i => x i * y i - z i))
      ∧ Sends (.vfnma o) s 6 (.row cl o.dst.toNat) (wrap (fun i => -(x i * y i) - z i))
      ∧ Sends (.vfnms o) s 6 (.row cl o.dst.toNat) (wrap (fun i => -(x i * y i) + z i)))

/-- R282 to R284: the lesser and greater lane unchanged, a NaN lane canonical; magnitudes and signs. -/
def Obligations.VectorSigns : Prop :=
  ∀ (s : State) (o : Fields) (a : Row), OneRow s o a →
    let cl := vecCluster o
    let fc := etOf (me s) cl
    let w := fmtWidth fc
    floatType fc = true ∨ isInt fc = true →
    (noB o = true → Sends (.vabs o) s 2 (.row cl o.dst.toNat) (.row (mapLanes w (fun i => absLane fc (lane a w i))))
      ∧ Sends (.vneg o) s 2 (.row cl o.dst.toNat) (.row (mapLanes w (fun i => negLane fc (lane a w i)))))
    ∧ (∀ b, HoldsRow s cl o.srcb.toNat b →
      let choose (lt : XVal → XVal → Bool) : Payload := .row (mapLanes w (fun i =>
        let x := decodeNum fc (lane a w i)
        let y := decodeNum fc (lane b w i)
        if xisNan x || xisNan y then encodeNum fc false .nan else if lt x y then lane a w i else lane b w i))
      Sends (.vmin o) s (if isInt fc then 3 else 4) (.row cl o.dst.toNat) (choose xbelow)
      ∧ Sends (.vmax o) s (if isInt fc then 3 else 4) (.row cl o.dst.toNat) (choose (fun x y => xbelow y x))
      ∧ (floatType fc = true → fmtSigned fc = true → Sends (.vcopysign o) s 2 (.row cl o.dst.toNat) (.row (mapLanes w (fun i =>
        if xisNan (decodeNum fc (lane a w i)) then encodeNum fc false .nan
        else withSign fc (lane a w i) (codeSign fc (lane b w i)))))))

/-- R285, R286: bitwise rows, shifts of each lane by row B or by the short field, which traps at or above the lane width, and the choice
of lanes by a p register. -/
def Obligations.VectorBits : Prop :=
  (∀ (s : State) (o : Fields) (a b : Row), TwoRows s o a b →
    let cl := vecCluster o
    Sends (.vand o) s 2 (.row cl o.dst.toNat) (.row (a &&& b))
    ∧ Sends (.vor o) s 2 (.row cl o.dst.toNat) (.row (a ||| b))
    ∧ Sends (.vxor o) s 2 (.row cl o.dst.toNat) (.row (a ^^^ b)))
  ∧ (∀ (s : State) (o : Fields) (a : Row) (k : Nat → Nat), OneRow s o a →
    let cl := vecCluster o
    let w := etWidth (me s) cl
    (o.twin = true → ∃ n, n < w ∧ n < 128 ∧ o.short = BitVec.ofNat 8 n ∧ ∀ i, k i = n) →
    (o.twin = false → ∃ b, HoldsRow s cl o.srcb.toNat b ∧ ∀ i, k i = lane b w i % w) →
    Sends (.vshl o) s 2 (.row cl o.dst.toNat) (.row (mapLanes w (fun i => lane a w i * 2 ^ k i % 2 ^ w)))
    ∧ Sends (.vshr o) s 2 (.row cl o.dst.toNat) (.row (mapLanes w (fun i => lane a w i / 2 ^ k i)))
    ∧ Sends (.vsra o) s 2 (.row cl o.dst.toNat) (.row (mapLanes w (fun i => intCode w (signedOf w (lane a w i) / (2 ^ k i : Nat))))))
  ∧ (∀ (s : State) (o : Fields), Quiet s → Placed s o [.vx, .vy] → o.twin = true → etWidth (me s) (vecCluster o) ≤ o.short.toNat →
    ∀ f ∈ [Instr.vshl, .vshr, .vsra], exec (f o) s = .next (trapHere s { cause := 3, slot := slotNumber o.slot }))
  ∧ (∀ (s : State) (o : Fields) (b d : Row), Quiet s → Placed s o [.vx, .vy] → o.srca.toNat < 16 →
    let cl := vecCluster o
    let w := etWidth (me s) cl
    HoldsRow s cl o.srcb.toNat b → HoldsRow s cl o.dst.toNat d →
    Sends (.vsel o) s 2 (.row cl o.dst.toNat) (.row (mapLanes w (fun i =>
      if (readPred (me s) cl o.srca.toNat).getLsbD i then lane b w i else lane d w i))))

/-- R277, R287, R288: a compare gives one bit for each lane, 0 beyond them; predicate logic over 512 bits, reductions over the
cluster's lanes into a c register; an element type is written into ETX or ETY after one cycle. -/
def Obligations.LanePredicates : Prop :=
  ∀ (s : State) (o : Fields), Quiet s → Placed s o [.vx, .vy] →
    let cl := vecCluster o
    let fc := etOf (me s) cl
    let w := fmtWidth fc
    let p := readPred (me s) cl o.srca.toNat
    let q := readPred (me s) cl o.srcb.toNat
    (∀ a b, HoldsRow s cl o.srca.toNat a → HoldsRow s cl o.srcb.toNat b → o.dst.toNat / 16 < 6 →
      Sends (.vcmp o) s 2 (.pred cl (o.dst.toNat % 16)) (.pbits (predOf (4096 / w) (fun i =>
        laneCond fc (o.dst.toNat / 16) (lane a w i) (lane b w i)))))
    ∧ (o.dst.toNat < 16 → o.srca.toNat < 16 → o.srcb.toNat < 16 →
      Sends (.pand o) s 1 (.pred cl o.dst.toNat) (.pbits (p &&& q))
      ∧ Sends (.por o) s 1 (.pred cl o.dst.toNat) (.pbits (p ||| q))
      ∧ Sends (.pxor o) s 1 (.pred cl o.dst.toNat) (.pbits (p ^^^ q)))
    ∧ (o.dst.toNat < 16 → o.srca.toNat < 16 → noB o = true →
      Sends (.pnot o) s 1 (.pred cl o.dst.toNat) (.pbits (~~~p))
      ∧ (FreeScalar s (0x58 + o.dst.toNat) →
        Sends (.pany o) s 1 (.scalar (0x58 + o.dst.toNat)) (wordOf (if ∃ i, i < 4096 / w ∧ p.getLsbD i = true then 1 else 0))
        ∧ Sends (.pall o) s 1 (.scalar (0x58 + o.dst.toNat)) (wordOf (if ∀ i, i < 4096 / w → p.getLsbD i = true then 1 else 0))))
    ∧ (o.dst = 0 → noA o = true →
      (clusterType o.short.toNat = true → Sends (.vtype o) s 1 (.kspace (if cl = .x then 2 else 3)) (.word (o.short.setWidth 64) 0))
      ∧ (clusterType o.short.toNat = false → exec (.vtype o) s = .next (trapHere s { cause := 3, slot := slotNumber o.slot })))

/-- R289: a reduction over the fixed binary tree of neighbouring lanes, in the wide type, with zeros above its result; and
R290, R291: permutes, rotations, broadcasts, and the copy of a row into the other cluster. -/
def Obligations.ReductionsAndMoves : Prop :=
  (∀ (s : State) (o : Fields) (a : Row), OneRow s o a → noB o = true →
      let cl := vecCluster o
      let fc := etOf (me s) cl
      let w := fmtWidth fc
      floatType fc = true ∨ isInt fc = true →
      let tree (f : Nat → Nat → Nat) : Payload :=
        .row (BitVec.ofNat 4096 (reduceTree f 10 ((List.range (4096 / w)).map (fun i => wideLane fc (lane a w i)))))
      Sends (.vrsum o) s (4 + Nat.log2 (4096 / w)) (.row cl o.dst.toNat) (tree (sumPair fc))
      ∧ Sends (.vrmax o) s (4 + Nat.log2 (4096 / w)) (.row cl o.dst.toNat) (tree (pickPair true fc))
      ∧ Sends (.vrmin o) s (4 + Nat.log2 (4096 / w)) (.row cl o.dst.toNat) (tree (pickPair false fc)))
  ∧ (∀ (s : State) (o : Fields) (a : Row), OneRow s o a →
      let cl := vecCluster o
      let w := etWidth (me s) cl
      let n := 4096 / w
      let takes (f : Nat → Nat) : Payload := .row (mapLanes w (fun i => lane a w (f i)))
      (∀ b, HoldsRow s cl o.srcb.toNat b →
        Sends (.vperm o) s 3 (.row cl o.dst.toNat) (takes (fun i => lane b w i % n))
        ∧ Sends (.vrot o) s 3 (.row cl o.dst.toNat) (takes (fun i => (i + lane b w 0) % n))
        ∧ Sends (.vbcast o) s 3 (.row cl o.dst.toNat) (takes (fun _ => lane b w 0 % n)))
      ∧ Sends (.vrotI o) s 3 (.row cl o.dst.toNat) (takes (fun i => (((i : Int) + o.short.toInt) % n).toNat))
      ∧ (noB o = true → Sends (.vrotL o) s 3 (.row cl o.dst.toNat) (takes (fun i => (i + ((me s).imm.getD 0).toNat) % n)))
      ∧ (∀ j : Nat, j < n → j < 128 → o.short = BitVec.ofNat 8 j → Sends (.vbcastI o) s 3 (.row cl o.dst.toNat) (takes (fun _ => j)))
      ∧ (noB o = true → ((me s).imm.getD 0).toNat < n →
        Sends (.vbcastL o) s 3 (.row cl o.dst.toNat) (takes (fun _ => ((me s).imm.getD 0).toNat)))
      ∧ (noB o = true → FreeRow s (otherCluster cl) o.dst.toNat →
        Sends (.vxfer o) s 1 (.row (otherCluster cl) o.dst.toNat) (.row a)))

/-- R292, R293: a special-function entry leaves its row empty and its request at the end of the core's queue. -/
def Obligations.SpecialFunctions : Prop :=
  ∀ (s : State) (o : Fields) (a : Row), OneRow s o a → noB o = true →
    let cl := vecCluster o
    let fc := etOf (me s) cl
    let w := fmtWidth fc
    1 ≤ fc → fc ≤ 3 →
    ∀ p ∈ [(Instr.vrcp o, sfRcp), (.vrsqrt o, sfRsqrt), (.vexp2 o, sfExp2), (.vlog2 o, sfLog2)],
      let t := setMe s (emptyRow (me s) cl o.dst.toNat)
      exec p.1 s = .next (goOn (setCore t (myCore s) { coreOf s (myCore s) with sfu := (coreOf s (myCore s)).sfu ++
        [{ cid := s.cur, cl := cl, row := o.dst.toNat, gen := none
           val := mapLanes w (fun i => p.2 fc (decodeNum fc (lane a w i)))
           entered := sfuEntered (coreOf s (myCore s)) (4096 / w) }] }))

/-- R168, R294 to R298: conversions and MX blocks take one DRAW value whatever their mode; the result of each lane. -/
def Obligations.Conversions : Prop :=
  ∀ (s : State) (o : Fields) (m : BitVec 3) (a : Row), OneRow s o a → m.toNat < 6 →
    let c := me s
    let cl := vecCluster o
    let fc := etOf c cl
    let f := o.short.toNat
    let mode := if m = 5 then rmode c else m.toNat
    let draw (i : Nat) := if mode = 4 then drawOf c (drawAt c 0) i 0 else 0
    (clusterType f = true → (fc = 9 → isInt f = false) →
      let rounded (sat : Bool) : Payload := .row (rowOfLanes (fmtWidth f) ((List.range (min (4096 / fmtWidth fc) (4096 / fmtWidth f))).map
        (fun i => convertNum fc f mode (draw i) sat (lane a (fmtWidth fc) i))))
      SendsDrawing (.vcvt m o) s 1 [{ due := now s + 4, dest := .row cl o.dst.toNat, val := rounded (rovf c) }]
      ∧ SendsDrawing (.vcvtSat m o) s 1 [{ due := now s + 4, dest := .row cl o.dst.toNat, val := rounded true }])
    ∧ (6 ≤ f → f ≤ 8 → floatType fc = true → o.dst.toNat % 2 = 0 → FreeRow s cl (o.dst.toNat + 1) →
      let blocks := mxBlocks c 0 fc f mode a
      SendsDrawing (.vmxq m o) s 1
        [{ due := now s + 8, dest := .row cl o.dst.toNat, val := .row (packMx f (blocks.flatMap (·.2))) },
         { due := now s + 8, dest := .row cl (o.dst.toNat + 1), val := .row (rowOfLanes 8 (blocks.map (·.1))) }])
    ∧ (∀ sc, 6 ≤ f → f ≤ 8 → floatType fc = true → o.srca.toNat % 2 = 0 → HoldsRow s cl (o.srca.toNat + 1) sc →
      SendsDrawing (.vmxd m o) s 1 [{ due := now s + 6, dest := .row cl o.dst.toNat, val := .row (mapLanes (fmtWidth fc) (fun k =>
        roundEncode fc mode (draw k) (rovf c) (mxValue f (lane sc 8 (k / 32)) (mxElement f a k)))) }])

/-! ### Probability predicates (R91 to R108, R301 to R308) -/

/-- R98, R303, R104, R308: the code of a soft compare and the lineage bit that lands with it; the gradient of a compare. -/
def Obligations.SoftCompares : Prop :=
  ∀ (s : State) (o : Fields) (b : Row), Quiet s → Placed s o [.vx, .vy] → HoldsRow s (vecCluster o) o.srcb.toNat b →
    let c := me s
    let cl := vecCluster o
    let fc := etOf c cl
    let w := fmtWidth fc
    let t := decodeNum 1 ((kget c 0x08).toNat % 2 ^ 32)
    qType fc = true →
    (∀ (cond : BitVec 2) (a : Row), HoldsRow s cl o.srca.toNat a → o.dst.toNat < 64 →
      let x (i : Nat) := decodeNum fc (lane a w i)
      let y (i : Nat) := decodeNum fc (lane b w i)
      let d (i : Nat) := roundTo 1 0 0 (if cond = 0 ∨ cond = 1 then xadd false (y i) (xneg (x i)) else xadd false (x i) (xneg (y i)))
      let hard (i : Nat) : Bool := if cond = 0 then xlt (x i) (y i) else if cond = 1 then xlt (x i) (y i) || xeq (x i) (y i)
        else if cond = 2 then xlt (y i) (x i) else xlt (y i) (x i) || xeq (x i) (y i)
      let code (i : Nat) := if xisNan (x i) || xisNan (y i) then 0
        else if xisZero t then (if hard i then 0x8000 else 0)
        else if xisNan (d i) then 0 else knot (roundTo 1 0 0 (xdivPos (d i) t))
      Sends (.qcmp cond o) s 6 (.qreg cl (o.dst.toNat % 8))
        (.q (some (rowOfLanes 16 ((List.range (4096 / w)).map code))) (BitVec.ofNat 8 (2 ^ (o.dst.toNat / 8)))))
    ∧ (fc ≤ 3 → o.srca.toNat < 8 → o.bta = false → FreeRow s cl o.dst.toNat →
      let q := readQ c cl o.srca.toNat
      let code (i : Nat) := min (lane q.codes 16 i) 0x8000
      let grad (i : Nat) := if xisZero t then (if (kget c 0x09).getLsbD 0 then lane b w i else 0)
        else if xisNan (decodeNum fc (lane b w i)) then encodeNum fc false .nan
        else if code i = 0 ∨ code i = 0x8000 then signBit fc (xsign (decodeNum fc (lane b w i)))
        else roundEncode fc 0 0 false (xdivPos (xmul (decodeNum fc (lane b w i)) (.fin false (code i * (32768 - code i)) (2 ^ 30))) t)
      SendsAll (.qgcmp o) s ({ due := now s + 6, dest := .row cl o.dst.toNat, val := .row (mapLanes w grad) }
        :: qNotes s 6 (4096 / w) [q] false))

/-- R99, R100, R304: products, complements and constants with their lineage; overlapping lineages are noted, and trap at the
end of the bundle where QMODE.DEPTRAP is 1; and R305: copies of clamped codes with their lineage, within a cluster and across;
copies of raw codes from and to a row. That the form to a row takes every row number is this model's choice (log 66), and so is the
slot that the q-dependence trap records (log 72). -/
def Obligations.SoftLogic : Prop :=
  (∀ (s : State) (o : Fields), Quiet s → Placed s o [.vx, .vy] → o.dst.toNat < 8 →
      let c := me s
      let cl := vecCluster o
      let n := 4096 / etWidth c cl
      let a := readQ c cl o.srca.toNat
      let b := readQ c cl o.srcb.toNat
      let code (q : QReg) (i : Nat) := min (lane q.codes 16 i) 0x8000
      let lands (f : Nat → Nat) (lin : BitVec 8) : InFlight :=
        { due := now s + 1, dest := .qreg cl o.dst.toNat, val := .q (some (rowOfLanes 16 ((List.range n).map f))) lin }
      qType (etOf c cl) = true →
      (o.srca.toNat < 8 → o.bta = false → o.srcb.toNat < 8 → o.btb = false →
        let product (i : Nat) := roundHalfEven (code a i * code b i) 32768
        let shares := decide (a.lin &&& b.lin ≠ 0)
        let sends (i : Instr) (f : Nat → Nat) : Prop :=
          let fs := lands f (a.lin ||| b.lin) :: qNotes s 1 n [a, b] shares
          if shares = true ∧ (kget c 0x09).getLsbD 1 = true then
            let t := moveOn (fs.foldl sendResult s) 1
            exec i s = .next (takeTrap (setMe t (landQ (me t) (now t))) { cause := 0x0F, slot := slotNumber o.slot } (me t).pc)
          else SendsAll i s fs
        sends (.qand o) product ∧ sends (.qor o) (fun i => code a i + code b i - product i))
      ∧ (o.srca.toNat < 8 → o.bta = false → noB o = true →
        SendsAll (.qnot o) s (lands (fun i => 0x8000 - code a i) a.lin :: qNotes s 1 n [a] false))
      ∧ (o.srca.toNat < 16 → o.bta = false → noB o = true →
        SendsAll (.qfromp o) s [lands (fun i => if (readPred c cl o.srca.toNat).getLsbD i then 0x8000 else 0) 0])
      ∧ (noA o = true →
        (o.short.toNat ≤ 128 → SendsAll (.qconst o) s [lands (fun _ => 256 * o.short.toNat) 0])
        ∧ (noB o = true → (c.imm.getD 0).toNat ≤ 0x8000 → SendsAll (.qconstL o) s [lands (fun _ => (c.imm.getD 0).toNat) 0])
        ∧ Sends (.qlin o) s 1 (.qreg cl o.dst.toNat) (.q none o.short)))
  ∧ (∀ (s : State) (o : Fields), Quiet s → Placed s o [.vx, .vy] → noB o = true →
      let c := me s
      let cl := vecCluster o
      let n := 4096 / etWidth c cl
      let q := readQ c cl o.srca.toNat
      let row (f : Nat → Nat) : Row := rowOfLanes 16 ((List.range n).map f)
      let clamped (i : Nat) := min (lane q.codes 16 i) 0x8000
      qType (etOf c cl) = true →
      (o.srca.toNat < 8 → o.bta = false →
        (o.dst.toNat < 8 → SendsAll (.qmov o) s ({ due := now s + 1, dest := .qreg cl o.dst.toNat, val := .q (some (row clamped)) q.lin }
          :: qNotes s 1 n [q] false))
        ∧ (∀ d, d < 8 → o.dst.toNat = 8 + d → SendsAll (.qmovCross o) s (
          { due := now s + 1, dest := .qreg (otherCluster cl) d, val := .q (some (row clamped)) q.lin } :: qNotes s 1 n [q] false))
        ∧ (FreeRow s cl o.dst.toNat → Sends (.qmovToRow o) s 2 (.row cl o.dst.toNat) (.row (row (lane q.codes 16)))))
      ∧ (∀ a, HoldsRow s cl o.srca.toNat a → o.dst.toNat < 8 →
        Sends (.qmovFromRow o) s 1 (.qreg cl o.dst.toNat) (.q (some (row (lane a 16))) 0)))

/-- R101, R102, R306 to R308: a blend of two rows and its gradient; a collapse to a p register, which takes one DRAW value. -/
def Obligations.SoftBlends : Prop :=
  ∀ (s : State) (o : Fields), Quiet s → Placed s o [.vx, .vy] →
    let c := me s
    let cl := vecCluster o
    let fc := etOf c cl
    let w := fmtWidth fc
    let n := 4096 / w
    qType fc = true →
    (∀ a b, HoldsRow s cl o.srca.toNat a → HoldsRow s cl o.srcb.toNat b →
      let x (i : Nat) := decodeNum fc (lane a w i)
      let y (i : Nat) := decodeNum fc (lane b w i)
      (∀ k : BitVec 3, FreeRow s cl o.dst.toNat →
        let q := readQ c cl k.toNat
        let code (i : Nat) := min (lane q.codes 16 i) 0x8000
        SendsAll (.vblendQ k o) s ({ due := now s + 4, dest := .row cl o.dst.toNat, val := .row (mapLanes w (fun i =>
          if code i = 0x8000 then lane a w i else if code i = 0 then lane b w i
          else roundEncode fc 0 0 false (xadd false (xmul (.fin false (code i) 32768) (x i))
            (xmul (.fin false (32768 - code i) 32768) (y i))))) } :: qNotes s 4 n [q] false))
      ∧ (∀ g, fc ≤ 3 → HoldsRow s cl o.dst.toNat g →
        Sends (.qgblend o) s 6 (.row cl o.dst.toNat) (.row (mapLanes w (fun i =>
          roundEncode fc 0 0 false (xmul (xadd false (x i) (xneg (y i))) (decodeNum fc (lane g w i))))))))
    ∧ (o.dst.toNat < 16 → o.srca.toNat < 8 → o.bta = false → noB o = true →
      let q := readQ c cl o.srca.toNat
      SendsDrawing (.qcol o) s 1 ({ due := now s + 3, dest := .pred cl o.dst.toNat, val := .pbits (predOf n (fun i =>
        decide (drawOf c (drawAt c 0) i 0 / 2 ^ 17 % 2 ^ 15 < min (lane q.codes 16 i) 0x8000))) } :: qNotes s 3 n [q] false))

/-! ### The matrix slot and the matrix engine (R43, R109 to R133, R310 to R324) -/

/-- R311 to R315: parameter registers, tile headers, samples of the engine, the queue bound, and the call of a routine, which
takes its tiles and the copies of m0 to m7. -/
def Obligations.MatrixEntries : Prop :=
  ∀ (s : State) (o : Fields), Quiet s → Placed s o [.mx] →
    let c := me s
    let core := coreOf s (myCore s)
    (o.dst.toNat < 8 → noA o = true →
      Sends (.mset o) s 1 (.mreg o.dst.toNat) (.word (o.short.signExtend 64) 0)
      ∧ (noB o = true → Sends (.msetL o) s 1 (.mreg o.dst.toNat) (.word (c.imm.getD 0) 0)))
    ∧ (o.dst = 0 → noB o = true → o.srca.toNat < 8 →
      let k := (readM c o.srca.toNat).toNat
      let hdr := c.imm.getD 0
      hdr &&& 0xFFFF_FFFF_FFFF_0001 = 0 → (hFmt hdr < 18 ∨ hFmt hdr = 31) → OwnSlot s k →
      exec (.mtile o) s = .next (goOn (setCore s (myCore s) { core with
        heads := fset core.heads k (withShape (headOf core k) (hdr.getLsbD 1) (hdr.getLsbD 2) (hdr.toNat / 8 % 32) (hdr.toNat / 256 % 256)) })))
    ∧ (noA o = true → FreeScalar s o.dst.toNat →
      (o.short.toNat < 4 → exec (.mstat o) s = .next (goOn (startPending s o.dst.toNat (.mstat o.short.toNat))))
      ∧ (o.short = 0x40 → exec (.mstatStatusClr o) s = .next (goOn (startPending s o.dst.toNat (.mstat 0x40)))))
    ∧ (noA o = true → o.dst = 0 → 1 ≤ o.short.toNat → o.short.toNat ≤ 4 →
      exec (.mbound o) s = .next (goOn (setMe s { c with arch := { c.arch with mbound := o.short.toNat } })))
    ∧ (∀ i index start len, o.dst = 0 →
      (i = Instr.mcall o ∧ o.srca = 0 ∧ index = o.short.toNat
        ∨ i = Instr.mcallM o ∧ o.srca.toNat < 8 ∧ noB o = true ∧ index = (readM c o.srca.toNat).toNat) →
      index < 64 → rtabEntry core index = some (start, len) →
      (∀ v ∈ paramBytes (readM c 0) ++ paramBytes (readM c 1), v ≤ 192) → queueFull s = false →
      let ts := tileSet core start len (readM c 0) (readM c 1)
      (∀ k ∈ slotsIn ts, allocatedTo core (s.cur % 4) k = true) → (∀ t ∈ ts, heldElsewhere s t = false) →
      exec i s = .next (goOn (queueRoutine s
        { cid := s.cur, start := start, len := len, mcopy := (List.range 8).map (readM c), mode := rmode c, tiles := ts })))

/-- R123, R318 to R324, R329: each micro-op of a running routine, from the operands that R316 and R126 allow. Two points about
checksums are this model's choice: a `wld` without CKS ends the checking that an earlier one began (log 49), and a `wld` with CKS
starts the sums anew at +0 in the integer class too (log 75). -/
def Obligations.MicroOps : Prop :=
  ∀ (s : State) (r : Run), Working s r →
    let n := myCore s
    let core := coreOf s n
    let cid := r.r.cid
    let next := chargeOne s { r with pc := r.pc + 1 }
    Runs .mnop s next
    ∧ (∀ (cnt : BitVec 16) (k : BitVec 3),
      let times := if cnt = 0 then (r.r.mcopy.getD k.toNat 0).toNat % 2 ^ 32 else cnt.toNat
      (times ≠ 0 → Runs (.mlp cnt k) s { next with loops := (r.pc + 1, times) :: r.loops })
      ∧ (times = 0 → Runs (.mlp cnt k) s
        { next with pc := afterMnd (uopsOf core (r.pc + 1) (r.r.start + r.r.len - (r.pc + 1))) (r.pc + 1) 0 }))
    ∧ (r.loops = [] → Runs .mnd s { next with pc := r.r.start + r.r.len })
    ∧ (∀ a k rest, r.loops = (a, k) :: rest →
      (k ≤ 1 → Runs .mnd s { next with loops := rest }) ∧ (1 < k → Runs .mnd s { next with pc := a, loops := (a, k - 1) :: rest }))
    ∧ (∀ (ireg : BitVec 2) (val : BitVec 16) (k : BitVec 3),
      let sets (op : BitVec 2) (v : BitVec 16) : Prop := Runs (.midx ireg op val k) s { next with idx := fset r.idx ireg.toNat v.toInt }
      sets 0 val ∧ sets 1 (BitVec.ofInt 16 (fget r.idx ireg.toNat 0) + val) ∧ sets 2 ((r.r.mcopy.getD k.toNat 0).setWidth 16))
    ∧ (∀ (k : BitVec 3) (val : BitVec 8),
      (r.r.tiles.contains (.slot val.toNat) = true → Runs (.msel k false val) s { next with ptrs := fset r.ptrs k.toNat val.toNat })
      ∧ (r.r.tiles.contains (.slot val.toNat) = false → exec (.msel k false val) s = .next (stopRoutine s n 3 r))
      ∧ (∀ b, val.toNat < 8 → ((r.r.mcopy.getD 1 0).toNat / 2 ^ (8 * val.toNat)) % 256 = b + 1 →
        Runs (.msel k true val) s { next with ptrs := fset r.ptrs k.toNat b })
      ∧ (7 < val.toNat → exec (.msel k true val) s = .next (stopRoutine s n 3 r)))
    ∧ (∀ (wslot wfc sslot : BitVec 8) (srow : BitVec 7) (cks : Bool) (expswz : BitVec 8) slot sc,
      let mx := formatClass wfc.toNat == some 3
      r.sums = [] → (formatClass wfc.toNat).isSome = true → slotOperand r wslot.toNat = .inr slot →
      srow.toNat ≤ 120 →
      (if mx then slotOperand r sslot.toNat = .inr sc ∧ headerCheck s n r sc 9 0 false = none else sc = 0) →
      (∀ x ∈ weightSlots slot wfc.toNat, headerCheck s n r x wfc.toNat expswz.toNat false = none) → core.spadBad = [] →
      Answers (.wld wslot wfc sslot srow cks expswz) s (fun t => ∃ q, runOf t n = some q ∧ q.pc = r.pc + 1
        ∧ q.weights = some {
          fc := wfc.toNat
          codes := (List.range (passDepth wfc.toNat)).flatMap (fun i => (List.range 128).map (weightCode core slot wfc.toNat i))
          scales := if mx then (List.range 8).flatMap (fun b => (List.range 128).map (scaleCode core sc (srow.toNat + b))) else []
          cks := cks && formatClass wfc.toNat != some 1 }
        ∧ (cks = true → q.asum = List.replicate (passDepth wfc.toNat) 0 ∧ q.colsum = [] ∧ q.streamed = 0)))
    ∧ (∀ (aslot afc : BitVec 8) (y fresh : Bool) (row0 nr srow0 : BitVec 7) (ix : BitVec 2) (scslot expswz : BitVec 8)
        w cls ops row j slot sc,
      let cl := if y then Cluster.y else Cluster.x
      let ty := (tileOf (ctxOf s cid) cl).atype
      r.weights = some w → formatClass afc.toNat = some cls → formatClass w.fc = some cls →
      (ty = .none ∨ ty = if cls = 1 then .i32 else .fp32) → cpatOps (kget (ctxOf s cid) 7) = some ops →
      (cls = 1 ∨ cls = 3 → ∀ k ∈ ops, k = 0) →
      rowBase r row0.toNat ix.toNat (nr.toNat + 1) = some row → rowBase r srow0.toNat ix.toNat (nr.toNat + 1) = some j →
      slotOperand r aslot.toNat = .inr slot → headerCheck s n r slot afc.toNat expswz.toNat true = none →
      (operandSlots afc.toNat = 2 → 64 < j + (nr.toNat + 1) ∨ hTrans (headOf core slot) = true → headerCheck s n r (slot + 1) afc.toNat expswz.toNat true = none) →
      (if cls = 3 then slotOperand r scslot.toNat = .inr sc ∧ headerCheck s n r sc 9 0 false = none else sc = 0) →
      (w.cks = true → r.streamed + (nr.toNat + 1) ≤ 128) → core.spadBad = [] →
      Answers (.act aslot afc y fresh row0 nr srow0 ix scslot expswz) s (fun t => ∃ q, runOf t n = some q ∧ q.pc = r.pc + 1
        ∧ q.sums = r.sums ++ (List.range (nr.toNat + 1)).map (fun i =>
          rowSum core w afc.toNat slot sc (j + i) (ops.getD (i % ops.length) 0) y fresh (row + i))))
    ∧ (∀ (src : Bool) (dkind : BitVec 2) (dacc : Bool) (dslot dfc : BitVec 8) (mode : BitVec 3) (sat : Bool) (amax : BitVec 2)
        (row0 nr : BitVec 7) (ix : BitVec 2) row slot,
      let cl := if src then Cluster.y else Cluster.x
      rowBase r row0.toNat ix.toNat (nr.toNat + 1) = some row →
      (∀ x ∈ r.sums, x.accY ≠ src ∨ x.row < row ∨ row + nr.toNat < x.row) → drainOk (tileOf (ctxOf s cid) cl).atype dfc.toNat = true →
      (if dkind = 1 then slotOperand r dslot.toNat = .inr slot ∧ drainFits r slot dfc.toNat = true else slot = 0) →
      Answers (.drn src dkind dacc dslot dfc mode sat amax row0 nr ix) s (fun t => ∃ q, runOf t n = some q ∧ q.pc = r.pc
        ∧ q.busy = true ∧ q.drain = some { srcY := src, slots := if dkind = 1 then some slot else none, dstY := dacc, fc := dfc.toNat
                                           mode := if mode = 7 then r.r.mode else mode.toNat, sat := sat, track := amax != 0
                                           next := row, last := row + nr.toNat
                                           dseq := (kget (ctxOf s cid) 6).toNat }))
    ∧ (∀ (write cacc : Bool) (crow : BitVec 7) (racc : Bool) (rrow : BitVec 7), r.sums = [] →
      Answers (.cks write cacc crow racc rrow) s (fun t => ∃ q, runOf t n = some q ∧ q.pc = r.pc ∧ q.busy = true
        ∧ q.cks = (if write then [(cacc, crow.toNat, (checkVectors r).1), (racc, rrow.toNat, (checkVectors r).2)] else [])
        ∧ q.colsum = [] ∧ q.streamed = 0 ∧ ∀ v ∈ q.asum, v = 0))

/-- R45, R49, R85, R113 to R121, R128, R130, R131, R321, R324: each event of a matrix engine completes, and what it leaves.
`routineStart`: a routine cut short goes on first, else the oldest queued one starts, once its segment has ended and what its
context had issued to its accumulator tiles has performed. `actRowLands`: the oldest streamed row joins its accumulator row.
`drainRow`: one row is converted and written. `microOpComplete`: a drain, a checksum and a routine end; a pre-emption or
MDEPTH stops the engine at the end of a drain. `mdepthExpiry`: a routine that has reached MDEPTH stops with cause 4. That a drain
reads SRSEED anew for each row that it converts is this model's choice (log 93). -/
def Obligations.EngineEvents : Prop :=
  (∀ (s : State) (n : Nat), (coreOf s n).run = none → s.cold.pause = false → engineHeld s = false →
    (∀ r rest, (coreOf s n).cuts = r :: rest →
      let t := setCore s n { coreOf s n with cuts := rest, run := some (goOnRun s r) }
      exec (.routineStart n) s = .next (resumeRun t n (goOnRun s r)))
    ∧ (∀ q rest, (coreOf s n).cuts = [] → (coreOf s n).mqueue = q :: rest → q.waits = false → handedOver s q.cid q.tiles = true →
      let t := landReady s q.cid
      exec (.routineStart n) s = .next (setCore t n { coreOf t n with mqueue := rest, run := some (freshRun q) })))
  ∧ (∀ (s : State) (n : Nat) (r : Run), runOf s n = some r → s.cold.pause = false →
    let cid := r.r.cid
    let stop := (coreOf s n).stopFor.contains (cid % 4)
    (∀ x rest, r.sums = x :: rest →
      let cl := if x.accY then Cluster.y else Cluster.x
      let old (c : Nat) := lane (readRow (ctxOf s cid) cl x.row).bits 32 c
      let t := returnAccs (setRun (landRow s cid x) n { r with sums := rest }) n
      exec (.actRowLands n) s = .next t
      ∧ (∀ q, runOf t n = some q → q.sums = rest)
      ∧ (x.sums.length = 128 → ∀ c, c < 128 → lane (readRow (ctxOf t cid) cl x.row).bits 32 c =
          if x.op = 4 then intCode 32 (signedOf 32 (if x.fresh then 0 else old c) + signedOf 32 (x.sums.getD c 0).toNat)
          else combineAcc x.op (if x.fresh then identityCode x.op else old c) (x.sums.getD c 0).toNat % 2 ^ 32))
    ∧ (∀ d, r.drain = some d → d.next ≤ d.last →
      let tile := tileOf (ctxOf s cid) (if d.srcY then .y else .x)
      let vs := (List.range 128).map (lane (readRow (ctxOf s cid) (if d.srcY then .y else .x) d.next).bits 32)
      let codes := drainCodes (ctxOf s cid) tile.atype d vs
      ∃ t, exec (.drainRow n) s = .next t ∧ runOf t n = some { r with drain := some { d with next := d.next + 1 } }
        ∧ (d.slots = none → readRow (ctxOf t cid) (if d.dstY then .y else .x) d.next
          = { bits := rowOfLanes (fmtWidth d.fc) codes, full := true })
        ∧ (tileOf (ctxOf t cid) (if d.srcY then .y else .x)).amax
          = if d.track then BitVec.ofNat 32 (amaxAfter tile.atype tile.amax.toNat vs) else tile.amax)
    ∧ (∀ d, r.drain = some d → r.busy = true → d.last < d.next →
      (depthOut s r = false → stop = false →
        let t := returnAccs (finishUop s n r) n
        exec (.microOpComplete n) s = .next t
        ∧ (∃ q, runOf t n = some q ∧ q.pc = r.pc + 1 ∧ q.busy = false ∧ q.drain = none)
        ∧ (tileOf (ctxOf t cid) (if d.srcY then .y else .x)).atype = .none
        ∧ kget (ctxOf t cid) 6 = BitVec.ofNat 64 (((kget (ctxOf s cid) 6).toNat + 1) % 2 ^ 32))
      ∧ ((depthOut s r = true ∨ (stop = true ∧ cid / 4 = n)) → ∃ t, exec (.microOpComplete n) s = .next t ∧ runOf t n = none))
    ∧ (r.drain = none → r.busy = true → depthOut s r = false →
      let t := returnAccs (finishUop s n r) n
      exec (.microOpComplete n) s = .next t
      ∧ (∃ q, runOf t n = some q ∧ q.pc = r.pc + 1 ∧ q.busy = false ∧ q.cks = [])
      ∧ ∀ y row v, r.cks = [(y, row, v)] →
        readRow (ctxOf t cid) (if y then .y else .x) row = { bits := rowOfLanes 32 (v.map (·.toNat)), full := true })
    ∧ (r.busy = false → r.r.start + r.r.len ≤ r.pc → r.sums = [] →
      exec (.microOpComplete n) s = .next (endRoutine s n r) ∧ runOf (endRoutine s n r) n = none)
    ∧ (r.busy = false → depthOut s r = true →
      exec (.mdepthExpiry n) s = .next (stopRoutine s n 4 r) ∧ runOf (stopRoutine s n 4 r) n = none
      ∧ (OfModule cid → (ctxOf (stopRoutine s n 4 r) cid).ecause = 4
        ∧ ∃ x ∈ (ctxOf (stopRoutine s n 4 r) cid).deferred, x.cause = 0x10 ∧ x.code = 4)))

/-! ### The copy slot (R43, R147 to R151, R256 to R273) -/

/-- R20, R43, R256 to R262: a copy between a plane, tile slots and an accumulator tile enters the queue of its core, its tiles
become the copy engine's, and a `cpin` writes the headers of its slots at issue. Of which headers a `cpout` can make a shape is this
model's choice (log 106). -/
def Obligations.CopyEntries : Prop :=
  ∀ (s : State) (o : Fields) (tile : Nat) (byReg : Bool) (a : Word), Quiet s → Placed s o [.cp] →
    (coreOf s (myCore s)).cqueue.length < Config.copyQueueDepth → tile < 192 →
    (if byReg then Holds s o.srcb.toNat (BitVec.ofNat 64 tile) else o.short = BitVec.ofNat 8 tile) → Holds s o.srca.toNat a →
    let core := coreOf s (myCore s)
    let heads := core.heads
    let op : CopyOp := { id := 0, cid := 0, kind := .cpin, va := a, word := 0, slot := tile, nslots := 1, row := 0, nrows := 32
                         rowBytes := 512 }
    (∀ d, o.dst.toNat < 0x68 → Holds s o.dst.toNat d → (∀ i, i ≤ d.toNat % 4 → OwnSlot s (tile + i)) →
      let x := ccwOf d
      (ccwOk tile x = true →
        exec (if byReg then .cpinReg o else .cpin o) s = .next (goOn (queueCopy
          (setCore s (myCore s) { core with heads := (slotRun tile (d.toNat % 4 + 1)).foldl (fun h k =>
            fset h k (withShape (fget h k 0) x.layout x.htrans x.fmt x.swz)) heads })
          { op with word := d, nslots := d.toNat % 4 + 1, row := x.start, nrows := ccwRows x, rowBytes := 16 * ccwWidth x })))
      ∧ (d.toNat / 4 % 2 ^ 17 = 0 → ccwOk tile (outShape s tile x) = true →
        exec (if byReg then .cpoutReg o else .cpout o) s = .next (goOn (queueCopy s
          { op with kind := .cpout, word := d, nslots := d.toNat % 4 + 1, row := x.start, nrows := ccwRows (outShape s tile x)
                    rowBytes := 16 * ccwWidth (outShape s tile x) }))))
    ∧ (∀ d, o.dst.toNat < 0x68 → Holds s o.dst.toNat d → d.toNat < 2 ^ 17 →
      let row0 := d.toNat / 8 % 128
      let rows := d.toNat / 1024 + 1
      let n := if d.getLsbD 2 then 0 else (rows + 31) / 32
      row0 + rows ≤ 128 → (d.getLsbD 2 = true → tile = 0) → (∀ i, i < n → OwnSlot s (tile + i)) →
      tileTaken s (if d.getLsbD 1 then .y else .x) = false →
      exec (if byReg then .cpaccReg o else .cpacc o) s = .next (goOn (queueCopy s
        { op with kind := if d.getLsbD 0 then .cpaccOut else .cpaccIn, word := d, nslots := n, accY := some (d.getLsbD 1)
                  row := row0, nrows := row0 + rows })))
    ∧ (o.dst = 0 → OwnSlot s tile →
      exec (if byReg then .cpfillReg o else .cpfill o) s = .next (goOn (queueCopy s
        { op with kind := .cpfill, va := 0, word := a &&& 0xFFFF_FFFF })))

/-- R148, R149, R263 to R265, R411: a slot is posted to a channel of the core, and zeroed unless KEEP; a send enters the copy queue;
the report on a channel clears OVR; a head latch gives its oldest ready slot. An entry of the channel table that cannot be read is a
detected error of kind 8 (log 73). That the value of a head latch lands after 2 cycles, that POSTED counts the ready slots too, and
that WAITQ shows 15 for more, is this model's choice (logs 39 and 104). -/
def Obligations.ChannelEntries : Prop :=
  ∀ (s : State) (o : Fields), Quiet s → Placed s o [.cp] →
    let n := myCore s
    let core := coreOf s n
    let broken (ch : Nat) : Host.Outcome State Fault Refusal := .next (detected s 8 0 ch { cause := 0x15, slot := slotNumber o.slot })
    (∀ (tile : Nat) (byReg : Bool) (a : Word), tile < 192 → OwnSlot s tile → Holds s o.srca.toNat a →
      (if byReg then Holds s o.srcb.toNat (BitVec.ofNat 64 tile) else o.short = BitVec.ofNat 8 tile) →
      (∀ ch, o.dst = 0 → ch < 64 → (a = BitVec.ofNat 64 ch ∨ a = BitVec.ofNat 64 (ch + 64)) →
        ((chanOf s n ch).bad = true → exec (if byReg then .chpostReg o else .chpost o) s = broken ch)
        ∧ ((chanOf s n ch).bad = false → entryOk (chanOf s n ch).entry = true → eCtx (chanOf s n ch).entry = s.cur % 4 →
        (chanOf s n ch).posted.length < eDepth (chanOf s n ch).entry →
        Answers (if byReg then .chpostReg o else .chpost o) s (fun t =>
          (chanOf t n ch).posted = (chanOf s n ch).posted ++ [{ slot := tile, count := 0, ready := false }]
            ∧ slotOwner (coreOf t n) tile = .channel
            ∧ (a = BitVec.ofNat 64 ch → ∀ r, r / 32 = tile → spadRow (coreOf t n) r = 0)
            ∧ (∀ r, (r / 32 ≠ tile ∨ a ≠ BitVec.ofNat 64 ch) → spadRow (coreOf t n) r = spadRow core r)
            ∧ (me t).pc = (me s).npc)))
      ∧ (∀ d, o.dst.toNat < 0x68 → Holds s o.dst.toNat d → sendOk s a d = true →
        ((chanOf s (dCore a) (dChan a)).bad = true → exec (if byReg then .chsndReg o else .chsnd o) s = broken (dChan a))
        ∧ ((chanOf s (dCore a) (dChan a)).bad = false → core.cqueue.length < Config.copyQueueDepth →
        exec (if byReg then .chsndReg o else .chsnd o) s = .next (goOn (queueCopy (noteChan s (dCore a) (dChan a) s.cur)
          { id := 0, cid := 0, kind := .chsnd, va := 0, word := d, word2 := a, slot := tile, nslots := 1
            row := 0, nrows := 1, rowBytes := 512 })))))
    ∧ (∀ a, Holds s o.srca.toNat a → o.short = 0 → FreeScalar s o.dst.toNat →
      let ch := a.toNat % 64
      ((chanOf s n ch).bad = true → exec (.chq o) s = broken ch)
      ∧ ((chanOf s n ch).bad = false →
        let t := noteChan (sendResult s { due := now s + 2, dest := .scalar o.dst.toNat, val := wordOf (chanReport s n ch) }) n ch s.cur
        exec (.chq o) s = .next (goOn (setChan t n ch { chanOf t n ch with ovr := false }))))
    ∧ (∀ k slot rest, k < 8 → o.srca = 0 → o.short = BitVec.ofNat 8 (8 + k) → FreeScalar s o.dst.toNat →
      (fget (me s).latches k (0, [])).2 = slot :: rest →
      Sends (.chqLatch o) s 2 (.scalar o.dst.toNat) (wordOf (BitVec.ofNat 64 slot)))

/-- R70 to R74, R266, R267: a plane instruction leaves its destination empty; where its check fails the status code is on its
way, else an invalidation carries the change to its commit point. Which code of several comes, that a code arrives as a hub
counter does, and that a plane which another package is creating gives code 2, is this model's choice (logs 79, 48 and 102). -/
def Obligations.PlaneEntries : Prop :=
  ∀ (s : State) (o : Fields) (a : Word), Quiet s → Placed s o [.cp] → FreeScalar s o.dst.toNat → Holds s o.srca.toNat a →
    let fails (i : Instr) (code : Nat) : Prop :=
      exec i s = .next (goOn (startPending s o.dst.toNat (.query (BitVec.ofNat 64 (0x8000_0000_0000_0000 + code)))))
    let starts (i : Instr) (c : Change) : Prop := Answers i s (fun t =>
      (∃ v ∈ t.invals, v.id = s.nextId ∧ v.change = c) ∧ (∃ p ∈ t.pends, p.cid = s.cur ∧ p.code = o.dst.toNat ∧ p.kind = .planeOp s.nextId)
        ∧ (readReg (me t) o.dst.toNat).full = hardZero o.dst.toNat)
    let p := a.toNat / 2 ^ 60
    let pos := a.toNat % 2 ^ 60
    let k := (o.short.signExtend 64 : Word).toNat
    (∀ b, HoldsB s o b →
      (regionAt s (asidOf (me s)) pos = none → fails (.plnew o) 5 ∧ (b.toNat / 4 % 2 ^ 30 = 0 → fails (.plprot o) 5))
      ∧ (∀ n r, regionAt s (asidOf (me s)) pos = some (n, r) →
        (plnewCode s r p b.toNat ≠ 0 → fails (.plnew o) (plnewCode s r p b.toNat))
        ∧ (plnewCode s r p b.toNat = 0 → (∃ e ∈ s.regions, e.2 = r ∧ farCreates s e.1 p = true) → fails (.plnew o) 2)
        ∧ (plnewCode s r p b.toNat = 0 → (∀ e ∈ s.regions, e.2 = r → farCreates s e.1 p = false) → starts (.plnew o) (.plnew n p b))
        ∧ (b.toNat / 4 % 2 ^ 30 = 0 →
          let code := plprotCode s r p (b.toNat % 4) pos (b.toNat / 2 ^ 32)
          (code ≠ 0 → fails (.plprot o) code)
          ∧ (code = 0 → starts (.plprot o) (.plprot n p (b.toNat % 4) pos (b.toNat / 2 ^ 32))))))
    ∧ (noB o = true → ∀ n r, regionAt s (asidOf (me s)) pos = some (n, r) →
      (p = 0 → fails (.pldel o) 4)
      ∧ (p ≠ 0 → dEn (descAt s r p) = false → fails (.pldel o) 6)
      ∧ (p ≠ 0 → dEn (descAt s r p) = true → starts (.pldel o) (.pldel n p)))
    ∧ (k < 2 → ∀ n r, regionAt s (asidOf (me s)) pos = some (n, r) →
      (plpinCode s r p (k == 1) ≠ 0 → fails (.plpin o) (plpinCode s r p (k == 1)))
      ∧ (plpinCode s r p (k == 1) = 0 → starts (.plpin o) (.plpin n p (k == 1))))
    ∧ (k < 7 → exec (.plq o) s = .next (goOn (startPending s o.dst.toNat (.query (plqValue s a k)))))

/-- R192, R267 to R273: an empty operation, a node posted to the harbour, the end of a task, which waits until its stores have
passed their checks, the index, the extent and the number of its levels, with the trap of a level that the launch does not have, and
the entries of the control-word table, whose fence waits for them. That `ifence` both blocks and leaves its destination empty is
this model's choice (log 38), and so is the status of an ended context (log 85). -/
def Obligations.TaskEntries : Prop :=
  ∀ (s : State) (o : Fields), Quiet s →
    exec (.nop o) s = .next (goOn s)
    ∧ (Placed s o [.cp] →
      (let levels := ((me s).task.map (·.levels)).getD []
        let k := o.short.toNat
        let reads (n : Nat) : Prop := Sends (.targ o) s 2 (.scalar o.dst.toNat) (wordOf (BitVec.ofNat 64 n))
        let traps : Prop := exec (.targ o) s = .next (trapHere s { cause := 3, slot := slotNumber o.slot })
        (noA o = true → FreeScalar s o.dst.toNat →
          (∀ index extent, k < 8 → levels[k]? = some (index, extent) → reads index)
          ∧ (∀ index extent, 8 ≤ k → k < 16 → levels[k - 8]? = some (index, extent) → reads extent)
          ∧ (k = 16 → reads levels.length))
        ∧ (k < 8 → levels.length ≤ k → traps) ∧ (8 ≤ k → k < 16 → levels.length ≤ k - 8 → traps) ∧ (17 ≤ k → traps))
      ∧ (noA o = true → noB o = true → o.dst.toNat < 0x68 → (me s).cwtwOut + (me s).cwtrOut ≠ 0 →
        exec (.ifence o) s = .next (blockOn s .cwtOps (destWaits s (.scalar o.dst.toNat))))
      ∧ (noA o = true → noB o = true → FreeScalar s o.dst.toNat → (me s).cwtwOut = 0 → (me s).cwtrOut = 0 →
        Answers (.ifence o) s (fun t => (me t).pc = (me s).npc ∧ (readReg (me t) o.dst.toNat).full = hardZero o.dst.toNat
          ∧ ∃ p ∈ t.pends, p.cid = s.cur ∧ p.code = o.dst.toNat ∧ p.kind = .query (BitVec.ofNat 64 (lstate (me s)))))
      ∧ (∀ a, Holds s o.srca.toNat a → noB o = true → o.dst = 0 → (me s).tagFail = none →
        Answers (.tend o) s (fun t => (me t).pc = (me s).npc ∧ now t = now s + 1
          ∧ (storesShort s s.cur 1 = false → (me t).status = .blocked .ended
            ∧ ∀ k, (me s).task = some k → (me t).task = some { k with tend := a.setWidth 32, ending := .ok })
          ∧ (storesShort s s.cur 1 = true → (me t).status = .blocked (.stores 1) ∧ (me t).tended = true
            ∧ ∀ k, (me s).task = some k → (me t).task = some { k with tend := a.setWidth 32 })))
      ∧ (∀ a acc, Holds s o.srca.toNat a → noB o = true → FreeScalar s o.dst.toNat → (me s).tagFail = none →
        fenceWaits s 2 = [] → translate s (threadReq s a 64 64 false) = .ok acc → isLocal acc = true →
        s.cold.hbmHold = false → readClass s s.cur (me s).seq acc = 0 →
        let bytes := accBytes s s.cur (me s).seq acc []
        roomFor s (recNat bytes 2 1) 1 = true →
        Answers (.post o) s (fun t => (me t).pc = (me s).npc ∧ (readReg (me t) o.dst.toNat).full = hardZero o.dst.toNat
          ∧ ∃ p ∈ t.pends, p.cid = s.cur ∧ p.code = o.dst.toNat
            ∧ p.kind = .post bytes (((me s).task.map (·.launch)).getD 0)))
      ∧ (∀ a, Holds s o.srca.toNat a → (coreOf s (myCore s)).cqueue.length < Config.copyQueueDepth → o.dst = 0 →
        (noB o = true → Answers (.cwtw o) s (fun t => lstate (me t) = 1 ∧ (me t).cwtwOut = (me s).cwtwOut + 1
          ∧ ∃ p, (coreOf t (myCore s)).cqueue = (coreOf s (myCore s)).cqueue ++ [p] ∧ p.kind = .cwtw ∧ p.va = a))
        ∧ (∀ b, Holds s o.srcb.toNat b → b.toNat < 512 → Answers (.cwtr o) s (fun t => (me t).cwtrOut = (me s).cwtrOut + 1
          ∧ ∃ p, (coreOf t (myCore s)).cqueue = (coreOf s (myCore s)).cqueue ++ [p] ∧ p.kind = .cwtr ∧ p.va = a ∧ p.word = b))))

/-! ### Results that arrive, and stores that perform -/

/-- R221, R222, R242, R244, R248, R251: the data of an outstanding load fills its registers or its row; an atomic fills its
register with the old value and memory holds the new one, and one of 8 bytes without `.w8` does so unit by unit, the high unit
of a minimum or maximum first (log 70); a jump table's header chooses the entry or the default, and a target
that is odd leaves the trap of a jump table. -/
def Obligations.LoadsReturn : Prop :=
  ∀ (s : State) (id : Nat) (remote : List Byte) (l : PLoad), s.loads.find? (fun m => m.id == id) = some l →
    s.cold.hbmHold = false → l.held = false → torn s l = false → headAhead s l = false → earlierLoads s l = [] → l.sample = none →
    l.gen = none → OfModule l.cid → readClass s l.cid l.seq l.acc = 0 → spansClass s (accSpans l.acc) l.acc.colour = .clean →
    let bytes := accBytes s l.cid l.seq l.acc (answers s l.acc remote).2
    let number : Word := BitVec.ofNat 64 (leNat bytes)
    let gone (t : State) : Prop := ∀ m ∈ t.loads, m.id ≠ id
    let fills (t : State) (code n : Nat) (v : Word) : Prop :=
      if n = 16 then readReg (ctxOf t l.cid) code = filled code (BitVec.ofNat 64 (leNat (bytes.take 8)))
        ∧ readReg (ctxOf t l.cid) (code + 1) = filled (code + 1) (BitVec.ofNat 64 (leNat (bytes.drop 8)))
      else readReg (ctxOf t l.cid) code = filled code v
    (∀ code n signed, l.use = .scalar code n signed → Answers (.loadDataReturn id remote) s (fun t => gone t
      ∧ fills t code n (if signed then BitVec.ofInt 64 (signedOf (8 * n) (leNat bytes)) else number)))
    ∧ (∀ cl r, l.use = .row cl r → Answers (.loadDataReturn id remote) s (fun t => gone t
      ∧ readRow (ctxOf t l.cid) cl r = { bits := rowOfBytes bytes, full := true }))
    ∧ (∀ op code n ws whole a, l.use = .atom op code n ws whole → atomMayPerform s l = true → splitAtom l = false →
      accSpans l.acc = [(a, n)] →
      let k := if n = 16 then 2 else 1
      let v := if op = 9 then operandNum n (ws.drop k) else operandNum n ws
      Answers (.loadDataReturn id remote) s (fun t => gone t ∧ fills t code n number
        ∧ memBytes t.mem a n = leBytes n (atomNew op n (leNat bytes) v (operandNum n ws))
        ∧ ∀ b, (b < a ∨ a + n ≤ b) → memByte t.mem b = memByte s.mem b))
    ∧ (∀ op code ws p a, l.use = .atom op code 8 ws false → atomMayPerform s l = true → l.acc.parts = [p] → p.frame = some a → p.n = 8 →
      let unit (i : Nat) := accBytes s l.cid l.seq (unitAcc l.acc i) []
      let k := if l.half.isSome = highFirst op then 0 else 1
      Answers (.loadDataReturn id remote) s (fun t =>
        memBytes t.mem (a + 4 * k) 4 = leBytes 4 (atomUnit op (operandNum 8 ws) (l.half.map leNat) (leNat (unit k)))
        ∧ (∀ b, (b < a + 4 * k ∨ a + 4 * k + 4 ≤ b) → memByte t.mem b = memByte s.mem b)
        ∧ (l.half = none → ∃ m ∈ t.loads, m.id = id ∧ m.half = some (unit k))
        ∧ (∀ h, l.half = some h → gone t ∧ readReg (ctxOf t l.cid) code
          = filled code (BitVec.ofNat 64 (leNat (if highFirst op then unit k ++ h else h ++ unit k))))))
    ∧ (let data := accBytes s l.cid l.seq l.acc (answers s l.acc []).2
      let sets (i : Instr) (b : Nat) (va v : Word) : Prop :=
        (v.getLsbD 0 = false → Answers i s (fun t => readReg (ctxOf t l.cid) (0x50 + b) = filled (0x50 + b) v))
        ∧ (v.getLsbD 0 = true → Answers i s (fun t => ∃ x ∈ (ctxOf t l.cid).deferred, x.cause = 0x0B ∧ x.qual = 1 ∧ x.addr = va ∧ x.unit = l.pc))
      (∀ b index table, l.use = .jtabHead b index table → data.length = 16 →
        (leNat ((data.drop 4).take 4) ≠ 0 → Answers (.jtabHeaderReturn id) s (fun t =>
          ∃ x ∈ (ctxOf t l.cid).deferred, x.cause = 0x0B ∧ x.qual = 0 ∧ x.addr = table ∧ x.unit = l.pc))
        ∧ (leNat ((data.drop 4).take 4) = 0 → leNat (data.take 4) ≤ index.toNat →
          sets (.jtabHeaderReturn id) b (table + 8) (BitVec.ofNat 64 (leNat (data.drop 8))))
        ∧ (leNat ((data.drop 4).take 4) = 0 → index.toNat < leNat (data.take 4) → Answers (.jtabHeaderReturn id) s (fun t =>
          (∃ m ∈ t.loads, m.cid = l.cid ∧ m.use = .jtabEntry b (table + 16 + 8 * index))
            ∨ ∃ x ∈ (ctxOf t l.cid).deferred, x.cause = 0x0B ∧ x.qual = 2 ∧ x.addr = table + 16 + 8 * index ∧ x.unit = l.pc)))
      ∧ (∀ b va, l.use = .jtabEntry b va → data.length = 8 →
        sets (.jtabEntryReturn id) b va (BitVec.ofNat 64 (leNat data))))

/-- R96, R194, R208, R209, R237, R255, R266, R293, R302, R314, R344: a result of fixed latency lands, in a scalar register, a row, one
lane of it, a predicate, a q register with its lineage, or a k-space register, a write of MDEPTH in the harbour's register; one whose
destination a later producer has taken over and has yet to fill writes nothing, which is this model's choice (log 96); a
special-function row fills its destination 8 + n/32 cycles after its turn came, a sample of the engine no earlier than 3 cycles
after its issue, a counter and a status code theirs; a waiting context translates and reads its unit again. -/
def Obligations.ResultsArrive : Prop :=
  (∀ (s : State) (cid : Nat) (f : InFlight) (fs gs : List InFlight), (ctxOf s cid).flight = fs ++ f :: gs →
    (∀ g ∈ fs ++ gs, f.due < g.due) → (ctxOf s cid).rebase = false → s.cold.pause = false →
    fget? (ctxOf s cid).arch.kspace 0x30 = none →
    let c := ctxOf s cid
    Answers (.fixedResultLands cid) s (fun t =>
      let d := ctxOf t cid
      (f.dest ≠ .kspace 0x30 → d = landOne { c with flight := fs ++ gs } f)
      ∧ (f.under = true → destFull c f.dest = false → d.arch = c.arch ∧ d.tileX = c.tileX ∧ d.tileY = c.tileY)
      ∧ (f.under = false ∨ destFull c f.dest = true →
        (∀ v r, f.dest = .kspace 0x30 → f.val = .word v r → t.mdepth = v.toNat)
        ∧ (∀ code v r, f.dest = .scalar code → f.val = .word v r →
          readReg d code = if hardZero code then {} else { val := if 0x58 ≤ code then v &&& 1 else v, res := r, full := true })
        ∧ (∀ cl n v, f.dest = .row cl n → f.val = .row v → readRow d cl n = { bits := v, full := true })
        ∧ (∀ cl n i w v, f.dest = .row cl n → f.val = .lane i w v → (i + 1) * w ≤ 4096 → (readRow d cl n).full = true
          ∧ lane (readRow d cl n).bits w i = v.toNat % 2 ^ w
          ∧ ∀ j, j ≠ i → (j + 1) * w ≤ 4096 → lane (readRow d cl n).bits w j = lane (readRow c cl n).bits w j)
        ∧ (∀ cl n p, f.dest = .pred cl n → f.val = .pbits p → readPred d cl n = p)
        ∧ (∀ cl n lin, f.dest = .qreg cl n →
          (∀ v, f.val = .q (some v) lin → readQ d cl n = { codes := v, lin := lin })
          ∧ (f.val = .q none lin → readQ d cl n = { codes := (readQ c cl n).codes, lin := lin }))
        ∧ (∀ i v r, f.dest = .kspace i → i ≠ 0x30 → f.val = .word v r →
          kget d i = if i = 0x0A then (kget c i &&& 7 &&& ~~~v) ||| (v &&& 0xFFFF_0000) else v)
        ∧ (∀ i v, f.dest = .kspace i → i ≠ 0x30 → f.val = .orWord v → kget d i = kget c i ||| v)
        ∧ (∀ flags n, f.dest = .kspace 0x0A → f.val = .qstat flags n → kget d 0x0A = (kget c 0x0A &&& 0xFFFF_FFFF_0000_FFFF) ||| flags
          ||| BitVec.ofNat 64 (min ((kget c 0x0A).toNat / 2 ^ 16 % 2 ^ 16 + n) 0xFFFF * 2 ^ 16)))
      ∧ (coreOf t (cid / 4)).cycle = max (coreOf s (cid / 4)).cycle f.due))
  ∧ (∀ (s : State) (core : Nat) q rest, (coreOf s core).sfu = q :: rest → q.gen = none → OfModule q.cid →
    q.entered + 8 ≤ (coreOf s core).cycle → Answers (.sfuResult core) s (fun t => (coreOf t core).sfu = rest
      ∧ readRow (ctxOf t q.cid) q.cl q.row = { bits := q.val, full := true }))
  ∧ (∀ (s : State) (id : Nat) (p : Pending), s.pends.find? (fun q => q.id == id) = some p → p.gen = none → OfModule p.cid →
    let arrives (i : Instr) (v : Word) (more : State → Prop) : Prop := Answers i s (fun t =>
      readReg (ctxOf t p.cid) p.code = filled p.code v ∧ (∀ q ∈ t.pends, q.id ≠ id) ∧ more t)
    (∀ index, p.kind = .hub index → arrives (.hubCounterArrives id) (hubWord s (ctxOf s p.cid) index) (fun _ => True))
    ∧ (∀ v, p.kind = .query v → arrives (.hubCounterArrives id) v (fun _ => True))
    ∧ (∀ sel, p.kind = .mstat sel → p.since + 3 ≤ (coreOf s (p.cid / 4)).cycle → arrives (.mstatSample id) (mstatValue s p.cid sel)
      (fun t => (ctxOf t p.cid).iovf = if sel = 0x40 then false else (ctxOf s p.cid).iovf)))
  ∧ (∀ (s : State) (cid : Nat) va acc cond v, (ctxOf s cid).phase = .waitFor va cond v → waitXlate s cid va = .ok acc →
    s.cold.hbmHold = false → readClass s cid (ctxOf s cid).seq acc = 0 → waitHolds cond (waitUnit s cid acc) v = true →
    Answers (.waitReread cid) s (fun t => (ctxOf t cid).phase = .waitDone))

/-- R65, R78, R79, R409: a unit of a store performs at grp scope, unless the store fails its colour check, when none of it
does and its context takes note; then at pkg scope, where memory takes its bytes and nothing else of memory changes; where the sector
has been given another tag in between, the rest of the store is dropped and its context takes note. -/
def Obligations.StoresPerform : Prop :=
  ∀ (s : State) (p : PStore), s.wbuf.find? (fun q => q.id == p.id) = some p → s.cold.hbmHold = false →
    (mayPerformGrp s p = true →
      (failsCheck s p = false → Answers (.storePerformsGrp p.id) s (fun t =>
        { p with grp := true, checked := true } ∈ t.wbuf ∧ t.mem = s.mem))
      ∧ (failsCheck s p = true → (ctxOf s p.cid).tagFail = none → Answers (.storePerformsGrp p.id) s (fun t =>
        (∀ q ∈ t.wbuf, sameStore p q = false) ∧ (ctxOf t p.cid).tagFail = some (tagTrap p) ∧ t.mem = s.mem)))
    ∧ (mayPerformPkg s p = true →
      (p.kind = .data → sectorClass s (p.addr / 32) p.colour ≠ .tag → Answers (.storePerformsPkg p.id) s (fun t =>
        (∀ q ∈ t.wbuf, q.id ≠ p.id) ∧ memBytes t.mem p.addr p.bytes.length = p.bytes
          ∧ ∀ a, (a < p.addr ∨ p.addr + p.bytes.length ≤ a) → memByte t.mem a = memByte s.mem a))
      ∧ (p.kind = .data → sectorClass s (p.addr / 32) p.colour = .tag → (ctxOf s p.cid).tagFail = none →
        Answers (.storePerformsPkg p.id) s (fun t => (∀ q ∈ t.wbuf, sameStore p q = false)
          ∧ (ctxOf t p.cid).tagFail = some (tagTrap p) ∧ t.mem = s.mem))
      ∧ (p.kind ≠ .data → Answers (.storePerformsPkg p.id) s (fun t => (∀ q ∈ t.wbuf, q.id ≠ p.id) ∧ t.mem = s.mem)))

/-! ### Engines, memory and the harbour act -/

/-- R31, R45, R85, R127, R149, R151, R180, R181, R258 to R262, R271, R272, R425: the head of a copy queue starts; its rows move, those
between an accumulator tile and a slot or a plane, those of an image of the control-word table, of an entry of it and of a COPY node
among them; the image goes into the load bank; a send is combined into the receiver's slot and counted, or steps aside where no slot
takes it; a COPY node finishes. Nothing starts before its segment has ended, the earlier loads of its context have performed and so
has what the context had issued to its accumulator tile; no row moves while a bank that it needs is taken; a core that is held does
neither. A COPY node reads no byte of a store that has performed for its core group alone, and writes none of a unit which such a store
covers in part (R78, R79). -/
def Obligations.CopyEvents : Prop :=
  ∀ (s : State) (n : Nat) (o : CopyOp) (rest : List CopyOp), (coreOf s n).cqueue = o :: rest → s.cold.pause = false →
    let core := coreOf s n
    (copyHeld s n = true ∨ (o.started = false ∧ (o.waits = true ∨ loadsAhead s o = true ∨ handedOver s o.cid (copyTiles o) = false)) →
      exec (.copyStart n) s = .next s)
    ∧ (copyHeld s n = true ∨ (o.started = true ∧ ∃ b ∈ wordBanks (copyWords core o), bankTaken core core.cycle b = true) →
      exec (.copyRow n) s = .next s)
    ∧ (copyHeld s n = false → o.started = false → o.waits = false → loadsAhead s o = false → handedOver s o.cid (copyTiles o) = true →
      let x := chanOf s (dCore o.word2) (dChan o.word2)
      let t := landReady s o.cid
      (o.kind ≠ .chsnd ∨ ((fillSlot x).isSome = true ∧ sendAhead core o = false) →
        exec (.copyStart n) s = .next (setCore t n { core with cqueue := { o with started := true } :: rest }))
      ∧ (o.kind = .chsnd → (fillSlot x = none ∨ sendAhead core o = true) → core.sendWait.length < Config.sendWaitDepth →
        exec (.copyStart n) s = .next (setCore t n { core with
          cqueue := rest, sendWait := core.sendWait ++ [{ o with started := true }] })))
    ∧ (copyHeld s n = false → o.started = true → o.held = none → o.row < o.nrows → s.cold.hbmHold = false →
      (∀ b ∈ wordBanks (copyWords core o), bankTaken core core.cycle b = false) →
      let steps (t : State) (p : CopyOp) : Prop := o.row + 1 < o.nrows → (coreOf t n).cqueue = { p with row := o.row + 1 } :: rest
      (o.kind = .cpfill → Answers (.copyRow n) s (fun t => steps t o
        ∧ spadRow (coreOf t n) (32 * o.slot + o.row) = rowOfLanes 32 (List.replicate 128 (o.word.toNat % 2 ^ 32))))
      ∧ (∀ acc, o.kind = .cpin →
        let x := ccwOf o.word
        let va := posAdd o.va (o.row * (if x.stride = 0 then rowStep s n (asidOf (ctxOf s o.cid)) o.va o.rowBytes else x.stride))
        translate s (rowReq s o va o.rowBytes 1 false (some (ccwWidth x))) = .ok acc → isLocal acc = true →
        readClass s o.cid o.seq acc = 0 →
        Answers (.copyRow n) s (fun t => steps t o ∧ (coreOf t n).spad
          = (putTileRow core o.slot x.layout x.xpose (ccwWidth x) o.row (accBytes s o.cid o.seq acc [])).spad))
      ∧ (∀ acc, o.kind = .cpout →
        let w := fmtBits (hFmt (headOf core o.slot))
        let layout := hLayout (headOf core (o.slot + 16 * w * o.row / 16384))
        let st := o.word.toNat / 2 ^ 19 % 2 ^ 32
        let va := posAdd o.va (o.row * (if st = 0 then rowStep s n (asidOf (ctxOf s o.cid)) o.va o.rowBytes else st))
        translate s (rowReq s o va o.rowBytes 1 true (some w)) = .ok acc → core.spadBad = [] →
        Answers (.copyRow n) s (fun t =>
          steps t { o with outs := o.outs ++ [(va, tileRowBytes core o.slot layout w o.row, acc)] }))
      ∧ (o.word.getLsbD 2 = false → acwRow0 o.word ≤ o.row →
        let k := 32 * o.slot + (o.row - acwRow0 o.word)
        (o.kind = .cpaccIn → core.spadBad = [] → Answers (.copyRow n) s (fun t => steps t o
          ∧ readRow (ctxOf t o.cid) (accOf o) o.row = { bits := spadRow core k, full := true }))
        ∧ (o.kind = .cpaccOut → Answers (.copyRow n) s (fun t => steps t o
          ∧ spadRow (coreOf t n) k = (readRow (ctxOf s o.cid) (accOf o) o.row).bits)))
      ∧ (∀ acc, o.word.getLsbD 2 = true →
        let va := posAdd o.va (512 * (o.row - acwRow0 o.word))
        (o.kind = .cpaccIn → translate s (rowReq s o va 512 4 false none) = .ok acc → isLocal acc = true →
          readClass s o.cid o.seq acc = 0 → Answers (.copyRow n) s (fun t => steps t o
          ∧ readRow (ctxOf t o.cid) (accOf o) o.row = { bits := rowOfBytes (accBytes s o.cid o.seq acc []), full := true }))
        ∧ (o.kind = .cpaccOut → translate s (rowReq s o va 512 4 true none) = .ok acc → Answers (.copyRow n) s (fun t =>
          steps t { o with outs := o.outs ++ [(va, rowBytes (readRow (ctxOf s o.cid) (accOf o) o.row).bits, acc)] })))
      ∧ (∀ acc, o.kind = .cwtw →
        let va := posAdd o.va (o.row * imageStep s n (asidOf (ctxOf s o.cid)) o.va)
        translate s (rowReq s o va 32 32 false none) = .ok acc → isLocal acc = true → readClass s o.cid o.seq acc = 0 →
        let data := o.data ++ accBytes s o.cid o.seq acc []
        let len := leNat ((data.drop 4).take 4)
        Answers (.copyRow n) s (fun t => (coreOf t n).cqueue = { o with
          data := data, row := o.row + 1, nrows := if 16384 < len then 1 else max 1 ((len + 31) / 32) } :: rest))
      ∧ (∀ acc, o.kind = .cwtr → o.nrows = o.row + 1 → translate s (rowReq s o o.va 32 32 true none) = .ok acc →
        entryBad (ctxOf s o.cid) o.word.toNat = false →
        Answers (.copyRow n) s (fun t => t = finishCopy (noteEntry s o.cid o.word.toNat) n { o with
            outs := [(o.va, leBytes 32 (fget (ctxOf s o.cid).cwt o.word.toNat 0).toNat, acc)] }
          ∧ (coreOf t n).cqueue = rest ∧ (ctxOf t o.cid).cwtrOut = (ctxOf s o.cid).cwtrOut - 1))
      ∧ (∀ p k m a b q f, o.kind = .node →
        let asid := nodeAsid s o.word.toNat
        let size := nodeLen s o.word.toNat
        let via (va : Word) (write : Bool) : Xlate := translate s (hubReq (.copy n (o.row % 2)) asid va m 1 write)
        (nodePieces s n asid (o.va.toNat % 2 ^ 60) size.1 size.2)[o.row]? = some (p, k, m) →
        via (pieceVa s n asid p o.va k size.1) false = .ok a → isLocal a = true →
        via (pieceVa s n asid p o.word2 k size.1) true = .ok b → readClass s (4 * n) 0 a = 0 → tagBad s (accSpans b) b.colour = false →
        accReads s (4 * n) 0 a = [] → halfSeen s (accSpans b) = false → b.parts = [q] → q.frame = some f → q.n = m →
        let bytes := (accBytes s (4 * n) 0 a []).take m
        Answers (.copyRow n) s (fun t => (coreOf t n).cqueue = { o with row := o.row + 1 } :: rest
          ∧ memBytes t.mem f bytes.length = bytes ∧ ∀ x, (x < f ∨ f + bytes.length ≤ x) → memByte t.mem x = memByte s.mem x)))
    ∧ (o.started = true → o.nrows ≤ o.row →
      (o.kind = .cwtw → o.cid / 4 = n → copyHeld s n = false → (ctxOf s o.cid).cwtwOut = 1 →
        let img := parseImage o.data
        let c := ctxOf s o.cid
        Answers (.cwtwComplete o.cid) s (fun t => (coreOf t n).cqueue = rest
          ∧ (∀ i h, img.2.1[i]? = some h → fget (ctxOf t o.cid).cwt (256 * (1 - runBank c) + img.1 + i) 0 = BitVec.ofNat 256 h)
          ∧ lstate (ctxOf t o.cid) = if c.cwtwFail || !img.2.2 then 3 else 2))
      ∧ (∀ nd, o.kind = .node → fget? s.nodes o.word.toNat = some nd → nd.place = n → nd.state = .running →
        exec (.copyNodeFinish o.word.toNat) s = .next (nodeFinished (setCore s n { core with cqueue := rest }) o.word.toNat)))
    ∧ (copyHeld s n = false → o.kind = .chsnd → o.started = true →
      let r := dCore o.word2
      let ch := dChan o.word2
      let x := chanOf s r ch
      let words := o.word.toNat % 2 ^ 13
      let off := o.word.toNat / 2 ^ 13 % 2 ^ 12
      x.bad = false → entryOk x.entry = true →
      (fillSlot x = none → exec (.chsndDeliver n 0) s = .next (startCopy s n o))
      ∧ ∀ p, fillSlot x = some p → sendHeld s n o p = false → off + words ≤ eRows x.entry * 128 → core.spadBad = [] →
      (coreOf s r).spadBad = [] → Answers (.chsndDeliver n 0) s (fun t => (coreOf t n).cqueue = rest
        ∧ (coreOf t r).spad = (combineInto (coreOf s r) (eType x.entry) p.slot off (slotWords core o.slot 0 words)).spad
        ∧ ∃ q ∈ (chanOf t r ch).posted, q.slot = p.slot ∧ q.count = p.count + words
          ∧ q.ready = decide (eExpect x.entry ≤ p.count + words)))

/-- R66, R68, R74, R392 to R394: a walk fills a translation cache; caches acknowledge an invalidation, one of another package is
answered to it after the last of them, and at the commit point no entry of its range is left; pages move out to their backing, and in:
the page's slot is present, with the permission it had, and names a new frame, which holds the saved bytes or zero; the requests for a
page of a region with a pod-shared plane are answered at the commit point of its invalidation. That a page-in updates every cached
entry in its event is this model's choice (log 17), and so are the form of the answer to another package (log 80), which of two
packages creates a plane (log 102), and the block of a page whose plane got its flash backing late (log 60). -/
def Obligations.MemoryEvents : Prop :=
  ∀ (s : State), s.cold.hbmHold = false →
    (∀ cache asid page psize pse rpd, cacheSize cache ≠ 0 → walkVia s (walkerOf cache) asid page = .found psize pse rpd →
      let base := page / Config.pageBytes psize * Config.pageBytes psize
      (∀ i ∈ s.invals, inRange (changeRange s i.change) asid base = false) →
      (∀ e ∈ s.caches, ¬ (e.cache = cache ∧ e.asid = asid ∧ e.page = base ∧ e.psize = psize)) →
      Answers (.pseWalkComplete cache asid page) s (fun t => t.mem = s.mem
        ∧ { cache := cache, asid := asid, page := base, psize := psize, pse := pse, rpd := rpd } ∈ t.caches))
    ∧ (∀ i cache, s.invals.find? (fun j => j.id == i.id) = some i → awaited cache ∈ i.waiting →
      (∀ n, cacheCore cache = some n → coreBusy s (changeRange s i.change) n = false) →
      ((∃ c ∈ i.waiting, c ≠ awaited cache) → Answers (.invalidateAck i.id cache) s (fun t => t.mem = s.mem
        ∧ (∃ j ∈ t.invals, j.id = i.id ∧ j.change = i.change ∧ j.waiting = i.waiting.filter (fun c => c != awaited cache)
          ∧ (j.short = true ↔ i.short = true ∨ ∃ pkg, cache = .member pkg false))
        ∧ ∀ e ∈ t.caches, e.cache = cache → inRange (changeRange s i.change) e.asid e.page = false))
      ∧ ((∀ c ∈ i.waiting, c = awaited cache) → i.source = none → mayCommit s i = true →
        Answers (.invalidateAck i.id cache) s (fun t => ∀ e ∈ t.caches, inRange (changeRange s i.change) e.asid e.page = false))
      ∧ (∀ pkg n, (∀ c ∈ i.waiting, c = awaited cache) → i.source = some (pkg, n) → farWaits s i = false →
        Answers (.invalidateAck i.id cache) s (fun t => t.mem = s.mem
          ∧ t.outbox = s.outbox ++ [.invalidated pkg n (quotaAllows s i.change && !planeThere s i.change)])))
    ∧ (∀ (k : PageKey) good n r, (∃ m ∈ s.moves, m.key = k ∧ m.inward = true) → (∀ h ∈ moveHeads s k, boxBusy s h = false) →
      regionAt s k.asid k.page = some (n, r) →
      sState (slotAt s k.asid k.page k.plane) = 2 → (dBack (descAt s r k.plane) = 0 → good = true) →
      let d := descAt s r k.plane
      let old := slotAt s k.asid k.page k.plane
      let size := frameSize s r d
      let frame := allocate s (placeStack s r k.page d) size 64 (dColour d)
      let a := frame.2
      let b := allocAt frame.1 0 256
      let saved := fget s.nvme (sBacking old) []
      let u := fillFrame (dropCached s (changeRange s (.present k)) none) r k
      let quiet : State := { u with moves := u.moves.map (fun m => if m.key = k then { m with reply := none } else m) }
      exec (.pageInComplete k good) s = .next (retryHeld (harbourSettled (retryConds
        (if hasShared u r && !(podOthers u).isEmpty then startInvalFor (endMove quiet k) (.present k) true (moveHeads u k)
          else endMove u k))))
      ∧ (∀ entry pse, pageLeaf s k.asid k.page = some (entry, pse) → k.plane < 16 → a < 2 ^ 48 → b < 2 ^ 63 → Apart a size b 256 →
        (∀ e ∈ pageEntries s k.asid k.page, Apart e 8 a size ∧ Apart e 8 b 256 ∧ (e ≠ entry → Apart e 8 entry 8)) →
        (∀ e ∈ saved, e.1 < size) →
        sState (slotAt u k.asid k.page k.plane) = 1 ∧ sFrame (slotAt u k.asid k.page k.plane) = a
        ∧ sPerm (slotAt u k.asid k.page k.plane) = sPerm old
        ∧ ∀ x, x < size → memByte u.mem (a + x)
          = if dBack d = 0 then memByte (saved.foldl (fun m e => memPut m e.1 e.2) []) x else 0))
    ∧ (∀ (k : PageKey) m n r, s.moves.find? (fun m => m.key == k && !m.inward) = some m → m.committed = true →
      (∀ h ∈ moveHeads s k, boxBusy s h = false) →
      regionAt s k.asid k.page = some (n, r) → dBack (descAt s r k.plane) = 0 → sState (slotAt s k.asid k.page k.plane) = 2 →
      Answers (.pageOutComplete k) s (fun t =>
        fget t.nvme (sBacking (slotAt (withBlock s r k) k.asid k.page k.plane)) []
          = frameContent s m.frame (frameSize s r (descAt s r k.plane))))
    ∧ (∀ (k : PageKey) n r, regionAt s k.asid k.page = some (n, r) → mayPageOut s k n r = true →
      Answers (.pageOut k) s (fun t => t.moves = s.moves ++ [{ key := k, inward := false }]
        ∧ ∃ i ∈ t.invals, i.change = .paged k))

/-- R13, R29 to R39, R41, R46 to R50, R268, R401 to R405: nodes are accepted, released and dispatched; tasks complete, are
taken away, saved and restored; a lost image leaves its context free, its slots zero and counts one more; the watchdog stops a task.
An image in a save area is lost where a sector of it cannot be read. The turn of a node that becomes ready is this model's choice
(log 84), and so are where the tasks of a launch go and what is taken away for them (log 98), and the form in which a node goes to
another package (log 86). -/
def Obligations.TaskEvents : Prop :=
  ∀ (s : State),
    (∀ cid k, (ctxOf s cid).status = .blocked .ended → (ctxOf s cid).task = some k → workDone s cid = true →
      Answers (.taskComplete cid) s (fun t => (ctxOf t cid).status = .free
        ∧ ∀ x ∈ k.slots, headOf (coreOf t (cid / 4)) x = 0 ∧ slotOwner (coreOf t (cid / 4)) x = .thread))
    ∧ (∀ n nd skip, fget? s.nodes n = some nd → nd.state = .waiting →
      (2 ≤ nd.count → exec (.remoteDecrement n skip) s
        = .next (harbourSettled (setNode s n { nd with count := nd.count - 1, real := nd.real || !skip })))
      ∧ (nd.count = 1 → (nd.real = true ∨ skip = false) → kindKey nd ≠ 3 → exec (.remoteDecrement n skip) s
        = .next (harbourSettled (setNode s n { nd with count := 0, real := true, state := .ready, entered := s.gts, turn := s.hseq }))))
    ∧ (∀ n place nd entry args regs tiles index home expl body l im, fget? s.nodes n = some nd → isNext s (n, nd) = true →
      nd.kind = .code entry args regs tiles index home expl body → nd.state = .ready → fits s n nd place = true → s.cold.hbmHold = false →
      isGroup s nd = false → launchOf s nd.launch = some l → fget? s.images l.image = some im →
      Answers (.dispatch n place) s (fun t => (ctxOf t place).pc = entry ∧ (ctxOf t place).status = .ready
        ∧ ∃ k, (ctxOf t place).task = some k ∧ k.node = n ∧ k.launch = l.num ∧ k.trapEntry = l.record.trap))
    ∧ (∀ n place nd ps, fget? s.nodes n = some nd → isNext s (n, nd) = true → kindKey nd ≤ 1 → nd.state = .ready → s.cold.hbmHold = false →
      placesFor s n nd [place] = some ps → (n, place) ∈ ps → exec (.dispatch n place) s = .next (settleRun (placeAll ps s)))
    ∧ (∀ n nd sv, fget? s.nodes n = some nd → isNext s (n, nd) = true → kindKey nd ≤ 1 → nd.state = .saved →
      fget? s.saved n = some sv → s.cold.hbmHold = false →
      (sv.res = true → exec (.dispatch n sv.cid) s = .next (settleRun { s with saved := fset s.saved n { sv with chosen := true } }))
      ∧ (sv.res = false → Answers (.dispatch n sv.cid) s (fun t =>
        (∃ x, fget? t.nodes n = some x ∧ x.state = .loading) ∧ (OfModule sv.cid → (ctxOf t sv.cid).status = .saved))))
    ∧ (∀ n core nd, fget? s.nodes n = some nd → isNext s (n, nd) = true → copyFits s n nd core = true → s.cold.hbmHold = false →
      exec (.dispatch n core) s = .next (startCopyNode s n core nd))
    ∧ (s.gts % 100 = 0 → exec .egressSample s = .next { s with egressEmpty := !s.outbox.any waitsForLink })
    ∧ (∀ n nd v k, fget? s.nodes n = some nd → kindKey nd ≤ 1 → nd.state = .ready → isHead s (n, nd) = true →
      nd.queue ∉ s.paused → (nd.classS = true ∨ holdsM s = false) → groupReady s n nd = true →
      hasPlaces s n nd = false → chooseVictims s n nd = some [v] →
      (ctxOf s v).task = some k → Answers (.preempt n) s (fun t => (ctxOf t v).status = .saved
        ∧ ∃ sv, fget? t.saved k.node = some sv ∧ sv.cid = v ∧ sv.forNode = some n))
    ∧ (∀ cid n sv, savedOf s cid = some (n, sv) → (ctxOf s cid).status = .saved → maySave s cid = true → areaHeld s sv = false →
      Answers (.contextSaved cid) s (fun t => (ctxOf t cid).status = .free ∧ ∃ v, fget? t.saved n = some v
        ∧ v.ctx = { ctxOf s cid with status := resumeStatus (ctxOf s cid).task, flight := sv.ctx.flight }
        ∧ ∀ a, sv.res = false → sv.area = some a → memBytes t.mem a (imageBytes v).length = imageBytes v))
    ∧ (∀ n cid sv nd hbm flash, fget? s.saved n = some sv → fget? s.nodes n = some nd → nd.state = .loading → sv.cid = cid → areaHeld s sv = false →
      (((hbm = true ∧ areaGood s sv = true) ∨ (sv.fcopy = true ∧ flash = true)) → OfModule cid → Answers (.restoreComplete n cid hbm flash) s (fun t =>
        (ctxOf t cid).status = resumeStatus sv.ctx.task ∧ (ctxOf t cid).arch = sv.ctx.arch ∧ (ctxOf t cid).pc = sv.ctx.pc))
      ∧ ((hbm = false ∨ areaGood s sv = false) → (sv.fcopy = false ∨ flash = false) →
        let u := noteArea (endSfu s (cid / 4) (fun q => q.cid == imageCid n)) sv
        Answers (.restoreComplete n cid hbm flash) s (fun t => t = loseImage u n cid ((fget? u.saved n).getD sv)
          ∧ fget? t.saved n = none ∧ (ctxOf t cid).status = .free ∧ (ctxOf t cid).task = none
          ∧ fget t.counters 5 0 = min (fget s.counters 5 0 + 1) (2 ^ 64 - 1)
          ∧ ∀ k, sv.ctx.task = some k → ∀ x ∈ k.slots, headOf (coreOf t (cid / 4)) x = 0 ∧ slotOwner (coreOf t (cid / 4)) x = .thread
            ∧ ∀ r, r / 32 = x → spadRow (coreOf t (cid / 4)) r = 0)))
    ∧ (∀ cid k, (ctxOf s cid).task = some k → stoppable (ctxOf s cid) = true → k.ending ≠ .watchdog →
      k.wdUnits * 65536 ≤ watchdogUse s cid k → Answers (.watchdogExpiry cid) s (fun t => (ctxOf t cid).status = .blocked .ended
        ∧ ∃ j, (ctxOf t cid).task = some j ∧ j.ending = .watchdog ∧ j.node = k.node))
    ∧ (∀ n sv nd, fget? s.saved n = some sv → fget? s.nodes n = some nd → nd.state = .saved →
      (sv.res = false → sv.since + 10 ^ 9 < s.gts → areaHeld s sv = false → areaGood s sv = true →
        let block := if sv.fcopy then sv.block else s.nextBlock
        let v := { sv with res := true, fcopy := true, area := none, chosen := false, block := block }
        exec (.imageToFlash n) s = .next { imageToFlash s v with
          saved := (fset s.saved n v), nextBlock := (if sv.fcopy then s.nextBlock else s.nextBlock + imageSize / 4096) })
      ∧ (∀ a, sv.res = true → sv.chosen = true → s.cold.hbmHold = false → freeArea s (dieOf (sv.cid / 4)) = some a →
        let v := { sv with res := false, area := some a, chosen := false }
        Answers (.imageFromFlash n) s (fun t => t = imageToArea { s with saved := fset s.saved n v } v
          ∧ memBytes t.mem a (imageBytes v).length = imageBytes v)))
    ∧ (∀ n nd, fget? s.nodes n = some nd → isNext s (n, nd) = true → kindKey nd = 4 → s.cold.hbmHold = false →
      ((sendEvent s n nd).2 = true → exec (.eventNodeSend n) s = .next (nodeFinished (sendEvent s n nd).1 n))
      ∧ (∀ target tag payload, nd.kind = .event target tag payload 0 false →
        exec (.eventNodeSend n) s = .next (nodeFinished { s with outbox := s.outbox ++ [.message target tag []] } n)))
    ∧ (∀ id p bs num t, s.pends.find? (fun q => q.id == id) = some p → p.kind = .post bs num → p.gen = none → OfModule p.cid →
      (∀ k, postNode s num bs = (t, .bad k) → Answers (.postAccepted id) s (fun u =>
        readReg (ctxOf u p.cid) p.code = filled p.code (BitVec.ofNat 64 (2 ^ 63 + k))))
      ∧ (∀ nd, postNode s num bs = (t, .ok nd) → nodePackage t bs = t.pkg → roomFor t nd.queue 1 = true →
        Answers (.postAccepted id) s (fun u => readReg (ctxOf u p.cid) p.code = filled p.code (BitVec.ofNat 64 (freeNumber t))))
      ∧ (∀ nd l, postNode s num bs = (t, .ok nd) → nodePackage t bs ≠ t.pkg → launchOf t num = some l →
        let away := postAway t num (nodePackage t bs) nd bs
        exec (.postAccepted id) s = .next (harbourSettled (postResult away.1 p away.2))
        ∧ ∃ part, away.1.outbox = t.outbox ++ [.launchPart (nodePackage t bs) part] ∧ part.home = t.pkg ∧ part.nodes.length = 1 ∧ part.recs = [bs]))

/-- R135 to R145, R438: arrivals are counted and the leader decides on the reduced vote of the packages not excluded; members
take the decision, seal, apply and report; at application a unit gets the value that its rule gives from its writes in source
order, which memory takes at the commit, and nothing else of memory changes; an overflow vote discards the gradient writes; the commit
moves the step on, with STEPSTAT and the loss scale, and a package whose tasks have all ended arrives at the next step with it; replay
is armed for the next launch. That a member's second record waits for the next step is this model's choice (log 87), and so are the
order in which excluded packages are sealed (log 45) and that no boundary follows the last one (log 101). -/
def Obligations.StepEvents : Prop :=
  ∀ (s : State) (n : Nat) (g : StepGroup), fget? s.groups n = some g → g.sgid = n →
    let group (t : State) (P : StepGroup → Prop) : Prop := ∃ h, fget? t.groups n = some h ∧ P h
    let goesOn : Prop := ∃ k ∈ stepTasks s g.launch, k ∉ g.ended
    let places (t : State) : Prop := ∀ a c bs, g.pending = [(a, c, bs)] → (∀ k ∈ spanSectors [(a, bs.length)], sectorClass s k c ≠ .tag) →
      memBytes t.mem a bs.length = bs ∧ ∀ b, (b < a ∨ a + bs.length ≤ b) → memByte t.mem b = memByte s.mem b
    (∀ pkg vote counts, pkg ≠ s.pkg → pkg ∈ g.members → (∀ a ∈ g.arrivals, a.1 ≠ pkg) → (∀ a ∈ g.nextArrivals, a.1 ≠ pkg) →
      (g.decided = false ∨ g.excluded.contains pkg = false) →
      let arrivals := g.arrivals ++ [(pkg, vote, counts)]
      (isLeader s g = false → Answers (.arrivalRecord n pkg vote counts) s (fun t => group t (fun h =>
        h.arrivals = arrivals ∧ h.stated = fset g.stated pkg (fget counts s.pkg 0) ∧ h.decided = g.decided)))
      ∧ (isLeader s g = true → g.decided = false → g.excluded = [] → g.replay = none →
        (∀ p ∈ g.members, ∃ a ∈ arrivals, a.1 = p) → stepsOver { g with arrivals := arrivals } = false →
        Answers (.arrivalRecord n pkg vote counts) s (fun t => group t (fun h => h.decided = true
          ∧ h.rvote = arrivals.foldl (fun v a => v ||| a.2.1) 0 ∧ h.excluded = [])))
      ∧ (g.decided = false → (∀ p ∈ g.members, ∃ a ∈ arrivals, a.1 = p) → stepsOver { g with arrivals := arrivals } = true →
        Answers (.arrivalRecord n pkg vote counts) s (fun t => group t (fun h => h.live = false ∧ h.decided = false
          ∧ h.stepno = g.stepno ∧ h.scale = g.scale))))
    ∧ (∀ pkg vote counts, pkg ≠ s.pkg → pkg ∈ g.members → (∃ a ∈ g.arrivals, a.1 = pkg) → (∀ a ∈ g.nextArrivals, a.1 ≠ pkg) →
      (g.decided = false ∨ g.excluded.contains pkg = false ∨ g.seals.contains pkg = true) →
      Answers (.arrivalRecord n pkg vote counts) s (fun t => group t (fun h =>
        h = { g with nextArrivals := g.nextArrivals ++ [(pkg, vote, counts)] })))
    ∧ (∀ rvote excluded skew, isLeader s g = false → g.decided = false →
      Answers (.stepDecision n rvote excluded skew) s (fun t => group t (fun h => h.decided = true ∧ h.rvote = rvote
        ∧ h.excluded = excluded ∧ h.skewed = skew ∧ h.writes = g.writes.filter (fun w => !excluded.contains (packageOf w.source)))))
    ∧ (∀ w : DWrite, w.sgid = n → poolUsed s + poolEntries w ≤ poolSize s →
      (w.step = g.stepno.toNat → (g.decided = false ∨ g.excluded.contains (packageOf w.source) = false) →
        Answers (.deferredWriteArrives w) s (fun t => group t (fun h => h = { g with writes := g.writes ++ [w] })))
      ∧ (w.step = (g.stepno + 1).toNat → Answers (.deferredWriteArrives w) s (fun t =>
        group t (fun h => h = { g with early := g.early ++ [w] }))))
    ∧ (g.decided = true → g.applied = false → delivered g = true → s.cold.hbmHold = false → sharedLoads s n = false →
      (pagedKeys (landings s g) = [] → ∀ h, fget? (applyWrites s g).groups n = some h →
        exec (.stepApply n) s = .next (reportApplied (applyWrites s g) h))
      ∧ (∀ us a d, pagedKeys (landings s g) = [] → (∀ w ∈ kept g, failingPart s g w = none) → stepUnits g (landings s g) = us → us ≠ [] →
        (∀ u ∈ us, u.addr = a ∧ u.desc = d) → (∀ k ∈ spanSectors [(a, unitSize d)], sectorClass s k (dColour d) ≠ .tag) →
        (dRule d = 5 → g.replay = none) →
        let lastReport : Prop := isLeader s g = true ∧ ∀ p ∈ g.members, p = s.pkg ∨ ∃ r ∈ g.reports, r.1 = p
        ∃ v, (1 ≤ dRule d → dRule d ≤ 6 → StepValue d (unitSize d) (memNat s.mem a (unitSize d)) us v)
          ∧ (¬ lastReport → Answers (.stepApply n) s (fun t => t.mem = s.mem ∧ group t (fun h => h.applied = true
            ∧ h.pending = [(a, dColour d, leBytes (unitSize d) v)])))
          ∧ (lastReport → Answers (.stepApply n) s (fun t => memBytes t.mem a (unitSize d) = leBytes (unitSize d) v
            ∧ ∀ b, (b < a ∨ a + unitSize d ≤ b) → memByte t.mem b = memByte s.mem b))
          ∧ (dRule d = 6 → (∃ u ∈ us, ∃ w ∈ us, u.source ≠ w.source) →
            Answers (.stepApply n) s (fun t => group t (fun h => h.stcrej = g.stcrej + 1))))
      ∧ (g.rvote.getLsbD 0 = true → (∀ e ∈ landings s g, ∃ a d k, e.2 = .at a d k ∧ dRole d = 1) →
        Answers (.stepApply n) s (fun t => t.mem = s.mem ∧ group t (fun h => h.stcovf = g.stcovf + (kept g).length))))
    ∧ (∀ pkg overflow, isLeader s g = true → s.cold.hbmHold = false → pkg ≠ s.pkg → pkg ∈ g.members → (∀ r ∈ g.reports, r.1 ≠ pkg) →
      let reports := g.reports ++ [(pkg, overflow)]
      ((∃ p ∈ g.members, ∀ r ∈ reports, r.1 ≠ p) → Answers (.applyReport n pkg overflow) s (fun t => group t (fun h =>
        h = { g with reports := reports })))
      ∧ ((∀ p ∈ g.members, ∃ r ∈ reports, r.1 = p) → g.nextArrivals = [] → goesOn →
        Answers (.applyReport n pkg overflow) s (fun t => places t ∧ group t (fun h =>
          StepMoved s g h (reports.any (·.2)) ∧ h.arrived = [] ∧ h.writes = g.early ∧ h.early = [] ∧ h.sent = g.sentNext ∧ h.decided = false
          ∧ h.applied = false ∧ h.pending = []))))
    ∧ (∀ overflow, isLeader s g = false → s.cold.hbmHold = false → g.applied = true → g.nextArrivals = [] →
      (goesOn → Answers (.stepCommit n overflow) s (fun t => places t ∧ group t (fun h => StepMoved s g h overflow ∧ h.arrived = []
        ∧ h.writes = g.early ∧ h.early = [] ∧ h.sent = g.sentNext ∧ h.decided = false ∧ h.applied = false ∧ h.pkgArrived = false)))
      ∧ (¬ goesOn → g.live = true → Answers (.stepCommit n overflow) s (fun t => places t ∧ group t (fun h => StepMoved s g h overflow
        ∧ h.pkgArrived = true ∧ h.decided = false ∧ h.applied = false))))
    ∧ (∀ from_, g.skewFrom = some from_ → isLeader s g = true → g.decided = false → g.skewed = false → g.live = true → g.skewlim ≠ 0 →
      from_ + 1000 * g.skewlim ≤ s.gts → Answers (.skewExpiry n) s (fun t => group t (fun h => h.skewed = true
        ∧ (g.exclude = false → h.decided = false) ∧ (g.exclude = true → h.decided = true ∧
          ∀ p ∈ g.members, (∀ a ∈ g.arrivals, a.1 ≠ p) → p ∈ h.excluded))))
    ∧ (g.closing = true → sharedLoads s n = false → Answers (.packageSealed n) s (fun t => group t (fun h =>
      h.closing = false ∧ h.seals = g.seals ++ [s.pkg])))
    ∧ (∀ p, g.closing = false → g.excluded.find? (fun p => p != s.pkg && !g.seals.contains p) = some p →
      Answers (.packageSealed n) s (fun t => group t (fun h => h.seals = g.seals ++ [p])))
    ∧ (∀ winners exclusions, Answers (.replayArm n winners exclusions) s (fun t => group t (fun h =>
      h = { g with nextReplay := some (winners, exclusions) })))

/-- R373 to R386, R391, R440, R443, R444: the Heresh service answers each request, whether it comes as a message or in a mailbox,
with its status and its result; a request with a malformed header gets status 1, one of no bound job status 12, one of an unknown
operation status 13; a request in another mode than ROD is none, and counted; address spaces are granted and freed; a delivered
message fires the trigger that it matches: its payload lies in the next free buffer, FIRED advances, CNT falls and disarms the entry
at 0, a launch is created that names the buffer, and the fire is recorded. The place of a completion record in the report area is
this model's choice (log 61), and so is the order of the statuses 1, 12 and 13 (log 57). -/
def Obligations.ServiceRequests : Prop :=
  ∀ (s0 : State), s0.boot.service = true →
    (∀ (h : ReqHead), serviceWaits s0 h = false →
      let s := takeRequest s0 h
      let answers (i : Instr) (t : State) (op status : Nat) (result : Word) (body : List Byte) : Prop :=
        exec i s0 = .next (sendReply t h (h.otherOp.getD op) status result body)
      let comes (op : Nat) : Prop := Arrives s0 h op []
      (∀ x : Signed, ∀ e ∈ [(1, [(32, x.bytes)], Instr.load h x), (2, [], .unload h 0), (8, [], .treset h)
          , (11, [(32, x.bytes)], .attest h x.bytes)], Arrives s0 h e.1 e.2.1 →
        (headBad h = true → answers e.2.2 s e.1 1 0 [])
        ∧ (headBad h = false → requester s h = none → answers e.2.2 s e.1 12 0 [])
        ∧ (headBad h = false → (requester s h).isSome = true → opUnknown h = true → answers e.2.2 s e.1 13 0 []))
      ∧ (h.box = none → h.mode ≠ .rod → exec (.treset h) s0 = .next (count s0 (if h.mode = .rud then 8 else 9) 1))
      ∧ (∀ asid, headBad h = false → requester s h = some asid → opUnknown h = false →
        (∀ image, Arrives s0 h 1 [(32, image.bytes)] →
          (loadStatus s asid image ≠ 0 → answers (.load h image) s 1 (loadStatus s asid image) 0 [])
          ∧ (loadStatus s asid image = 0 → answers (.load h image) (loadImage s asid image.bytes).1 1 0
            (BitVec.ofNat 64 (loadImage s asid image.bytes).2) []))
        ∧ (∀ handle im, comes 2 → fget? s.images handle = some im → im.live = true → im.asid = asid →
          answers (.unload h handle) (dropCode { s with
            images := (s.images.map (fun e => if e.1 = handle then (e.1, { e.2 with live := false }) else e)) }) 2 0 0 [])
        ∧ (∀ q, comes 3 → regionBad s q = false → regionMeets s asid q = false → regionCost s q ≤ (asidRec s asid).planeQuota →
          let e := placeRegion (chargePlane s asid (regionCost s q)) asid q.size q.psize q.sgid q.ceil q.lo q.owners
            (q.descs.map BitVec.toNat) false
          answers (.region h q) e.1 3 0 (BitVec.ofNat 64 e.2.2.lo) [])
        ∧ (∀ pos plane d n r, comes 4 → regionAt s asid pos = some (n, r) → plane ≤ 15 → descriptorCode s r plane d = 0 →
          Answers (.plane h pos plane (.descriptor d)) s0 (fun t => ∃ i ∈ t.invals, i.change = .descriptor n plane d ∧ i.reply = [h]))
        ∧ (∀ handle bs im t r, Arrives s0 h 5 [(h.len - bs.length, bs)] → fget? s.images handle = some im → imageFor s asid handle = 0 →
          recordMalformed bs = false → tooEarly s bs = false → validate s asid im bs = (t, .ok r) → launchFits t handle r = true →
          newLaunch t ≠ 0 →
          answers (.launch h handle bs) (createLaunch t asid handle r none).1 5 0
            (BitVec.ofNat 64 (createLaunch t asid handle r none).2) [])
        ∧ (∀ q handle bs im t r i, Arrives s0 h 6 [(h.len - bs.length, bs)] → fget? s.images handle = some im →
          imageFor s asid handle = 0 → triggerBad q = false → validate s asid im bs = (t, .ok r) → launchFits t handle r = true →
          freeTrigger t = some i → answers (.arm h q handle bs) { t with
            triggers := (fset t.triggers i { armed := true, asid := asid, req := q, cnt := q.cnt, image := handle, record := r }) } 6 0
            (BitVec.ofNat 64 i) [])
        ∧ (∀ i t, comes 7 → fget? s.triggers i = some t → t.asid = asid → t.armed = true → answers (.disarm h i)
          (dropCode { s with triggers := fset s.triggers i { t with armed := false } }) 7 0 (t.fired.setWidth 64) [])
        ∧ (comes 8 → answers (.treset h) (dropCode { s with triggers := s.triggers.map (fun e =>
          if e.2.asid = asid then (e.1, { e.2 with armed := false }) else e) }) 8 0 (BitVec.ofNat 64 (armedOf s asid)) [])
        ∧ (∀ c, comes 9 → (Config.operatorJob (jobOf s h) = false → answers (.hconf h c) s 9 12 0 [])
          ∧ (Config.operatorJob (jobOf s h) = true → hconfBad s c = true → answers (.hconf h c) s 9 1 0 [])
          ∧ (Config.operatorJob (jobOf s h) = true → hconfBad s c = false → answers (.hconf h c) (harbourSettled { s with
              aging := (fset s.aging c.shard c.aging), quotas := (newQuotas s c),
              paused := (s.paused.filter (fun q => !(c.queues.map (·.1)).contains q)
                ++ (c.queues.filter (fun e => e.2.2)).map (·.1)) }) 9 0 0 []))
        ∧ (∀ n l, comes 10 → launchOf s n = some l → l.asid = asid → ∃ t v,
          answers (.query h (.launch n)) t 10 0 v (completionRecord l) ∧ v = (asidRec s asid).report + BitVec.ofNat 64 0x5000)
        ∧ (∀ n t, comes 10 → fget? s.triggers n = some t → t.asid = asid → ∃ u v body,
          answers (.query h (.trigger n)) u 10 0 v body ∧ v = (asidRec s asid).report + BitVec.ofNat 64 0x5000)
        ∧ (∀ c, Arrives s0 h 11 [(32, c)] → c.length = 64 →
          (s.boot.identity = true → ∃ t, answers (.attest h c) t 11 0 (asidRec s asid).report (attestReport s c))
          ∧ (s.boot.identity = false → answers (.attest h c) s 11 15 0 []))))
    ∧ (∀ asid job key plane pin debug, 1 ≤ asid → asid < 16384 → job < 2 ^ 24 → (asidRec s0 asid).granted = false →
      asidOfJob s0 job = none → (∀ i ∈ s0.invals, i.change ≠ .asid asid) →
      Answers (.asidGrant asid job key plane pin debug) s0 (fun t => (asidRec t asid).granted = true ∧ (asidRec t asid).job = job
        ∧ (asidRec t asid).planeQuota = plane ∧ (asidRec t asid).pinQuota = pin ∧ (asidRec t asid).debug = debug))
    ∧ (∀ asid, (asidRec s0 asid).granted = true → (∀ e ∈ s0.launches, e.2.asid = asid → e.2.done = true) →
      Answers (.asidFree asid) s0 (fun t => (asidRec t asid).granted = false ∧ ∃ i ∈ t.invals, i.change = .asid asid))
    ∧ (∀ m : Message, (matchable m.mode = false → exec (.triggerMessage m) s0 = .next (count s0 9 1))
      ∧ (matchable m.mode = true → matching s0 m = none → exec (.triggerMessage m) s0 = .next (count s0 8 1))
      ∧ (∀ i t, matchable m.mode = true → matching s0 m = some (i, t) →
        (nextBuffer t = none → exec (.triggerMessage m) s0 = .next (count s0 10 1))
        ∧ (∀ b, nextBuffer t = some b → t.req.ringSize < m.payload.length → exec (.triggerMessage m) s0 = .next (count s0 10 1))
        ∧ (∀ b, nextBuffer t = some b → m.payload.length ≤ t.req.ringSize → s0.cold.hbmHold = false →
          hubBusy s0 t.asid (bufferAt t b) m.payload.length = false → newLaunch s0 ≠ 0 →
          routinesFit s0 t.image t.record = true → groupFree s0 t.record = true →
          (newNumbers s0 t.record.nodes.length).length = t.record.nodes.length →
          let buffer := t.req.ringBase + BitVec.ofNat 64 (b * t.req.ringSize)
          let fires (u : State) : Prop := Answers (.triggerMessage m) s0 (fun v => v = fire u i t b m
            ∧ (∃ x, fget? v.triggers i = some x ∧ x.fired = t.fired + 1 ∧ x.cnt = t.cnt - 1 ∧ (x.armed = true ↔ t.cnt ≠ 1))
            ∧ (∃ l, launchOf v (newLaunch u) = some l ∧ l.trigger = some i ∧ l.buffer = some buffer
              ∧ l.record = if t.req.argf then { t.record with args := t.record.args.set 1 (t.fired.setWidth 64) } else t.record)
            ∧ (1 ≤ s0.ringCap → ∃ e ∈ v.ring, e.kind = 6 ∧ e.seq = v.ringSeq ∧ e.gts = v.gts ∧ e.payload = ringPayload
              [(2, i), (4, (t.fired + 1).toNat), (8, m.tag.toNat), (2, newLaunch u), (16, (Config.sha3_512 m.payload).toNat)]))
          (m.payload = [] → fires s0)
          ∧ (∀ u, m.payload ≠ [] → hubStore s0 t.asid buffer m.payload = (u, true) → fires u
            ∧ ∀ acc q f, translate s0 (hubReq .hub t.asid buffer m.payload.length 1 true) = .ok acc → acc.parts = [q] → q.frame = some f →
              q.n = m.payload.length → tagBad s0 (accSpans acc) acc.colour = false → memBytes u.mem f m.payload.length = m.payload))))

/-- R369 to R372, R408, R417, R421 to R435, R442: power, boot flash and the identity; sensors, bands and the states of cold
operation; refresh, scrub, upsets, error banks and telemetry. These are this model's choices: the numbers of sensors, patrol rows and
error banks (logs 54 to 56), what survives a loss of power (log 55), how a package learns its number and those of its pod (log 76),
with which reading a sensor's present one is compared (log 62), and the request number 0 of an answer over the management link (log
57). -/
def Obligations.ModuleEvents : Prop :=
  ∀ (s : State),
    (∀ b, s.cold.state = 0 → Answers (.powerUp b) s (fun t => t.cold.state = 1 ∧ t.cold.band = min b.band 3
      ∧ t.boot.identity = (min b.band 3 == 3 && identityOf s.boot b.puf) ∧ t.podPkgs = podOf b ∧ t.pkg < t.podPkgs
      ∧ (t.boot.service = true ∨ t.boot.recovery = true)))
    ∧ Answers .powerLoss s (fun t => t.cold.state = 0 ∧ t.mem = [] ∧ t.ctxs = [] ∧ t.nvme = s.nvme ∧ t.gts = s.gts
      ∧ t.boot.recA = s.boot.recA ∧ t.boot.recB = s.boot.recB ∧ t.boot.imgA = s.boot.imgA ∧ t.boot.imgB = s.boot.imgB
      ∧ t.boot.mcA = s.boot.mcA ∧ t.boot.mcB = s.boot.mcB)
    ∧ (∀ item b image, s.boot.recovery = false → exec (.recoveryImageWrite item b image) s = .next (notNow s))
    ∧ (∀ item b image, s.boot.recovery = true → mayFlash s item image = true → bootCopyOf s.boot item s.boot.minfw ≠ some b →
      exec (.recoveryImageWrite item b image) s = .next (writeFlash s item b image))
    ∧ (∀ puf, s.cold.state = 1 → s.cold.band = 3 → s.boot.service = true →
      (identityOf s.boot puf = true → exec (.identityRederive puf) s
        = .next { s with boot := { s.boot with identity := true, secret := puf.getD 0 } })
      ∧ (identityOf s.boot puf = false → exec (.identityRederive puf) s = .next s))
    ∧ (∀ item image, (s.cold.state ≠ 1 → exec (.bootFlashUpdate item image) s = .next (notNow s))
      ∧ (s.cold.state = 1 → mayFlash s item image = false → exec (.bootFlashUpdate item image) s = .next (answer s 6))
      ∧ (s.cold.state = 1 → mayFlash s item image = true → exec (.bootFlashUpdate item image) s
        = .next (answer (writeFlash s item (updateTarget s.boot item) image) 0)))
    ∧ (∀ maps, s.cold.state = 1 → s.boot.service = true → Answers (.repairMapRetest maps) s (fun t =>
      t.boot.retested = mergedSpare s.boot.retested (maps.rows.filter (fun e => e.1 < Config.nMatrix))
        ∧ t.boot.retestedHbm = s.boot.retestedHbm ++ maps.repair
        ∧ t.replies = s.replies ++ [{ job := 0, rid := 0, status := 0, result := 0 }]))
    ∧ (s.boot.service = true → s.cold.state = 1 → (s.boot.identity = true ∨ s.cold.poweredCold = true) →
      Answers (.cooldownRequest true) s (fun t => t.cold.state = if s.cold.band = 0 then 3 else 2))
    ∧ (∀ ok, s.boot.service = true → (s.cold.state ≠ 1 ∨ ok = false ∨ (s.boot.identity = false ∧ s.cold.poweredCold = false)) →
      exec (.cooldownRequest ok) s = .next (notNow s))
    ∧ (s.boot.service = true → ((4 ≤ s.cold.state ∧ s.cold.state ≤ 7) → Answers .warmupRequest s (fun t => t.cold.state = 8))
      ∧ (s.cold.state = 2 ∨ s.cold.state = 3 ∨ (s.cold.state = 1 ∧ s.cold.band ≠ 3) →
        Answers .warmupRequest s (fun t => t.cold.state = 9))
      ∧ (8 ≤ s.cold.state ∨ s.cold.state = 0 ∨ (s.cold.state = 1 ∧ s.cold.band = 3) →
        exec .warmupRequest s = .next (notNow s)))
    ∧ (∀ rs, s.cold.state ≠ 0 → s.gts % 100000 = 0 → Answers (.sensorSample rs) s (fun t =>
      t.cold.failed = failedAfter s.cold.failed rs ∧ t.cold.reading = workingReadings (failedAfter s.cold.failed rs) rs
        ∧ t.cold.band = max s.cold.band (bandEntered (takeSample s rs).cold)))
    ∧ (s.cold.state ≠ 0 → fallDue s = true → Answers .bandFall s (fun t => t.cold.band = s.cold.band - 1
      ∧ t.cold.bseq = s.cold.bseq + 1))
    ∧ exec .clockPauseEnd s = .next { s with cold := { s.cold with pause := false } }
    ∧ (s.cold.hbmHold = true →
      exec .hbmTimingHoldEnd s = .next (retryHeld (harbourSettled (retryConds (lateImages { s with cold := { s.cold with hbmHold := false } })))))
    ∧ (s.cold.hbmHold = false → exec .hbmTimingHoldEnd s = .next s)
    ∧ (∀ k n, s.cold.state ≠ 0 → k < 8 → s.cold.sweep[k]? = some (n + 1) → exec (.refreshCommand k) s
      = .next { s with cold := { s.cold with sweep := s.cold.sweep.set k n } })
    ∧ (∀ rs, s.cold.state ≠ 0 → s.gts % 10 ^ 9 = 0 →
      let now := workingReadings s.cold.failed rs
      let spread := spreadOf { s.cold with reading := now }
      let judged (P : State → Prop) : Prop := Answers (.rateJudge rs) s P
      let reads (k old new : Nat) : Prop := (readingBefore s now)[k]? = some (some old) ∧ now[k]? = some (some new)
      (s.cold.state = 2 → ((∃ k old new, reads k old new ∧ new + 12 < old) ∨ 100 < spread) → judged (fun t => t.cold.rateHold = true))
      ∧ (s.cold.state = 2 → (∀ k old new, reads k old new → old ≤ new + 10) → spread ≤ 80 → judged (fun t => t.cold.rateHold = false))
      ∧ (s.cold.state = 9 → (∃ k old new, reads k old new ∧ old + 24 < new) → judged (fun t => t.cold.rateHold = true))
      ∧ (s.cold.state = 9 → (∀ k old new, reads k old new → new ≤ old + 24) → judged (fun t => t.cold.rateHold = false))
      ∧ (s.cold.state ≠ 2 → s.cold.state ≠ 9 → judged (fun t => t.cold.rateHold = false
        ∧ t.cold.rates = (fastestChange s true now, fastestChange s false now))))
    ∧ (∀ t0, s.cold.soakAt = some t0 → s.cold.state = 3 → t0 + 1800 * 10 ^ 9 ≤ s.gts →
      exec .soakComplete s = .next { s with cold := { s.cold with soaked := true } })
    ∧ (∀ bad, s.cold.state = 3 → s.cold.soaked = true → Answers (.arraySelfTestDone bad) s (fun t => t.cold.enabled = true
      ∧ (t.cold.state = 4 ∨ t.cold.state = 5) ∧ ∀ k ∈ bad, k < 384 → k ∈ t.boot.masked))
    ∧ (s.cold.state = 8 → parked s = true → Answers .parkingComplete s (fun t =>
      t.cold.state = (if s.cold.warmReq then 9 else 1) ∧ t.cold.warmReq = false))
    ∧ (∀ a b c d, s.boot.service = true → exec (.telemetryFrame a b c d) s
      = .next { s with outbox := s.outbox ++ [.telemetry (telemetryFrame s a b c d)] })
    ∧ (∀ cid code bit, OfModule cid → code < 0x58 → bit < 64 → Answers (.transientUpset (.reg cid code bit)) s (fun t =>
      hardZero code = false → (readReg (ctxOf t cid) code).val = (readReg (ctxOf s cid) code).val ^^^ BitVec.ofNat 64 (2 ^ bit)
        ∧ (readReg (ctxOf t cid) code).res = (readReg (ctxOf s cid) code).res))
    ∧ (∀ k row, s.cold.state ≠ 0 → s.cold.hbmHold = false → k < 8 → fget s.cold.patrol k 0 = row →
      Answers (.patrolScrubRow k row) s (fun t => t.mem = s.mem
        ∧ fget t.cold.patrol k 0 = if 2 ^ 36 ≤ (row + 1) * Config.rowBytes then 0 else row + 1))
    ∧ (∀ n u mask, bankUnit n = some u → s.boot.service = true → Answers (.errbankW1c n mask) s (fun t =>
      bankOf t u = clearBank (bankOf s u) mask.toNat))

/-! ### Operands that are not there, faults, traps -/

/-- R23, R43, R195, R279: an empty source stops its bundle before it has any effect: it traps where its BT bit is 1, else the
context blocks on that register, or that row, and on what else the bundle waits for, and the core looks for another context. -/
def Obligations.EmptySources : Prop :=
  (∀ (s : State) (o : Fields), Quiet s → Placed s o [.sx, .sy] → o.dst.toNat < 0x68 → ∀ f ∈ twoOperand,
    let trapped := exec (f o) s = .next (trapHere s { cause := 4, slot := slotNumber o.slot })
    let blocked (code : Nat) := exec (f o) s = .next (blockOn s (.scalar code) (destWaits s (.scalar o.dst.toNat)))
    (∀ b, o.srca.toNat < 0x68 → (readReg (me s) o.srca.toNat).full = false → HoldsB s o b →
      (o.bta = true → trapped) ∧ (o.bta = false → blocked o.srca.toNat))
    ∧ (∀ a, Holds s o.srca.toNat a → o.twin = false → o.srcb.toNat < 0x68 → (readReg (me s) o.srcb.toNat).full = false →
      (o.btb = true → trapped) ∧ (o.btb = false → blocked o.srcb.toNat))
    ∧ (o.twin = false → o.srca.toNat < 0x68 → o.srcb.toNat < 0x68 → (readReg (me s) o.srca.toNat).full = false →
      (readReg (me s) o.srcb.toNat).full = false → o.bta = false → o.btb = true → trapped))
  ∧ (∀ (s : State) (o : Fields) (b : Row), Quiet s → Placed s o [.vx, .vy] → tileTaken s (vecCluster o) = false →
    (readRow (me s) (vecCluster o) o.srca.toNat).full = false → HoldsRow s (vecCluster o) o.srcb.toNat b →
    ∀ f ∈ [Instr.vand, .vor, .vxor],
      (o.bta = true → exec (f o) s = .next (trapHere s { cause := 4, slot := slotNumber o.slot }))
      ∧ (o.bta = false → exec (f o) s = .next (blockOn s (.row (vecCluster o) o.srca.toNat) (destWaits s (.row (vecCluster o) o.dst.toNat)))))
  ∧ (∀ (s : State) (why : Reason) (more : List Reason),
    let t := blockOn s why more
    (me t).status = .blocked why ∧ (me t).alsoOn = more ∧ (me t).pc = (me s).pc ∧ (me t).arch = (me s).arch
    ∧ (me t).flight = (me s).flight ∧ t.mem = s.mem ∧ now t = now s
    ∧ ((coreOf s (myCore s)).running = some (s.cur % 4) → (coreOf t (myCore s)).running = none))

/-- R68, R203, R394, R395, R410: a load or a store whose translation faults takes the trap with nothing done but the record of a
table entry that could not be read; one whose page is not
present starts its page-in, or joins it, and blocks on the page. -/
def Obligations.MemoryTraps : Prop :=
  ∀ (s : State) (o : Fields) (va : Word) (n : Nat), Quiet s → Placed s o [.sy] → HoldsAddr s o va → n = 2 ^ variantOf o →
    memFormOk o n = true →
    (destWaits s (.scalar (memReg o)) = [] →
      (∀ t, translate s (threadReq s va n n false) = .trap t →
        exec (.ld o) s = .next (trapHere (noteFailed s (threadPipe (myCore s)) (asidOf (me s)) t) { t with slot := slotNumber o.slot }))
      ∧ (∀ k, translate s (threadReq s va n n false) = .notPresent k →
        exec (.ld o) s = .next (blockOn (startPageIn s k) (.page k va false (slotNumber o.slot)))))
    ∧ (∀ v, Holds s (memReg o) v →
      (∀ t, translate s (threadReq s va n n true) = .trap t →
        exec (.st o) s = .next (trapHere (noteFailed s (threadPipe (myCore s)) (asidOf (me s)) t) { t with slot := slotNumber o.slot }))
      ∧ (∀ k, translate s (threadReq s va n n true) = .notPresent k →
        exec (.st o) s = .next (blockOn (startPageIn s k) (.page k va true (slotNumber o.slot)))))

/-- R68, R233, R297, R396 to R399, R406: taking a trap outside a segment writes the trap registers, TFROZ with a row pair counted
once, freezes the results in flight, shelves the open loops, sets a pending transfer aside and goes on in handler mode at the
launch's TRAP entry, or at DBGENT for a breakpoint or step trap in debug mode; registers and tiles stay, and the context has stopped
issuing (R44; that it is READY is the model's reading, log 65). In handler mode, or with no entry, the task ends. -/
def Obligations.TrapEntry : Prop :=
  ∀ (s : State) (x : TrapInfo) (resume : Word), (me s).seg = none → (∀ f ∈ (me s).flight, now s ≤ f.due) →
    let t := takeTrap s x resume
    let entry := if inDebug (me s) = true ∧ (x.cause = 0x0E ∨ x.cause = 0x14) ∧ kget (me s) 0xD1 ≠ 0 then kget (me s) 0xD1
      else match (me s).task with | some k => k.trapEntry | none => 0
    (inHandler (me s) = false → entry ≠ 0 →
      (me t).pc = entry ∧ inHandler (me t) = true
      ∧ kget (me t) 0xC0 = BitVec.ofNat 64 (x.cause % 256 + 256) ∧ kget (me t) 0xC1 = resume ∧ kget (me t) 0xC2 = x.addr
      ∧ kget (me t) 0xC3 = tinfoWord x ∧ kget (me t) 0xC7 = BitVec.ofNat 64 (flightCount (me s))
      ∧ ((me s).xfer = none → kget (me t) 0xC4 = 0 ∧ kget (me t) 0xC5 = 0 ∧ kget (me t) 0xC6 = 0)
      ∧ (∀ y, (me s).xfer = some y → kget (me t) 0xC4 = (y.target ||| 1) ∧ kget (me t) 0xC5 = y.value
        ∧ kget (me t) 0xC6 = BitVec.ofNat 64 (y.count % 4 + (match y.link with | some l => l % 8 * 4 | none => 32)))
      ∧ (∀ i, (i < 0xC0 ∨ 0xC7 < i) → kget (me t) i = kget (me s) i)
      ∧ (me t).xfer = none ∧ (me t).imm = none ∧ (me t).arch.loops = [] ∧ (me t).shelf = (me s).arch.loops ∧ (me t).flight = []
      ∧ (me t).frozen = (me s).flight.map (toFrozen (now s))
      ∧ (me t).arch.regs = (me s).arch.regs ∧ (me t).tileX = (me s).tileX ∧ (me t).tileY = (me s).tileY
      ∧ (me t).status = .ready ∧ (coreOf t (myCore s)).running ≠ some (s.cur % 4)
      ∧ t.mem = s.mem ∧ ∀ n, n ≠ s.cur → ctxOf t n = ctxOf s n)
    ∧ (∀ k, (me s).task = some k → inHandler (me s) = true → (me t).status = .blocked .ended
      ∧ (me t).task = some { k with ending := .trapped { x with cause := 0x16, code := x.cause } })
    ∧ (∀ k, (me s).task = some k → inHandler (me s) = false → entry = 0 → (me t).status = .blocked .ended
      ∧ (me t).task = some { k with ending := .trapped x })

/-! ### What stays as it was -/

/-- R82, R100, R196, R203, R208, R302: a unit whose only effect is results in flight, or a trap, leaves registers, rows, predicates,
every byte of memory, the scratchpads and every other context as they were, whatever becomes of it; outside a segment, with every
result that is due landed. Only DRAW, the trap registers and the link register of a pending transfer may change; and the
q-dependence trap of a `qand` or `qor` finds its destination and QSTAT written. -/
def Obligations.RegisterEntriesFrame : Prop :=
  ∀ (i : Instr) (s t : State), registerOnly i = true → (me s).seg = none → (∀ f ∈ (me s).flight, now s < f.due) →
    exec i s = .next t → RegistersStay s t (landsAtTrap s i)

/-- R78, R79, R87: no unit of the stream writes HBM when it issues: stores go to the write buffers, and memory takes their
bytes when they perform. Every byte reads as before. -/
def Obligations.IssueLeavesMemory : Prop :=
  ∀ (i : Instr) (s t : State), ofStream i = true → exec i s = .next t → ∀ a, memByte t.mem a = memByte s.mem a

/-! ### Reset, decoding, the step -/

/-- R14, R49, R140, R277, R315, R369, R436: the machine at reset: off; every register of every context 0 and full, but ETX and
ETY at fp32 and CPAT at LEN 1; MDEPTH 20,800; 8 GiB of tidepool and of spill area; an empty record ring; HBM with nothing
listed, in its canonical form. That a register holds 0 before its first task, and that unwritten HBM reads 0, is this model's
choice (logs 12 and 13). -/
def Obligations.ResetState : Prop :=
  let r := State.reset
  MemoryCanonical r ∧ (∀ a, memByte r.mem a = 0)
  ∧ (∀ cid, (ctxOf r cid).status = .free ∧ (ctxOf r cid).task = none ∧ (ctxOf r cid).pc = 0
    ∧ (∀ code, readReg (ctxOf r cid) code = { val := 0, res := 0, full := true })
    ∧ (∀ cl row, readRow (ctxOf r cid) cl row = { bits := 0, full := true })
    ∧ (∀ cl n, readPred (ctxOf r cid) cl n = 0) ∧ (∀ cl n, readQ (ctxOf r cid) cl n = { codes := 0, lin := 0 })
    ∧ (∀ k, readM (ctxOf r cid) k = 0) ∧ (ctxOf r cid).arch.loops = [] ∧ (ctxOf r cid).arch.mbound = 4
    ∧ (∀ i, kget (ctxOf r cid) i = if i = 2 ∨ i = 3 then 1 else if i = 7 then 0x0001_0000_0000_0000 else 0))
  ∧ (∀ core k, headOf (coreOf r core) k = 0 ∧ slotOwner (coreOf r core) k = .thread)
  ∧ r.mdepth = 20800 ∧ r.tideGiB = 8 ∧ r.spillGiB = 8 ∧ r.ring = [] ∧ r.ringSeq = 0 ∧ r.cold.state = 0
  ∧ r.boot.service = false ∧ r.cold.enabled = false

/-- R9, R174, R192, R198 to R201, R204: words written out from the encoding tables decode to the instructions they stand for,
among them the words that the spec works through. -/
def Obligations.DecodeWords : Prop :=
  decodeUnit [0x0000] = some (.halt, []) ∧ decodeUnit [0x0407] = some (.nops 7, []) ∧ decodeUnit [0x0C05] = some (.bswap 5, [])
  ∧ decodeUnit [0x4C00] = some (.lbeg 3, []) ∧ decodeUnit [0x6C00] = some (.lend 3, [])
  ∧ decodeUnit [0xBFFF, 0xC025] = some (.issue [0x3FFF] 1 5, [])
  ∧ decodeSlot .sx 0x1F8307A0 = some (.add
    { slot := .sx, lmask := 0x1F, dst := 3, srca := 3, srcb := 0x68, bta := false, btb := false, twin := false })
  ∧ decodeSlot .sy 0x41F8409E5 = some (.add
    { slot := .sy, lmask := 0x1F, dst := 4, srca := 4, srcb := 0x79, bta := false, btb := true, twin := true })
  ∧ decodeSlot .vx (0x0D#7 ++ 0x1F#5 ++ 9#7 ++ 8#7 ++ 7#7 ++ 1#1 ++ 0#1) = some (.vand
    { slot := .vx, lmask := 0x1F, dst := 9, srca := 8, srcb := 7, bta := true, btb := false, twin := false })
  ∧ decodeSlot .mx (0x01#7 ++ 1#5 ++ 0#7 ++ 0#7 ++ 5#7 ++ 0#1 ++ 0#1) = some (.mcall
    { slot := .mx, lmask := 1, dst := 0, srca := 0, srcb := 5, bta := false, btb := false, twin := false })
  ∧ decodeSlot .cp (0x0F#7 ++ 1#5 ++ 2#7 ++ 0#7 ++ 16#7 ++ 0#1 ++ 0#1) = some (.targ
    { slot := .cp, lmask := 1, dst := 2, srca := 0, srcb := 16, bta := false, btb := false, twin := false })
  ∧ decodeUop (0x06#6 ++ 0#58) = some .mnd ∧ decodeUop (0x05#6 ++ 12#16 ++ 3#3 ++ 0#39) = some (.mlp 12 3)
  ∧ decodeUop (0x09#6 ++ 0#58) = none ∧ decodeSlot .sx (0x40#7 ++ 0#28) = none ∧ decodeUnit [0x5C00] = none

/-- R44, R173, R208, R293, R399, R409, R444: the turn of a core that issues wakes its contexts, lands what is due of the one that runs
next (of a restored one, counted from here), fetches the parcels at its pc, and does exactly what the instruction they decode to
does there; the address behind the unit stands ready, and what the fetch's reads found is recorded. -/
def Obligations.StepRunsDecoded : Prop :=
  (∀ (s : State) (core : Nat) (rest : List Input) (ctx : Nat) (ps : List Parcel) (i : Instr),
    s.agenda = .turn core :: rest → core < Config.nCores → coreHeld { s with agenda := rest } core = false →
    let woken := wakeCore { s with agenda := rest } core
    pickContext woken core = some ctx →
    let chosen := runContext woken core ctx
    let filled := landSfu chosen (myCore chosen)
    let landed := publishDepth (setMe filled (landDue (rebased (me filled) (now filled)) (now filled))) filled.cur
    (me landed).tended = false → fetchParcels 6 landed (me landed).pc = .inl ps → decodeUnit ps = some (i, []) →
    let next := (me landed).pc + BitVec.ofNat 64 (2 * ps.length)
    step s = exec i (noteFetch (setMe landed { knowLink landed (me landed).pc (me landed) with npc := next }) (me landed).pc next))
  ∧ (∀ (s : State) (i : Instr) (rest : List Input), s.agenda = .event i :: rest → step s = exec i { s with agenda := rest })

/-- R9, R174, R192, R198 to R201, R204, R317: every form of every unit, slot operation and micro-op has words, and decoding
them gives it back with every operand; and words that decode are those of what they decode to. -/
def Obligations.RoundTrip : Prop :=
  (∀ i : Instr, i.wellFormed = true → hasWords i = true → ∃ e, encode i = some e ∧ decode e = some i)
  ∧ (∀ (e : Encoding) (i : Instr), decode e = some i → encode i = some e ∧ i.wellFormed = true)

/-- Every step keeps HBM in its canonical form, whatever it does: no address twice, in rising order, no entry that an unlisted
byte would equal (log 13). -/
def Obligations.StepKeepsMemory : Prop :=
  ∀ s t : State, MemoryCanonical s → step s = .next t → MemoryCanonical t
end

