-- ==== Sys2Proof/Laws/State.lean ====
section
/-! SUPPORT. What each basic update of the state and of a context leaves alone: one lemma for each field. Generated from the
field lists. -/

namespace Sys2Proof.Machine

variable (s : State) (n : Nat) (c : Ctx) (k : Core)

@[simp] theorem setCtx_agenda : (setCtx s n c).agenda = s.agenda := rfl
@[simp] theorem setMe_agenda : (setMe s c).agenda = s.agenda := rfl
@[simp] theorem setCore_agenda : (setCore s n k).agenda = s.agenda := rfl
@[simp] theorem setCtx_cur : (setCtx s n c).cur = s.cur := rfl
@[simp] theorem setMe_cur : (setMe s c).cur = s.cur := rfl
@[simp] theorem setCore_cur : (setCore s n k).cur = s.cur := rfl
@[simp] theorem setCtx_pkg : (setCtx s n c).pkg = s.pkg := rfl
@[simp] theorem setMe_pkg : (setMe s c).pkg = s.pkg := rfl
@[simp] theorem setCore_pkg : (setCore s n k).pkg = s.pkg := rfl
@[simp] theorem setCtx_podPkgs : (setCtx s n c).podPkgs = s.podPkgs := rfl
@[simp] theorem setMe_podPkgs : (setMe s c).podPkgs = s.podPkgs := rfl
@[simp] theorem setCore_podPkgs : (setCore s n k).podPkgs = s.podPkgs := rfl
@[simp] theorem setCtx_gts : (setCtx s n c).gts = s.gts := rfl
@[simp] theorem setMe_gts : (setMe s c).gts = s.gts := rfl
@[simp] theorem setCore_gts : (setCore s n k).gts = s.gts := rfl
@[simp] theorem setCtx_nextId : (setCtx s n c).nextId = s.nextId := rfl
@[simp] theorem setMe_nextId : (setMe s c).nextId = s.nextId := rfl
@[simp] theorem setCore_nextId : (setCore s n k).nextId = s.nextId := rfl
@[simp] theorem setCtx_free : (setCtx s n c).free = s.free := rfl
@[simp] theorem setMe_free : (setMe s c).free = s.free := rfl
@[simp] theorem setCore_free : (setCore s n k).free = s.free := rfl
@[simp] theorem setCore_ctxs : (setCore s n k).ctxs = s.ctxs := rfl
@[simp] theorem setCtx_cores : (setCtx s n c).cores = s.cores := rfl
@[simp] theorem setMe_cores : (setMe s c).cores = s.cores := rfl
@[simp] theorem setCtx_mem : (setCtx s n c).mem = s.mem := rfl
@[simp] theorem setMe_mem : (setMe s c).mem = s.mem := rfl
@[simp] theorem setCore_mem : (setCore s n k).mem = s.mem := rfl
@[simp] theorem setCtx_sectors : (setCtx s n c).sectors = s.sectors := rfl
@[simp] theorem setMe_sectors : (setMe s c).sectors = s.sectors := rfl
@[simp] theorem setCore_sectors : (setCore s n k).sectors = s.sectors := rfl
@[simp] theorem setCtx_colours : (setCtx s n c).colours = s.colours := rfl
@[simp] theorem setMe_colours : (setMe s c).colours = s.colours := rfl
@[simp] theorem setCore_colours : (setCore s n k).colours = s.colours := rfl
@[simp] theorem setCtx_wbuf : (setCtx s n c).wbuf = s.wbuf := rfl
@[simp] theorem setMe_wbuf : (setMe s c).wbuf = s.wbuf := rfl
@[simp] theorem setCore_wbuf : (setCore s n k).wbuf = s.wbuf := rfl
@[simp] theorem setCtx_loads : (setCtx s n c).loads = s.loads := rfl
@[simp] theorem setMe_loads : (setMe s c).loads = s.loads := rfl
@[simp] theorem setCore_loads : (setCore s n k).loads = s.loads := rfl
@[simp] theorem setCtx_pends : (setCtx s n c).pends = s.pends := rfl
@[simp] theorem setMe_pends : (setMe s c).pends = s.pends := rfl
@[simp] theorem setCore_pends : (setCore s n k).pends = s.pends := rfl
@[simp] theorem setCtx_caches : (setCtx s n c).caches = s.caches := rfl
@[simp] theorem setMe_caches : (setMe s c).caches = s.caches := rfl
@[simp] theorem setCore_caches : (setCore s n k).caches = s.caches := rfl
@[simp] theorem setCtx_walkers : (setCtx s n c).walkers = s.walkers := rfl
@[simp] theorem setMe_walkers : (setMe s c).walkers = s.walkers := rfl
@[simp] theorem setCore_walkers : (setCore s n k).walkers = s.walkers := rfl
@[simp] theorem setCtx_invals : (setCtx s n c).invals = s.invals := rfl
@[simp] theorem setMe_invals : (setMe s c).invals = s.invals := rfl
@[simp] theorem setCore_invals : (setCore s n k).invals = s.invals := rfl
@[simp] theorem setCtx_moves : (setCtx s n c).moves = s.moves := rfl
@[simp] theorem setMe_moves : (setMe s c).moves = s.moves := rfl
@[simp] theorem setCore_moves : (setCore s n k).moves = s.moves := rfl
@[simp] theorem setCtx_nvme : (setCtx s n c).nvme = s.nvme := rfl
@[simp] theorem setMe_nvme : (setMe s c).nvme = s.nvme := rfl
@[simp] theorem setCore_nvme : (setCore s n k).nvme = s.nvme := rfl
@[simp] theorem setCtx_rootBase : (setCtx s n c).rootBase = s.rootBase := rfl
@[simp] theorem setMe_rootBase : (setMe s c).rootBase = s.rootBase := rfl
@[simp] theorem setCore_rootBase : (setCore s n k).rootBase = s.rootBase := rfl
@[simp] theorem setCtx_alloc : (setCtx s n c).alloc = s.alloc := rfl
@[simp] theorem setMe_alloc : (setMe s c).alloc = s.alloc := rfl
@[simp] theorem setCore_alloc : (setCore s n k).alloc = s.alloc := rfl
@[simp] theorem setCtx_nextBlock : (setCtx s n c).nextBlock = s.nextBlock := rfl
@[simp] theorem setMe_nextBlock : (setMe s c).nextBlock = s.nextBlock := rfl
@[simp] theorem setCore_nextBlock : (setCore s n k).nextBlock = s.nextBlock := rfl
@[simp] theorem setCtx_nextPos : (setCtx s n c).nextPos = s.nextPos := rfl
@[simp] theorem setMe_nextPos : (setMe s c).nextPos = s.nextPos := rfl
@[simp] theorem setCore_nextPos : (setCore s n k).nextPos = s.nextPos := rfl
@[simp] theorem setCtx_asids : (setCtx s n c).asids = s.asids := rfl
@[simp] theorem setMe_asids : (setMe s c).asids = s.asids := rfl
@[simp] theorem setCore_asids : (setCore s n k).asids = s.asids := rfl
@[simp] theorem setCtx_regions : (setCtx s n c).regions = s.regions := rfl
@[simp] theorem setMe_regions : (setMe s c).regions = s.regions := rfl
@[simp] theorem setCore_regions : (setCore s n k).regions = s.regions := rfl
@[simp] theorem setCtx_images : (setCtx s n c).images = s.images := rfl
@[simp] theorem setMe_images : (setMe s c).images = s.images := rfl
@[simp] theorem setCore_images : (setCore s n k).images = s.images := rfl
@[simp] theorem setCtx_launches : (setCtx s n c).launches = s.launches := rfl
@[simp] theorem setMe_launches : (setMe s c).launches = s.launches := rfl
@[simp] theorem setCore_launches : (setCore s n k).launches = s.launches := rfl
@[simp] theorem setCtx_nodes : (setCtx s n c).nodes = s.nodes := rfl
@[simp] theorem setMe_nodes : (setMe s c).nodes = s.nodes := rfl
@[simp] theorem setCore_nodes : (setCore s n k).nodes = s.nodes := rfl
@[simp] theorem setCtx_saved : (setCtx s n c).saved = s.saved := rfl
@[simp] theorem setMe_saved : (setMe s c).saved = s.saved := rfl
@[simp] theorem setCore_saved : (setCore s n k).saved = s.saved := rfl
@[simp] theorem setCtx_aging : (setCtx s n c).aging = s.aging := rfl
@[simp] theorem setMe_aging : (setMe s c).aging = s.aging := rfl
@[simp] theorem setCore_aging : (setCore s n k).aging = s.aging := rfl
@[simp] theorem setCtx_quotas : (setCtx s n c).quotas = s.quotas := rfl
@[simp] theorem setMe_quotas : (setMe s c).quotas = s.quotas := rfl
@[simp] theorem setCore_quotas : (setCore s n k).quotas = s.quotas := rfl
@[simp] theorem setCtx_paused : (setCtx s n c).paused = s.paused := rfl
@[simp] theorem setMe_paused : (setMe s c).paused = s.paused := rfl
@[simp] theorem setCore_paused : (setCore s n k).paused = s.paused := rfl
@[simp] theorem setCtx_egressEmpty : (setCtx s n c).egressEmpty = s.egressEmpty := rfl
@[simp] theorem setMe_egressEmpty : (setMe s c).egressEmpty = s.egressEmpty := rfl
@[simp] theorem setCore_egressEmpty : (setCore s n k).egressEmpty = s.egressEmpty := rfl
@[simp] theorem setCtx_groups : (setCtx s n c).groups = s.groups := rfl
@[simp] theorem setMe_groups : (setMe s c).groups = s.groups := rfl
@[simp] theorem setCore_groups : (setCore s n k).groups = s.groups := rfl
@[simp] theorem setCtx_tideGiB : (setCtx s n c).tideGiB = s.tideGiB := rfl
@[simp] theorem setMe_tideGiB : (setMe s c).tideGiB = s.tideGiB := rfl
@[simp] theorem setCore_tideGiB : (setCore s n k).tideGiB = s.tideGiB := rfl
@[simp] theorem setCtx_spillGiB : (setCtx s n c).spillGiB = s.spillGiB := rfl
@[simp] theorem setMe_spillGiB : (setMe s c).spillGiB = s.spillGiB := rfl
@[simp] theorem setCore_spillGiB : (setCore s n k).spillGiB = s.spillGiB := rfl
@[simp] theorem setCtx_triggers : (setCtx s n c).triggers = s.triggers := rfl
@[simp] theorem setMe_triggers : (setMe s c).triggers = s.triggers := rfl
@[simp] theorem setCore_triggers : (setCore s n k).triggers = s.triggers := rfl
@[simp] theorem setCtx_ring : (setCtx s n c).ring = s.ring := rfl
@[simp] theorem setMe_ring : (setMe s c).ring = s.ring := rfl
@[simp] theorem setCore_ring : (setCore s n k).ring = s.ring := rfl
@[simp] theorem setCtx_ringSeq : (setCtx s n c).ringSeq = s.ringSeq := rfl
@[simp] theorem setMe_ringSeq : (setMe s c).ringSeq = s.ringSeq := rfl
@[simp] theorem setCore_ringSeq : (setCore s n k).ringSeq = s.ringSeq := rfl
@[simp] theorem setCtx_ringCap : (setCtx s n c).ringCap = s.ringCap := rfl
@[simp] theorem setMe_ringCap : (setMe s c).ringCap = s.ringCap := rfl
@[simp] theorem setCore_ringCap : (setCore s n k).ringCap = s.ringCap := rfl
@[simp] theorem setCtx_banks : (setCtx s n c).banks = s.banks := rfl
@[simp] theorem setMe_banks : (setMe s c).banks = s.banks := rfl
@[simp] theorem setCore_banks : (setCore s n k).banks = s.banks := rfl
@[simp] theorem setCtx_counters : (setCtx s n c).counters = s.counters := rfl
@[simp] theorem setMe_counters : (setMe s c).counters = s.counters := rfl
@[simp] theorem setCore_counters : (setCore s n k).counters = s.counters := rfl
@[simp] theorem setCtx_mdepth : (setCtx s n c).mdepth = s.mdepth := rfl
@[simp] theorem setMe_mdepth : (setMe s c).mdepth = s.mdepth := rfl
@[simp] theorem setCore_mdepth : (setCore s n k).mdepth = s.mdepth := rfl
@[simp] theorem setCtx_cold : (setCtx s n c).cold = s.cold := rfl
@[simp] theorem setMe_cold : (setMe s c).cold = s.cold := rfl
@[simp] theorem setCore_cold : (setCore s n k).cold = s.cold := rfl
@[simp] theorem setCtx_boot : (setCtx s n c).boot = s.boot := rfl
@[simp] theorem setMe_boot : (setMe s c).boot = s.boot := rfl
@[simp] theorem setCore_boot : (setCore s n k).boot = s.boot := rfl
@[simp] theorem setCtx_replies : (setCtx s n c).replies = s.replies := rfl
@[simp] theorem setMe_replies : (setMe s c).replies = s.replies := rfl
@[simp] theorem setCore_replies : (setCore s n k).replies = s.replies := rfl
@[simp] theorem setCtx_heldReqs : (setCtx s n c).heldReqs = s.heldReqs := rfl
@[simp] theorem setMe_heldReqs : (setMe s c).heldReqs = s.heldReqs := rfl
@[simp] theorem setCore_heldReqs : (setCore s n k).heldReqs = s.heldReqs := rfl
@[simp] theorem setCtx_hseq : (setCtx s n c).hseq = s.hseq := rfl
@[simp] theorem setMe_hseq : (setMe s c).hseq = s.hseq := rfl
@[simp] theorem setCore_hseq : (setCore s n k).hseq = s.hseq := rfl
@[simp] theorem setCtx_outbox : (setCtx s n c).outbox = s.outbox := rfl
@[simp] theorem setMe_outbox : (setMe s c).outbox = s.outbox := rfl
@[simp] theorem setCore_outbox : (setCore s n k).outbox = s.outbox := rfl

variable (v : Word) (cl : Cluster) (p : PBits) (q : QReg)

@[simp] theorem kset_status : (kset c n v).status = c.status := rfl
@[simp] theorem writePred_status : (writePred c cl n p).status = c.status := rfl
@[simp] theorem writeQ_status : (writeQ c cl n q).status = c.status := rfl
@[simp] theorem kset_tileX : (kset c n v).tileX = c.tileX := rfl
@[simp] theorem writePred_tileX : (writePred c cl n p).tileX = c.tileX := rfl
@[simp] theorem writeQ_tileX : (writeQ c cl n q).tileX = c.tileX := rfl
@[simp] theorem kset_tileY : (kset c n v).tileY = c.tileY := rfl
@[simp] theorem writePred_tileY : (writePred c cl n p).tileY = c.tileY := rfl
@[simp] theorem writeQ_tileY : (writeQ c cl n q).tileY = c.tileY := rfl
@[simp] theorem kset_imm : (kset c n v).imm = c.imm := rfl
@[simp] theorem writePred_imm : (writePred c cl n p).imm = c.imm := rfl
@[simp] theorem writeQ_imm : (writeQ c cl n q).imm = c.imm := rfl
@[simp] theorem kset_pc : (kset c n v).pc = c.pc := rfl
@[simp] theorem writePred_pc : (writePred c cl n p).pc = c.pc := rfl
@[simp] theorem writeQ_pc : (writeQ c cl n q).pc = c.pc := rfl
@[simp] theorem kset_npc : (kset c n v).npc = c.npc := rfl
@[simp] theorem writePred_npc : (writePred c cl n p).npc = c.npc := rfl
@[simp] theorem writeQ_npc : (writeQ c cl n q).npc = c.npc := rfl
@[simp] theorem kset_xfer : (kset c n v).xfer = c.xfer := rfl
@[simp] theorem writePred_xfer : (writePred c cl n p).xfer = c.xfer := rfl
@[simp] theorem writeQ_xfer : (writeQ c cl n q).xfer = c.xfer := rfl
@[simp] theorem kset_flight : (kset c n v).flight = c.flight := rfl
@[simp] theorem writePred_flight : (writePred c cl n p).flight = c.flight := rfl
@[simp] theorem writeQ_flight : (writeQ c cl n q).flight = c.flight := rfl
@[simp] theorem kset_frozen : (kset c n v).frozen = c.frozen := rfl
@[simp] theorem writePred_frozen : (writePred c cl n p).frozen = c.frozen := rfl
@[simp] theorem writeQ_frozen : (writeQ c cl n q).frozen = c.frozen := rfl
@[simp] theorem kset_shelf : (kset c n v).shelf = c.shelf := rfl
@[simp] theorem writePred_shelf : (writePred c cl n p).shelf = c.shelf := rfl
@[simp] theorem writeQ_shelf : (writeQ c cl n q).shelf = c.shelf := rfl
@[simp] theorem kset_deferred : (kset c n v).deferred = c.deferred := rfl
@[simp] theorem writePred_deferred : (writePred c cl n p).deferred = c.deferred := rfl
@[simp] theorem writeQ_deferred : (writeQ c cl n q).deferred = c.deferred := rfl
@[simp] theorem kset_tagFail : (kset c n v).tagFail = c.tagFail := rfl
@[simp] theorem writePred_tagFail : (writePred c cl n p).tagFail = c.tagFail := rfl
@[simp] theorem writeQ_tagFail : (writeQ c cl n q).tagFail = c.tagFail := rfl
@[simp] theorem kset_cwt : (kset c n v).cwt = c.cwt := rfl
@[simp] theorem writePred_cwt : (writePred c cl n p).cwt = c.cwt := rfl
@[simp] theorem writeQ_cwt : (writeQ c cl n q).cwt = c.cwt := rfl
@[simp] theorem kset_cwtBad : (kset c n v).cwtBad = c.cwtBad := rfl
@[simp] theorem writePred_cwtBad : (writePred c cl n p).cwtBad = c.cwtBad := rfl
@[simp] theorem writeQ_cwtBad : (writeQ c cl n q).cwtBad = c.cwtBad := rfl
@[simp] theorem kset_cwtOne : (kset c n v).cwtOne = c.cwtOne := rfl
@[simp] theorem writePred_cwtOne : (writePred c cl n p).cwtOne = c.cwtOne := rfl
@[simp] theorem writeQ_cwtOne : (writeQ c cl n q).cwtOne = c.cwtOne := rfl
@[simp] theorem kset_cwtwOut : (kset c n v).cwtwOut = c.cwtwOut := rfl
@[simp] theorem writePred_cwtwOut : (writePred c cl n p).cwtwOut = c.cwtwOut := rfl
@[simp] theorem writeQ_cwtwOut : (writeQ c cl n q).cwtwOut = c.cwtwOut := rfl
@[simp] theorem kset_cwtwFail : (kset c n v).cwtwFail = c.cwtwFail := rfl
@[simp] theorem writePred_cwtwFail : (writePred c cl n p).cwtwFail = c.cwtwFail := rfl
@[simp] theorem writeQ_cwtwFail : (writeQ c cl n q).cwtwFail = c.cwtwFail := rfl
@[simp] theorem kset_cwtrOut : (kset c n v).cwtrOut = c.cwtrOut := rfl
@[simp] theorem writePred_cwtrOut : (writePred c cl n p).cwtrOut = c.cwtrOut := rfl
@[simp] theorem writeQ_cwtrOut : (writeQ c cl n q).cwtrOut = c.cwtrOut := rfl
@[simp] theorem kset_seg : (kset c n v).seg = c.seg := rfl
@[simp] theorem writePred_seg : (writePred c cl n p).seg = c.seg := rfl
@[simp] theorem writeQ_seg : (writeQ c cl n q).seg = c.seg := rfl
@[simp] theorem kset_segGen : (kset c n v).segGen = c.segGen := rfl
@[simp] theorem writePred_segGen : (writePred c cl n p).segGen = c.segGen := rfl
@[simp] theorem writeQ_segGen : (writeQ c cl n q).segGen = c.segGen := rfl
@[simp] theorem kset_retry : (kset c n v).retry = c.retry := rfl
@[simp] theorem writePred_retry : (writePred c cl n p).retry = c.retry := rfl
@[simp] theorem writeQ_retry : (writeQ c cl n q).retry = c.retry := rfl
@[simp] theorem kset_phase : (kset c n v).phase = c.phase := rfl
@[simp] theorem writePred_phase : (writePred c cl n p).phase = c.phase := rfl
@[simp] theorem writeQ_phase : (writeQ c cl n q).phase = c.phase := rfl
@[simp] theorem kset_latches : (kset c n v).latches = c.latches := rfl
@[simp] theorem writePred_latches : (writePred c cl n p).latches = c.latches := rfl
@[simp] theorem writeQ_latches : (writeQ c cl n q).latches = c.latches := rfl
@[simp] theorem kset_ecause : (kset c n v).ecause = c.ecause := rfl
@[simp] theorem writePred_ecause : (writePred c cl n p).ecause = c.ecause := rfl
@[simp] theorem writeQ_ecause : (writeQ c cl n q).ecause = c.ecause := rfl
@[simp] theorem kset_iovf : (kset c n v).iovf = c.iovf := rfl
@[simp] theorem writePred_iovf : (writePred c cl n p).iovf = c.iovf := rfl
@[simp] theorem writeQ_iovf : (writeQ c cl n q).iovf = c.iovf := rfl
@[simp] theorem kset_bhold : (kset c n v).bhold = c.bhold := rfl
@[simp] theorem writePred_bhold : (writePred c cl n p).bhold = c.bhold := rfl
@[simp] theorem writeQ_bhold : (writeQ c cl n q).bhold = c.bhold := rfl
@[simp] theorem kset_lsetAt : (kset c n v).lsetAt = c.lsetAt := rfl
@[simp] theorem writePred_lsetAt : (writePred c cl n p).lsetAt = c.lsetAt := rfl
@[simp] theorem writeQ_lsetAt : (writeQ c cl n q).lsetAt = c.lsetAt := rfl
@[simp] theorem kset_seq : (kset c n v).seq = c.seq := rfl
@[simp] theorem writePred_seq : (writePred c cl n p).seq = c.seq := rfl
@[simp] theorem writeQ_seq : (writeQ c cl n q).seq = c.seq := rfl
@[simp] theorem kset_readFrom : (kset c n v).readFrom = c.readFrom := rfl
@[simp] theorem writePred_readFrom : (writePred c cl n p).readFrom = c.readFrom := rfl
@[simp] theorem writeQ_readFrom : (writeQ c cl n q).readFrom = c.readFrom := rfl
@[simp] theorem kset_rebase : (kset c n v).rebase = c.rebase := rfl
@[simp] theorem writePred_rebase : (writePred c cl n p).rebase = c.rebase := rfl
@[simp] theorem writeQ_rebase : (writeQ c cl n q).rebase = c.rebase := rfl
@[simp] theorem kset_tended : (kset c n v).tended = c.tended := rfl
@[simp] theorem writePred_tended : (writePred c cl n p).tended = c.tended := rfl
@[simp] theorem writeQ_tended : (writeQ c cl n q).tended = c.tended := rfl
@[simp] theorem kset_tendShelf : (kset c n v).tendShelf = c.tendShelf := rfl
@[simp] theorem writePred_tendShelf : (writePred c cl n p).tendShelf = c.tendShelf := rfl
@[simp] theorem writeQ_tendShelf : (writeQ c cl n q).tendShelf = c.tendShelf := rfl
@[simp] theorem kset_trapUnit : (kset c n v).trapUnit = c.trapUnit := rfl
@[simp] theorem writePred_trapUnit : (writePred c cl n p).trapUnit = c.trapUnit := rfl
@[simp] theorem writeQ_trapUnit : (writeQ c cl n q).trapUnit = c.trapUnit := rfl
@[simp] theorem kset_linkOpen : (kset c n v).linkOpen = c.linkOpen := rfl
@[simp] theorem writePred_linkOpen : (writePred c cl n p).linkOpen = c.linkOpen := rfl
@[simp] theorem writeQ_linkOpen : (writeQ c cl n q).linkOpen = c.linkOpen := rfl
@[simp] theorem kset_alsoOn : (kset c n v).alsoOn = c.alsoOn := rfl
@[simp] theorem writePred_alsoOn : (writePred c cl n p).alsoOn = c.alsoOn := rfl
@[simp] theorem writeQ_alsoOn : (writeQ c cl n q).alsoOn = c.alsoOn := rfl
@[simp] theorem kset_task : (kset c n v).task = c.task := rfl
@[simp] theorem writePred_task : (writePred c cl n p).task = c.task := rfl
@[simp] theorem writeQ_task : (writeQ c cl n q).task = c.task := rfl

end Sys2Proof.Machine
end

