-- ==== Sys2Proof/Laws/Files.lean ====
section
/-! SUPPORT. Reading back what has been written: files, contexts, cores, the acting context. -/

namespace Sys2Proof.Machine

/-! ### Files -/

@[simp] theorem fget_fset_same {α : Type} (f : File α) (k : Nat) (v d : α) : fget (fset f k v) k d = v := by
  induction f with
  | nil => simp [fset, fget]
  | cons e t ih =>
    obtain ⟨j, w⟩ := e
    by_cases h : j = k
    · simp [fset, fget, h]
    · simp [fset, fget, h, ih]

theorem fget_fset_other {α : Type} (f : File α) (j k : Nat) (v d : α) (h : k ≠ j) : fget (fset f k v) j d = fget f j d := by
  induction f with
  | nil => simp [fset, fget, h]
  | cons e t ih =>
    obtain ⟨i, w⟩ := e
    by_cases hi : i = k
    · subst hi; simp [fset, fget, h]
    · by_cases hj : i = j <;> simp [fset, fget, hi, hj, h.symm, ih]

@[simp] theorem fget?_fset_same {α : Type} (f : File α) (k : Nat) (v : α) : fget? (fset f k v) k = some v := by
  induction f with
  | nil => simp [fset, fget?]
  | cons e t ih =>
    obtain ⟨j, w⟩ := e
    by_cases h : j = k
    · simp [fset, fget?, h]
    · simp [fset, fget?, h, ih]

theorem fget?_fset_other {α : Type} (f : File α) (j k : Nat) (v : α) (h : k ≠ j) : fget? (fset f k v) j = fget? f j := by
  induction f with
  | nil => simp [fset, fget?, h]
  | cons e t ih =>
    obtain ⟨i, w⟩ := e
    by_cases hi : i = k
    · subst hi; simp [fset, fget?, h]
    · by_cases hj : i = j <;> simp [fset, fget?, hi, hj, h.symm, ih]

/-! ### Contexts and cores -/

@[simp] theorem ctxOf_setCtx_same (s : State) (n : Nat) (c : Ctx) : ctxOf (setCtx s n c) n = c := by simp [ctxOf, setCtx]

theorem ctxOf_setCtx_other (s : State) (n m : Nat) (c : Ctx) (h : n ≠ m) : ctxOf (setCtx s n c) m = ctxOf s m := by
  simp [ctxOf, setCtx, fget_fset_other _ _ _ _ _ h]

@[simp] theorem me_setMe (s : State) (c : Ctx) : me (setMe s c) = c := by simp [me, setMe]

@[simp] theorem me_setCore (s : State) (n : Nat) (k : Core) : me (setCore s n k) = me s := rfl

@[simp] theorem ctxOf_setCore (s : State) (n m : Nat) (k : Core) : ctxOf (setCore s n k) m = ctxOf s m := rfl

@[simp] theorem coreOf_setCore_same (s : State) (n : Nat) (k : Core) : coreOf (setCore s n k) n = k := by simp [coreOf, setCore]

theorem coreOf_setCore_other (s : State) (n m : Nat) (k : Core) (h : n ≠ m) : coreOf (setCore s n k) m = coreOf s m := by
  simp [coreOf, setCore, fget_fset_other _ _ _ _ _ h]

@[simp] theorem coreOf_setMe (s : State) (n : Nat) (c : Ctx) : coreOf (setMe s c) n = coreOf s n := rfl

@[simp] theorem coreOf_setCtx (s : State) (n m : Nat) (c : Ctx) : coreOf (setCtx s m c) n = coreOf s n := rfl

@[simp] theorem myCore_setMe (s : State) (c : Ctx) : myCore (setMe s c) = myCore s := rfl

@[simp] theorem myCore_setCore (s : State) (n : Nat) (k : Core) : myCore (setCore s n k) = myCore s := rfl

@[simp] theorem now_setMe (s : State) (c : Ctx) : now (setMe s c) = now s := rfl

/-! ### Registers and k-space -/

@[simp] theorem kget_kset_same (c : Ctx) (i : Nat) (v : Word) : kget (kset c i v) i = v := by simp [kget, kset]

theorem kget_kset_other (c : Ctx) (i j : Nat) (v : Word) (h : i ≠ j) : kget (kset c i v) j = kget c j := by
  simp [kget, kset, fget_fset_other _ _ _ _ _ h]

/-- A register that is not hard-wired reads as it was written; a c register keeps bit 0. -/
theorem readReg_writeReg_same (c : Ctx) (code : Nat) (v : Word) (res : BitVec 4) (h : hardZero code = false) :
    readReg (writeReg c code v res) code = { val := if 0x58 ≤ code then v &&& 1 else v, res := res, full := true } := by
  simp [readReg, writeReg, h]

theorem readReg_writeReg_other (c : Ctx) (i j : Nat) (v : Word) (res : BitVec 4) (h : i ≠ j) :
    readReg (writeReg c i v res) j = readReg c j := by
  by_cases hi : hardZero i = true
  · simp [writeReg, hi]
  · by_cases hj : hardZero j = true
    · simp [readReg, hj]
    · simp [readReg, writeReg, hi, hj, fget_fset_other _ _ _ _ _ h]

/-- s0 and b0 read as zero and full whatever the state (R194). -/
theorem readReg_hardZero (c : Ctx) (code : Nat) (h : hardZero code = true) : readReg c code = {} := by simp [readReg, h]

end Sys2Proof.Machine
end

