-- ==== Sys2Proof/Laws/Issue.lean ====
section
/-! SUPPORT. What an operation that stands alone in its bundle does when nothing stops it. -/

namespace Sys2Proof.Machine

/-- Nothing of R203 stops the operation. -/
structure PlanGoes (s : State) (p : Plan) : Prop where
  illegal : p.illegal = none
  emptyTrap : p.emptyTrap = false
  errs : p.errs = []
  fire : p.fire = none
  blocks : p.blocks = []
  takesTag : p.takesTag = true → (me s).tagFail = none
  stop : p.stop = none
  spadBad : p.spadBad = none
  gate : p.gate s = none
  await : p.await s = none
  banks : ∀ b ∈ p.banks, bankTaken (coreOf s (myCore s)) (now s) b = false
  post : p.post ≠ .rfe

theorem logRow_quiet (s : State) (cl : Cluster) (r : Nat) (h : (me s).seg = none) : logRow s cl r = s := by
  simp [logRow, h]

theorem logSpad_quiet (s : State) (r : Nat) (h : (me s).seg = none) : logSpad s r = s := by simp [logSpad, h]

theorem logWrites_quiet (s : State) (p : Plan) (h : (me s).seg = none) : logWrites s p = s := by
  have h2 : ∀ rs : List Nat, rs.foldl logSpad s = s := by
    intro rs
    induction rs with
    | nil => rfl
    | cons r t ih => simp [logSpad_quiet, h, ih]
  unfold logWrites
  generalize p.dests = ds
  induction ds with
  | nil => simp [h2]
  | cons d t ih => cases d <;> simpa [logRow_quiet, h] using ih

theorem endSegment_quiet (s : State) (h : (me s).seg = none) : endSegment s = s := by simp [endSegment, h]

theorem endSegment_if (s : State) (b : Bool) (h : (me s).seg = none) : (if b = true then endSegment s else s) = s := by
  simp [endSegment_quiet s h]

theorem bundleBlocks_alone (sl : SlotId) (p : Plan) (c : Ctx) : bundleBlocks plainHeader 0 [(sl, p)] c = p.blocks := by
  simp [bundleBlocks, targetCode, popList, plainHeader]

theorem doubleWrite_alone (sl : SlotId) (p : Plan) : doubleWrite [] [(sl, p)] = none := by simp [doubleWrite]

theorem tagFail_alone (sl : SlotId) (p : Plan) (s : State) (h : p.takesTag = true → (me s).tagFail = none) :
    (if ([(sl, p)].any fun q => q.2.takesTag) = true then (me s).tagFail else none) = none := by
  by_cases ht : p.takesTag = true
  · simp [h ht]
  · simp [ht]

/-- The slot list of an operation that stands alone. -/
def aloneOps (o : Fields) (opc : Nat) (plan : Nat → State → Plan) : List SlotOp :=
  [{ slot := o.slot, opc := opc, lmask := o.lmask, plan := plan }]

theorem livePlans_alone (o : Fields) (opc : Nat) (plan : Nat → State → Plan) (s : State) (ho : opc ≠ 0)
    (hl : o.lmask.getLsbD 0 = true) : livePlans plainHeader (aloneOps o opc plan) 0 s = [(o.slot, plan 0 s)] := by
  have : (opc != 0) = true := by simp [ho]
  cases hsl : o.slot <;> simp [livePlans, aloneOps, this, hl, plainHeader, hsl]

/-- A live operation alone in its bundle reaches step 4 of R203 undisturbed. -/
theorem issueAlone_live (o : Fields) (opc : Nat) (plan : Nat → State → Plan) (s : State) (hd : (me s).deferred = [])
    (ho : opc ≠ 0) (hl : o.lmask.getLsbD 0 = true) (hr : (plan 0 s).post ≠ .rfe) :
    issueAlone o opc plan s = issueLive plainHeader (aloneOps o opc plan) 0 false 0 [(o.slot, plan 0 s)] s := by
  have hlive := livePlans_alone o opc plan s ho hl
  have hrfe : holdsRfe plainHeader (aloneOps o opc plan) s = false := by
    simp only [holdsRfe, show leafOf (me s) plainHeader = .inl 0 from rfl, hlive]
    simp [postRfe, hr]
  have hill : bundleIllegal plainHeader (aloneOps o opc plan) (me s) = false := by simp [bundleIllegal, plainHeader]
  have htg : targetOf plainHeader 0 (me s) = 0 := by simp [targetOf, targetCode]
  have hbr : branchIllegal (0 != (0 : Word)) [(o.slot, plan 0 s)] (me s) = false := by simp [branchIllegal]
  change issueBundle plainHeader (aloneOps o opc plan) s = _
  simp only [issueBundle, show plainHeader.seg = false from rfl, Bool.false_eq_true, if_false, hd, hrfe, issueOnce, hill,
    show leafOf (me s) plainHeader = .inl 0 from rfl, htg, hlive, hbr]
  rfl

/-- An operation that nothing stops has its effect, and the unit ends. -/
theorem issueAlone_goes (o : Fields) (opc : Nat) (plan : Nat → State → Plan) (s : State) (hq : Quiet s) (ho : opc ≠ 0)
    (hl : o.lmask.getLsbD 0 = true) (hp : PlanGoes s (plan 0 s)) :
    issueAlone o opc plan s =
      endOfBundle [(o.slot, plan 0 s)] (moveOn (advanceDraw (if (plan 0 s).draws then 1 else 0) ((plan 0 s).effect s)) 1) := by
  obtain ⟨hd, hs, hx, -⟩ := hq
  obtain ⟨p1, p2, p3, p4, p5, p6, p7, p8, p9, p10, p11, p12⟩ := hp
  have hdc : drawCount plainHeader (aloneOps o opc plan) [(o.slot, plan 0 s)] = if (plan 0 s).draws then 1 else 0 := by
    by_cases h : (plan 0 s).draws = true <;> simp [drawCount, plainHeader, h]
  have hpop : popList plainHeader = [] := by simp [popList, plainHeader]
  have hbank : losesBank [(o.slot, plan 0 s)] s = false := by simpa [losesBank] using p11
  rw [issueAlone_live o opc plan s hd ho hl p12]
  simp only [issueLive, firstOf, p1, doubleWrite_alone, issueChecked, p2, p3, p4, List.head?_nil, endSegment_if s _ hs, issueReady,
    bundleBlocks_alone, p5, tagFail_alone _ _ s p6, p9, issueAccess, p7, p8, p10, hbank, commitBundle, hdc, hpop, List.foldl_nil,
    Bool.false_eq_true, if_false]
  have hrun : runEffects [(o.slot, plan 0 s)] (segmentStart plainHeader [(o.slot, plan 0 s)] s) = (plan 0 s).effect s := by
    cases hlast : (plan 0 s).last <;> simp [runEffects, segmentStart, plainHeader, logWrites_quiet s _ hs, hlast]
  rw [hrun]
  simp [takeBranch]

/-! ### What stops an operation, in the order of R203 -/

/-- Step 4: the illegal-operation trap. -/
theorem issueAlone_illegal (o : Fields) (opc : Nat) (plan : Nat → State → Plan) (s : State) (hd : (me s).deferred = [])
    (ho : opc ≠ 0) (hl : o.lmask.getLsbD 0 = true) (hr : (plan 0 s).post ≠ .rfe) {q : Nat} (hi : (plan 0 s).illegal = some q) :
    issueAlone o opc plan s = trapHere s { cause := 3, qual := q, slot := slotNumber o.slot } := by
  rw [issueAlone_live o opc plan s hd ho hl hr]; simp [issueLive, firstOf, hi]

/-- Step 5: the empty-source trap. -/
theorem issueAlone_empty (o : Fields) (opc : Nat) (plan : Nat → State → Plan) (s : State) (hd : (me s).deferred = [])
    (ho : opc ≠ 0) (hl : o.lmask.getLsbD 0 = true) (hr : (plan 0 s).post ≠ .rfe) (hi : (plan 0 s).illegal = none)
    (he : (plan 0 s).emptyTrap = true) : issueAlone o opc plan s = trapHere s { cause := 4, slot := slotNumber o.slot } := by
  rw [issueAlone_live o opc plan s hd ho hl hr]
  simp [issueLive, firstOf, hi, doubleWrite, issueChecked, he]

/-- Step 6: a residue mismatch that is found before the bundle issues. -/
theorem issueAlone_err (o : Fields) (opc : Nat) (plan : Nat → State → Plan) (s : State) (hd : (me s).deferred = [])
    (ho : opc ≠ 0) (hl : o.lmask.getLsbD 0 = true) (hr : (plan 0 s).post ≠ .rfe) (hi : (plan 0 s).illegal = none)
    (he : (plan 0 s).emptyTrap = false) {e : Nat × Nat} {es : List (Nat × Nat)} (hes : (plan 0 s).errs = e :: es) :
    issueAlone o opc plan s = detected s e.1 0 e.2 { cause := 0x15, slot := slotNumber o.slot } := by
  rw [issueAlone_live o opc plan s hd ho hl hr]
  simp [issueLive, firstOf, hi, doubleWrite, issueChecked, he, hes]

/-- Step 6: a check that fires, outside a segment. -/
theorem issueAlone_fires (o : Fields) (opc : Nat) (plan : Nat → State → Plan) (s : State) (hq : Quiet s)
    (ho : opc ≠ 0) (hl : o.lmask.getLsbD 0 = true) (hr : (plan 0 s).post ≠ .rfe) (hi : (plan 0 s).illegal = none)
    (he : (plan 0 s).emptyTrap = false) (hes : (plan 0 s).errs = []) {k : Nat} (hf : (plan 0 s).fire = some k) :
    issueAlone o opc plan s = trapHere s { cause := 0x0C, code := k, slot := slotNumber o.slot } := by
  rw [issueAlone_live o opc plan s hq.deferred ho hl hr]
  simp [issueLive, firstOf, hi, doubleWrite, issueChecked, he, hes, hf, fireCheck, hq.seg]

/-- Step 7: what the bundle waits for: the first reason and the others. -/
theorem issueAlone_blocks (o : Fields) (opc : Nat) (plan : Nat → State → Plan) (s : State) (hq : Quiet s)
    (ho : opc ≠ 0) (hl : o.lmask.getLsbD 0 = true) (hr : (plan 0 s).post ≠ .rfe) (hi : (plan 0 s).illegal = none)
    (he : (plan 0 s).emptyTrap = false) (hes : (plan 0 s).errs = []) (hf : (plan 0 s).fire = none) {w : Reason} {ws : List Reason}
    (hb : (plan 0 s).blocks = w :: ws) : issueAlone o opc plan s = blockOn s w ws := by
  rw [issueAlone_live o opc plan s hq.deferred ho hl hr]
  simp [issueLive, firstOf, hi, doubleWrite, issueChecked, he, hes, hf, endSegment_quiet s hq.seg, issueReady, bundleBlocks_alone, hb]

/-- Step 8: a memory or tile-access trap. -/
theorem issueAlone_stops (o : Fields) (opc : Nat) (plan : Nat → State → Plan) (s : State) (hq : Quiet s)
    (ho : opc ≠ 0) (hl : o.lmask.getLsbD 0 = true) (hr : (plan 0 s).post ≠ .rfe) (hi : (plan 0 s).illegal = none)
    (he : (plan 0 s).emptyTrap = false) (hes : (plan 0 s).errs = []) (hf : (plan 0 s).fire = none)
    (hb : (plan 0 s).blocks = []) (ht : (plan 0 s).takesTag = true → (me s).tagFail = none)
    (hg : (plan 0 s).gate s = none) {t : TrapInfo}
    (hst : (plan 0 s).stop = some (.trap t)) :
    issueAlone o opc plan s
      = trapHere (noteFailed s (threadPipe (myCore s)) (asidOf (me s)) t) { t with slot := slotNumber o.slot } := by
  rw [issueAlone_live o opc plan s hq.deferred ho hl hr]
  simp only [issueLive, firstOf, hi, issueChecked, he, hes, hf, endSegment_if s _ hq.seg, issueReady, bundleBlocks_alone, hb,
    tagFail_alone _ _ s ht, hg, issueAccess, hst, doubleWrite_alone, List.head?_nil, Bool.false_eq_true, if_false]

/-- Step 8: a page that is not present holds the bundle and starts its page-in (R68). -/
theorem issueAlone_page (o : Fields) (opc : Nat) (plan : Nat → State → Plan) (s : State) (hq : Quiet s)
    (ho : opc ≠ 0) (hl : o.lmask.getLsbD 0 = true) (hr : (plan 0 s).post ≠ .rfe) (hi : (plan 0 s).illegal = none)
    (he : (plan 0 s).emptyTrap = false) (hes : (plan 0 s).errs = []) (hf : (plan 0 s).fire = none)
    (hb : (plan 0 s).blocks = []) (ht : (plan 0 s).takesTag = true → (me s).tagFail = none)
    (hg : (plan 0 s).gate s = none) {k : PageKey} {va : Word} {wr : Bool} (hst : (plan 0 s).stop = some (.page k va wr)) :
    issueAlone o opc plan s = blockOn (startPageIn s k) (.page k va wr (slotNumber o.slot)) := by
  rw [issueAlone_live o opc plan s hq.deferred ho hl hr]
  simp only [issueLive, firstOf, hi, issueChecked, he, hes, hf, endSegment_if s _ hq.seg, issueReady, bundleBlocks_alone, hb,
    tagFail_alone _ _ s ht, hg, issueAccess, hst, doubleWrite_alone, List.head?_nil, Bool.false_eq_true, if_false]

/-- The end of a bundle that holds one operation without a trap, a transfer or an end of its own. -/
theorem endOfBundle_plain (sl : SlotId) (p : Plan) (s : State) (h : p.post = .none) (hq : p.qdep = false)
    (hst : stepTrapDue (me s) = false) : endOfBundle [(sl, p)] s = s := by
  simp [endOfBundle, firstOf, postTend, postTrap, postXfer, postRfe, changeFlow, stepOrGoOn, h, hq, hst]

end Sys2Proof.Machine
end

