-- ==== Sys2Proof/Laws/Memory.lean ====
section
/-! SUPPORT. The laws of HBM: every write keeps the canonical form, and a read after a write. -/

namespace Sys2Proof.Machine

/-! ### The canonical form -/

/-- The canonical form says: addresses rise strictly, and no entry is the unlisted byte. -/
theorem memWf_iff (m : List Host.Cell) :
    Memory.wf m ↔ m.Pairwise (fun a b => a.1 < b.1) ∧ ∀ e ∈ m, e.2 ≠ unlistedByte := by
  unfold Memory.wf
  induction m with
  | nil => simp [memWf]
  | cons x t ih =>
    cases t with
    | nil => simp [memWf]
    | cons y t =>
      have step : (memWf (x :: y :: t) = true) ↔ x.2 ≠ unlistedByte ∧ x.1 < y.1 ∧ memWf (y :: t) = true := by
        simp [memWf, and_assoc]
      rw [step, ih]
      constructor
      · rintro ⟨hx, hlt, hp, hn⟩
        refine ⟨List.pairwise_cons.2 ⟨?_, hp⟩, ?_⟩
        · intro e he
          rcases List.mem_cons.1 he with rfl | he
          · exact hlt
          · exact Nat.lt_trans hlt ((List.pairwise_cons.1 hp).1 e he)
        · intro e he
          rcases List.mem_cons.1 he with rfl | he
          · exact hx
          · exact hn e he
      · rintro ⟨hp, hn⟩
        obtain ⟨h1, h2⟩ := List.pairwise_cons.1 hp
        exact ⟨hn x (by simp), h1 y (by simp), h2, fun e he => hn e (List.mem_cons_of_mem _ he)⟩

/-- Keeping some of the entries keeps the form. -/
theorem memWf_filter {m : List Host.Cell} (h : Memory.wf m) (p : Host.Cell → Bool) : Memory.wf (m.filter p) := by
  rw [memWf_iff] at h ⊢
  exact ⟨h.1.filter p, fun e he => h.2 e (List.mem_filter.1 he).1⟩

/-- Parts that lie one above the other keep the form. -/
theorem memWf_append {l r : List Host.Cell} (hl : Memory.wf l) (hr : Memory.wf r) (h : ∀ a ∈ l, ∀ b ∈ r, a.1 < b.1) :
    Memory.wf (l ++ r) := by
  rw [memWf_iff] at hl hr ⊢
  refine ⟨List.pairwise_append.2 ⟨hl.1, hr.1, h⟩, fun e he => ?_⟩
  rcases List.mem_append.1 he with he | he
  · exact hl.2 e he
  · exact hr.2 e he

theorem memCells_range {a : Nat} {bs : List Byte} {e : Host.Cell} (h : e ∈ memCells a bs) :
    a ≤ e.1 ∧ e.1 < a + bs.length := by
  induction bs generalizing a with
  | nil => cases h
  | cons b t ih =>
    simp only [memCells] at h
    have tail : e ∈ memCells (a + 1) t → a ≤ e.1 ∧ e.1 < a + (b :: t).length := by
      intro h; have := ih h; simp only [List.length_cons]; omega
    split at h
    · exact tail h
    · rcases List.mem_cons.1 h with rfl | h
      · simp
      · exact tail h

theorem memWf_cells (a : Nat) (bs : List Byte) : Memory.wf (memCells a bs) := by
  induction bs generalizing a with
  | nil => rfl
  | cons b t ih =>
    simp only [memCells]
    split
    · exact ih _
    · rename_i hb
      have := (memWf_iff _).1 (ih (a + 1))
      refine (memWf_iff _).2 ⟨List.pairwise_cons.2 ⟨fun e he => ?_, this.1⟩, fun e he => ?_⟩
      · have := memCells_range he; simp only; omega
      · rcases List.mem_cons.1 he with rfl | he
        · exact hb
        · exact this.2 e he

/-- A write keeps the canonical form. -/
theorem memWf_putAll {m : List Host.Cell} (h : Memory.wf m) (a : Nat) (bs : List Byte) : Memory.wf (memPutAll m a bs) := by
  refine memWf_append (memWf_append (memWf_filter h _) (memWf_cells a bs) ?_) (memWf_filter h _) ?_
  · intro x hx y hy
    have := memCells_range hy
    have hx := of_decide_eq_true (List.mem_filter.1 hx).2
    exact Nat.lt_of_lt_of_le hx this.1
  · intro x hx y hy
    have hy := of_decide_eq_true (List.mem_filter.1 hy).2
    rcases List.mem_append.1 hx with hx | hx
    · have hx := of_decide_eq_true (List.mem_filter.1 hx).2; omega
    · have := memCells_range hx; omega

/-- Making bytes zero keeps it. -/
theorem memWf_zero {m : List Host.Cell} (h : Memory.wf m) (lo hi : Nat) : Memory.wf (memZero m lo hi) := memWf_filter h _

/-! ### Reading -/

/-- An address that no entry has reads as the unlisted byte. -/
theorem memByte_none {m : List Host.Cell} {a : Nat} (h : ∀ e ∈ m, e.1 ≠ a) : memByte m a = unlistedByte := by
  induction m with
  | nil => rfl
  | cons x t ih =>
    have hx : x.1 ≠ a := h x (by simp)
    simp only [memByte, hx, if_false]
    exact ih (fun e he => h e (List.mem_cons_of_mem _ he))

theorem memByte_append (l r : List Host.Cell) (a : Nat) :
    memByte (l ++ r) a = if ∃ e ∈ l, e.1 = a then memByte l a else memByte r a := by
  induction l with
  | nil => simp
  | cons x t ih =>
    by_cases hx : x.1 = a
    · simp [memByte, hx]
    · have he : (∃ e ∈ x :: t, e.1 = a) ↔ ∃ e ∈ t, e.1 = a := by simp [hx]
      simp only [List.cons_append, memByte, hx, if_false, ih, he]

/-- Dropping entries of other addresses leaves a byte as it was. -/
theorem memByte_filter (m : List Host.Cell) (p : Host.Cell → Bool) (a : Nat) (h : ∀ e ∈ m, e.1 = a → p e = true) :
    memByte (m.filter p) a = memByte m a := by
  induction m with
  | nil => rfl
  | cons x t ih =>
    have ht := ih (fun e he => h e (List.mem_cons_of_mem _ he))
    by_cases hp : p x = true
    · simp only [List.filter_cons, hp, if_true, memByte, ht]
    · have hx : x.1 ≠ a := fun hx => hp (h x (by simp) hx)
      simp only [List.filter_cons, hp, memByte, hx, if_false, Bool.false_eq_true, ht]

theorem memByte_cells (a : Nat) (bs : List Byte) (x : Nat) :
    memByte (memCells a bs) x = if a ≤ x then bs.getD (x - a) unlistedByte else unlistedByte := by
  induction bs generalizing a with
  | nil => simp [memCells, memByte]
  | cons b t ih =>
    rcases Nat.lt_trichotomy x a with h | rfl | h
    · rw [if_neg (by omega)]
      exact memByte_none (fun e he => by have := memCells_range he; omega)
    · rw [if_pos (Nat.le_refl _), Nat.sub_self]
      simp only [memCells]
      split
      · rename_i hb
        rw [ih, if_neg (by omega)]; simp [hb]
      · simp [memByte]
    · have e : x - a = (x - (a + 1)) + 1 := by omega
      rw [if_pos (by omega), e, List.getD_cons_succ]
      simp only [memCells]
      split
      · rw [ih, if_pos (by omega)]
      · simp only [memByte, show a ≠ x by omega, if_false, ih, if_pos (show a + 1 ≤ x by omega)]

/-- A read after a write: the byte written inside it, the old byte outside. -/
theorem memByte_putAll (m : List Host.Cell) (a : Nat) (bs : List Byte) (x : Nat) :
    memByte (memPutAll m a bs) x = if a ≤ x ∧ x < a + bs.length then bs.getD (x - a) unlistedByte else memByte m x := by
  unfold memPutAll
  rw [List.append_assoc, memByte_append, memByte_append]
  by_cases h : a ≤ x ∧ x < a + bs.length
  · rw [if_pos h, if_neg]
    · split
      · rw [memByte_cells, if_pos h.1]
      · rename_i hc
        have h0 : memByte (memCells a bs) x = unlistedByte := memByte_none (fun e he hx => hc ⟨e, he, hx⟩)
        rw [memByte_cells, if_pos h.1] at h0
        rw [h0]
        refine memByte_none (fun e he => ?_)
        have := of_decide_eq_true (List.mem_filter.1 he).2
        omega
    · rintro ⟨e, he, rfl⟩
      have := of_decide_eq_true (List.mem_filter.1 he).2
      omega
  · rw [if_neg h]
    have hc : ¬ ∃ e ∈ memCells a bs, e.1 = x := by
      rintro ⟨e, he, rfl⟩
      exact h (memCells_range he)
    rw [if_neg hc]
    by_cases hx : x < a
    · have f1 := memByte_filter m (fun e => decide (e.1 < a)) x (fun e _ he => by simpa [he] using hx)
      split
      · exact f1
      · rename_i hn
        rw [memByte_none (m := m.filter (fun e => decide (a + bs.length ≤ e.1)))]
        · rw [← f1]; exact (memByte_none (fun e he hx' => hn ⟨e, he, hx'⟩)).symm
        · intro e he
          have := of_decide_eq_true (List.mem_filter.1 he).2
          omega
    · rw [if_neg]
      · exact memByte_filter m _ x (fun e _ he => by simp only [he, decide_eq_true_eq]; omega)
      · rintro ⟨e, he, rfl⟩
        have := of_decide_eq_true (List.mem_filter.1 he).2
        omega

/-- A byte outside the bytes made zero stays; one inside reads 0. -/
theorem memByte_zero (m : List Host.Cell) (lo hi x : Nat) :
    memByte (memZero m lo hi) x = if lo ≤ x ∧ x < hi then unlistedByte else memByte m x := by
  unfold memZero
  split
  · rename_i h
    refine memByte_none (fun e he hx => ?_)
    have := (List.mem_filter.1 he).2
    simp only [Bool.or_eq_true, decide_eq_true_eq] at this
    omega
  · rename_i h
    refine memByte_filter m _ x (fun e _ he => ?_)
    simp only [he, Bool.or_eq_true, decide_eq_true_eq]
    omega

end Sys2Proof.Machine
end

