-- ==== Sys2Proof/Laws/PerInstr.lean ====
section
/-! SUPPORT. Per-instruction lemmas: an instruction has words exactly where the encoding tables give it a place. -/

namespace Sys2Proof.Laws.Shape

open Sys2Proof.Machine

/-- The encoder gives words to the units, slot operations and micro-ops, and to nothing else (R174, R198 to R201, R204). -/
def Statement (i : Instr) : Prop := (encode i).isSome = hasWords i

theorem issue : ∀ x0 x1 x2, Statement (.issue x0 x1 x2) := fun _ _ _ => rfl
theorem lbeg : ∀ x0, Statement (.lbeg x0) := fun _ => rfl
theorem lend : ∀ x0, Statement (.lend x0) := fun _ => rfl
theorem halt : Statement .halt := rfl
theorem nops : ∀ x0, Statement (.nops x0) := fun _ => rfl
theorem isync : Statement .isync := rfl
theorem bswap : ∀ x0, Statement (.bswap x0) := fun _ => rfl
theorem nop : ∀ x0, Statement (.nop x0) := fun _ => rfl
theorem add : ∀ x0, Statement (.add x0) := fun _ => rfl
theorem sub : ∀ x0, Statement (.sub x0) := fun _ => rfl
theorem mul : ∀ x0, Statement (.mul x0) := fun _ => rfl
theorem mulh : ∀ x0, Statement (.mulh x0) := fun _ => rfl
theorem mulhu : ∀ x0, Statement (.mulhu x0) := fun _ => rfl
theorem div : ∀ x0, Statement (.div x0) := fun _ => rfl
theorem divu : ∀ x0, Statement (.divu x0) := fun _ => rfl
theorem rem : ∀ x0, Statement (.rem x0) := fun _ => rfl
theorem remu : ∀ x0, Statement (.remu x0) := fun _ => rfl
theorem and : ∀ x0, Statement (.and x0) := fun _ => rfl
theorem or : ∀ x0, Statement (.or x0) := fun _ => rfl
theorem xor : ∀ x0, Statement (.xor x0) := fun _ => rfl
theorem shl : ∀ x0, Statement (.shl x0) := fun _ => rfl
theorem shr : ∀ x0, Statement (.shr x0) := fun _ => rfl
theorem sra : ∀ x0, Statement (.sra x0) := fun _ => rfl
theorem rol : ∀ x0, Statement (.rol x0) := fun _ => rfl
theorem ror : ∀ x0, Statement (.ror x0) := fun _ => rfl
theorem min : ∀ x0, Statement (.min x0) := fun _ => rfl
theorem max : ∀ x0, Statement (.max x0) := fun _ => rfl
theorem minu : ∀ x0, Statement (.minu x0) := fun _ => rfl
theorem maxu : ∀ x0, Statement (.maxu x0) := fun _ => rfl
theorem clz : ∀ x0, Statement (.clz x0) := fun _ => rfl
theorem ctz : ∀ x0, Statement (.ctz x0) := fun _ => rfl
theorem popc : ∀ x0, Statement (.popc x0) := fun _ => rfl
theorem cmp : ∀ x0, Statement (.cmp x0) := fun _ => rfl
theorem sel : ∀ x0, Statement (.sel x0) := fun _ => rfl
theorem ldi : ∀ x0, Statement (.ldi x0) := fun _ => rfl
theorem sext : ∀ x0, Statement (.sext x0) := fun _ => rfl
theorem zext : ∀ x0, Statement (.zext x0) := fun _ => rfl
theorem aplane : ∀ x0, Statement (.aplane x0) := fun _ => rfl
theorem xput : ∀ x0, Statement (.xput x0) := fun _ => rfl
theorem yput : ∀ x0, Statement (.yput x0) := fun _ => rfl
theorem xget : ∀ x0, Statement (.xget x0) := fun _ => rfl
theorem yget : ∀ x0, Statement (.yget x0) := fun _ => rfl
theorem bset : ∀ x0, Statement (.bset x0) := fun _ => rfl
theorem jtab : ∀ x0, Statement (.jtab x0) := fun _ => rfl
theorem call : ∀ x0, Statement (.call x0) := fun _ => rfl
theorem ret : ∀ x0, Statement (.ret x0) := fun _ => rfl
theorem lset : ∀ x0, Statement (.lset x0) := fun _ => rfl
theorem lstr : ∀ x0, Statement (.lstr x0) := fun _ => rfl
theorem cmpt : ∀ x0, Statement (.cmpt x0) := fun _ => rfl
theorem cmptP : ∀ x0, Statement (.cmptP x0) := fun _ => rfl
theorem cmptV : ∀ x0, Statement (.cmptV x0) := fun _ => rfl
theorem trap : ∀ x0, Statement (.trap x0) := fun _ => rfl
theorem brk : ∀ x0, Statement (.brk x0) := fun _ => rfl
theorem rfe : ∀ x0, Statement (.rfe x0) := fun _ => rfl
theorem mtk : ∀ x0, Statement (.mtk x0) := fun _ => rfl
theorem mtkQsoft : ∀ x0, Statement (.mtkQsoft x0) := fun _ => rfl
theorem mtkQstat : ∀ x0, Statement (.mtkQstat x0) := fun _ => rfl
theorem mtkRmode : ∀ x0, Statement (.mtkRmode x0) := fun _ => rfl
theorem mtkMdepth : ∀ x0, Statement (.mtkMdepth x0) := fun _ => rfl
theorem mtkDbgctl : ∀ x0, Statement (.mtkDbgctl x0) := fun _ => rfl
theorem mfk : ∀ x0, Statement (.mfk x0) := fun _ => rfl
theorem ld : ∀ x0, Statement (.ld x0) := fun _ => rfl
theorem ldu : ∀ x0, Statement (.ldu x0) := fun _ => rfl
theorem st : ∀ x0, Statement (.st x0) := fun _ => rfl
theorem stq : ∀ x0, Statement (.stq x0) := fun _ => rfl
theorem vld : ∀ x0, Statement (.vld x0) := fun _ => rfl
theorem vst : ∀ x0, Statement (.vst x0) := fun _ => rfl
theorem vgth : ∀ x0, Statement (.vgth x0) := fun _ => rfl
theorem vsct : ∀ x0, Statement (.vsct x0) := fun _ => rfl
theorem vldg : ∀ x0, Statement (.vldg x0) := fun _ => rfl
theorem vstg : ∀ x0, Statement (.vstg x0) := fun _ => rfl
theorem vstxM : ∀ x0, Statement (.vstxM x0) := fun _ => rfl
theorem atomAdd : ∀ x0, Statement (.atomAdd x0) := fun _ => rfl
theorem atomAnd : ∀ x0, Statement (.atomAnd x0) := fun _ => rfl
theorem atomOr : ∀ x0, Statement (.atomOr x0) := fun _ => rfl
theorem atomXor : ∀ x0, Statement (.atomXor x0) := fun _ => rfl
theorem atomMin : ∀ x0, Statement (.atomMin x0) := fun _ => rfl
theorem atomMax : ∀ x0, Statement (.atomMax x0) := fun _ => rfl
theorem atomMinu : ∀ x0, Statement (.atomMinu x0) := fun _ => rfl
theorem atomMaxu : ∀ x0, Statement (.atomMaxu x0) := fun _ => rfl
theorem atomSwap : ∀ x0, Statement (.atomSwap x0) := fun _ => rfl
theorem atomCas : ∀ x0, Statement (.atomCas x0) := fun _ => rfl
theorem vote : ∀ x0, Statement (.vote x0) := fun _ => rfl
theorem wait : ∀ x0, Statement (.wait x0) := fun _ => rfl
theorem fence : ∀ x0, Statement (.fence x0) := fun _ => rfl
theorem drain : ∀ x0, Statement (.drain x0) := fun _ => rfl
theorem slack : ∀ x0, Statement (.slack x0) := fun _ => rfl
theorem rdv : ∀ x0, Statement (.rdv x0) := fun _ => rfl
theorem errinj : ∀ x0, Statement (.errinj x0) := fun _ => rfl
theorem vadd : ∀ x0, Statement (.vadd x0) := fun _ => rfl
theorem vsub : ∀ x0, Statement (.vsub x0) := fun _ => rfl
theorem vmul : ∀ x0, Statement (.vmul x0) := fun _ => rfl
theorem vfma : ∀ x0, Statement (.vfma x0) := fun _ => rfl
theorem vfms : ∀ x0, Statement (.vfms x0) := fun _ => rfl
theorem vfnma : ∀ x0, Statement (.vfnma x0) := fun _ => rfl
theorem vfnms : ∀ x0, Statement (.vfnms x0) := fun _ => rfl
theorem vmin : ∀ x0, Statement (.vmin x0) := fun _ => rfl
theorem vmax : ∀ x0, Statement (.vmax x0) := fun _ => rfl
theorem vabs : ∀ x0, Statement (.vabs x0) := fun _ => rfl
theorem vneg : ∀ x0, Statement (.vneg x0) := fun _ => rfl
theorem vcopysign : ∀ x0, Statement (.vcopysign x0) := fun _ => rfl
theorem vand : ∀ x0, Statement (.vand x0) := fun _ => rfl
theorem vor : ∀ x0, Statement (.vor x0) := fun _ => rfl
theorem vxor : ∀ x0, Statement (.vxor x0) := fun _ => rfl
theorem vshl : ∀ x0, Statement (.vshl x0) := fun _ => rfl
theorem vshr : ∀ x0, Statement (.vshr x0) := fun _ => rfl
theorem vsra : ∀ x0, Statement (.vsra x0) := fun _ => rfl
theorem vsel : ∀ x0, Statement (.vsel x0) := fun _ => rfl
theorem vcmp : ∀ x0, Statement (.vcmp x0) := fun _ => rfl
theorem pand : ∀ x0, Statement (.pand x0) := fun _ => rfl
theorem por : ∀ x0, Statement (.por x0) := fun _ => rfl
theorem pxor : ∀ x0, Statement (.pxor x0) := fun _ => rfl
theorem pnot : ∀ x0, Statement (.pnot x0) := fun _ => rfl
theorem pany : ∀ x0, Statement (.pany x0) := fun _ => rfl
theorem pall : ∀ x0, Statement (.pall x0) := fun _ => rfl
theorem vrsum : ∀ x0, Statement (.vrsum x0) := fun _ => rfl
theorem vrmax : ∀ x0, Statement (.vrmax x0) := fun _ => rfl
theorem vrmin : ∀ x0, Statement (.vrmin x0) := fun _ => rfl
theorem vperm : ∀ x0, Statement (.vperm x0) := fun _ => rfl
theorem vrot : ∀ x0, Statement (.vrot x0) := fun _ => rfl
theorem vrotI : ∀ x0, Statement (.vrotI x0) := fun _ => rfl
theorem vrotL : ∀ x0, Statement (.vrotL x0) := fun _ => rfl
theorem vbcast : ∀ x0, Statement (.vbcast x0) := fun _ => rfl
theorem vbcastI : ∀ x0, Statement (.vbcastI x0) := fun _ => rfl
theorem vbcastL : ∀ x0, Statement (.vbcastL x0) := fun _ => rfl
theorem vxfer : ∀ x0, Statement (.vxfer x0) := fun _ => rfl
theorem vrcp : ∀ x0, Statement (.vrcp x0) := fun _ => rfl
theorem vrsqrt : ∀ x0, Statement (.vrsqrt x0) := fun _ => rfl
theorem vexp2 : ∀ x0, Statement (.vexp2 x0) := fun _ => rfl
theorem vlog2 : ∀ x0, Statement (.vlog2 x0) := fun _ => rfl
theorem vcvt : ∀ x0 x1, Statement (.vcvt x0 x1) := fun _ _ => rfl
theorem vcvtSat : ∀ x0 x1, Statement (.vcvtSat x0 x1) := fun _ _ => rfl
theorem vmxq : ∀ x0 x1, Statement (.vmxq x0 x1) := fun _ _ => rfl
theorem vmxd : ∀ x0 x1, Statement (.vmxd x0 x1) := fun _ _ => rfl
theorem vtype : ∀ x0, Statement (.vtype x0) := fun _ => rfl
theorem qcmp : ∀ x0 x1, Statement (.qcmp x0 x1) := fun _ _ => rfl
theorem qand : ∀ x0, Statement (.qand x0) := fun _ => rfl
theorem qor : ∀ x0, Statement (.qor x0) := fun _ => rfl
theorem qnot : ∀ x0, Statement (.qnot x0) := fun _ => rfl
theorem qfromp : ∀ x0, Statement (.qfromp x0) := fun _ => rfl
theorem qconst : ∀ x0, Statement (.qconst x0) := fun _ => rfl
theorem qconstL : ∀ x0, Statement (.qconstL x0) := fun _ => rfl
theorem qlin : ∀ x0, Statement (.qlin x0) := fun _ => rfl
theorem qmov : ∀ x0, Statement (.qmov x0) := fun _ => rfl
theorem qmovCross : ∀ x0, Statement (.qmovCross x0) := fun _ => rfl
theorem qmovFromRow : ∀ x0, Statement (.qmovFromRow x0) := fun _ => rfl
theorem qmovToRow : ∀ x0, Statement (.qmovToRow x0) := fun _ => rfl
theorem vblendQ : ∀ x0 x1, Statement (.vblendQ x0 x1) := fun _ _ => rfl
theorem qcol : ∀ x0, Statement (.qcol x0) := fun _ => rfl
theorem qgcmp : ∀ x0, Statement (.qgcmp x0) := fun _ => rfl
theorem qgblend : ∀ x0, Statement (.qgblend x0) := fun _ => rfl
theorem mcall : ∀ x0, Statement (.mcall x0) := fun _ => rfl
theorem mcallM : ∀ x0, Statement (.mcallM x0) := fun _ => rfl
theorem mset : ∀ x0, Statement (.mset x0) := fun _ => rfl
theorem msetL : ∀ x0, Statement (.msetL x0) := fun _ => rfl
theorem mtile : ∀ x0, Statement (.mtile x0) := fun _ => rfl
theorem mstat : ∀ x0, Statement (.mstat x0) := fun _ => rfl
theorem mstatStatusClr : ∀ x0, Statement (.mstatStatusClr x0) := fun _ => rfl
theorem mbound : ∀ x0, Statement (.mbound x0) := fun _ => rfl
theorem cpin : ∀ x0, Statement (.cpin x0) := fun _ => rfl
theorem cpout : ∀ x0, Statement (.cpout x0) := fun _ => rfl
theorem cpacc : ∀ x0, Statement (.cpacc x0) := fun _ => rfl
theorem cpfill : ∀ x0, Statement (.cpfill x0) := fun _ => rfl
theorem chpost : ∀ x0, Statement (.chpost x0) := fun _ => rfl
theorem chsnd : ∀ x0, Statement (.chsnd x0) := fun _ => rfl
theorem cpinReg : ∀ x0, Statement (.cpinReg x0) := fun _ => rfl
theorem cpoutReg : ∀ x0, Statement (.cpoutReg x0) := fun _ => rfl
theorem cpaccReg : ∀ x0, Statement (.cpaccReg x0) := fun _ => rfl
theorem cpfillReg : ∀ x0, Statement (.cpfillReg x0) := fun _ => rfl
theorem chpostReg : ∀ x0, Statement (.chpostReg x0) := fun _ => rfl
theorem chsndReg : ∀ x0, Statement (.chsndReg x0) := fun _ => rfl
theorem chq : ∀ x0, Statement (.chq x0) := fun _ => rfl
theorem chqLatch : ∀ x0, Statement (.chqLatch x0) := fun _ => rfl
theorem plnew : ∀ x0, Statement (.plnew x0) := fun _ => rfl
theorem pldel : ∀ x0, Statement (.pldel x0) := fun _ => rfl
theorem plprot : ∀ x0, Statement (.plprot x0) := fun _ => rfl
theorem plq : ∀ x0, Statement (.plq x0) := fun _ => rfl
theorem plpin : ∀ x0, Statement (.plpin x0) := fun _ => rfl
theorem post : ∀ x0, Statement (.post x0) := fun _ => rfl
theorem tend : ∀ x0, Statement (.tend x0) := fun _ => rfl
theorem targ : ∀ x0, Statement (.targ x0) := fun _ => rfl
theorem cwtw : ∀ x0, Statement (.cwtw x0) := fun _ => rfl
theorem cwtr : ∀ x0, Statement (.cwtr x0) := fun _ => rfl
theorem ifence : ∀ x0, Statement (.ifence x0) := fun _ => rfl
theorem wld : ∀ x0 x1 x2 x3 x4 x5, Statement (.wld x0 x1 x2 x3 x4 x5) := fun _ _ _ _ _ _ => rfl
theorem act : ∀ x0 x1 x2 x3 x4 x5 x6 x7 x8 x9, Statement (.act x0 x1 x2 x3 x4 x5 x6 x7 x8 x9) := fun _ _ _ _ _ _ _ _ _ _ => rfl
theorem drn : ∀ x0 x1 x2 x3 x4 x5 x6 x7 x8 x9 x10, Statement (.drn x0 x1 x2 x3 x4 x5 x6 x7 x8 x9 x10) := fun _ _ _ _ _ _ _ _ _ _ _ => rfl
theorem cks : ∀ x0 x1 x2 x3 x4, Statement (.cks x0 x1 x2 x3 x4) := fun _ _ _ _ _ => rfl
theorem mlp : ∀ x0 x1, Statement (.mlp x0 x1) := fun _ _ => rfl
theorem mnd : Statement .mnd := rfl
theorem midx : ∀ x0 x1 x2 x3, Statement (.midx x0 x1 x2 x3) := fun _ _ _ _ => rfl
theorem msel : ∀ x0 x1 x2, Statement (.msel x0 x1 x2) := fun _ _ _ => rfl
theorem mnop : Statement .mnop := rfl
theorem routineStart : ∀ x0, Statement (.routineStart x0) := fun _ => rfl
theorem actRowLands : ∀ x0, Statement (.actRowLands x0) := fun _ => rfl
theorem mdepthExpiry : ∀ x0, Statement (.mdepthExpiry x0) := fun _ => rfl
theorem fixedResultLands : ∀ x0, Statement (.fixedResultLands x0) := fun _ => rfl
theorem loadDataReturn : ∀ x0 x1, Statement (.loadDataReturn x0 x1) := fun _ _ => rfl
theorem jtabHeaderReturn : ∀ x0, Statement (.jtabHeaderReturn x0) := fun _ => rfl
theorem jtabEntryReturn : ∀ x0, Statement (.jtabEntryReturn x0) := fun _ => rfl
theorem sfuResult : ∀ x0, Statement (.sfuResult x0) := fun _ => rfl
theorem mstatSample : ∀ x0, Statement (.mstatSample x0) := fun _ => rfl
theorem hubCounterArrives : ∀ x0, Statement (.hubCounterArrives x0) := fun _ => rfl
theorem storePerformsGrp : ∀ x0, Statement (.storePerformsGrp x0) := fun _ => rfl
theorem storePerformsPkg : ∀ x0, Statement (.storePerformsPkg x0) := fun _ => rfl
theorem waitReread : ∀ x0, Statement (.waitReread x0) := fun _ => rfl
theorem taskComplete : ∀ x0, Statement (.taskComplete x0) := fun _ => rfl
theorem remoteDecrement : ∀ x0 x1, Statement (.remoteDecrement x0 x1) := fun _ _ => rfl
theorem dispatch : ∀ x0 x1, Statement (.dispatch x0 x1) := fun _ _ => rfl
theorem egressSample : Statement .egressSample := rfl
theorem preempt : ∀ x0, Statement (.preempt x0) := fun _ => rfl
theorem contextSaved : ∀ x0, Statement (.contextSaved x0) := fun _ => rfl
theorem restoreComplete : ∀ x0 x1 x2 x3, Statement (.restoreComplete x0 x1 x2 x3) := fun _ _ _ _ => rfl
theorem watchdogExpiry : ∀ x0, Statement (.watchdogExpiry x0) := fun _ => rfl
theorem imageToFlash : ∀ x0, Statement (.imageToFlash x0) := fun _ => rfl
theorem imageFromFlash : ∀ x0, Statement (.imageFromFlash x0) := fun _ => rfl
theorem copyStart : ∀ x0, Statement (.copyStart x0) := fun _ => rfl
theorem copyRow : ∀ x0, Statement (.copyRow x0) := fun _ => rfl
theorem copyNodeFinish : ∀ x0, Statement (.copyNodeFinish x0) := fun _ => rfl
theorem eventNodeSend : ∀ x0, Statement (.eventNodeSend x0) := fun _ => rfl
theorem cwtwComplete : ∀ x0, Statement (.cwtwComplete x0) := fun _ => rfl
theorem chsndDeliver : ∀ x0 x1, Statement (.chsndDeliver x0 x1) := fun _ _ => rfl
theorem postAccepted : ∀ x0, Statement (.postAccepted x0) := fun _ => rfl
theorem pseWalkComplete : ∀ x0 x1 x2, Statement (.pseWalkComplete x0 x1 x2) := fun _ _ _ => rfl
theorem invalidateAck : ∀ x0 x1, Statement (.invalidateAck x0 x1) := fun _ _ => rfl
theorem pageInComplete : ∀ x0 x1, Statement (.pageInComplete x0 x1) := fun _ _ => rfl
theorem pageOutComplete : ∀ x0, Statement (.pageOutComplete x0) := fun _ => rfl
theorem arrivalRecord : ∀ x0 x1 x2 x3, Statement (.arrivalRecord x0 x1 x2 x3) := fun _ _ _ _ => rfl
theorem stepDecision : ∀ x0 x1 x2 x3, Statement (.stepDecision x0 x1 x2 x3) := fun _ _ _ _ => rfl
theorem deferredWriteArrives : ∀ x0, Statement (.deferredWriteArrives x0) := fun _ => rfl
theorem stepApply : ∀ x0, Statement (.stepApply x0) := fun _ => rfl
theorem applyReport : ∀ x0 x1 x2, Statement (.applyReport x0 x1 x2) := fun _ _ _ => rfl
theorem stepCommit : ∀ x0 x1, Statement (.stepCommit x0 x1) := fun _ _ => rfl
theorem skewExpiry : ∀ x0, Statement (.skewExpiry x0) := fun _ => rfl
theorem packageSealed : ∀ x0, Statement (.packageSealed x0) := fun _ => rfl
theorem triggerMessage : ∀ x0, Statement (.triggerMessage x0) := fun _ => rfl
theorem load : ∀ x0 x1, Statement (.load x0 x1) := fun _ _ => rfl
theorem unload : ∀ x0 x1, Statement (.unload x0 x1) := fun _ _ => rfl
theorem region : ∀ x0 x1, Statement (.region x0 x1) := fun _ _ => rfl
theorem plane : ∀ x0 x1 x2 x3, Statement (.plane x0 x1 x2 x3) := fun _ _ _ _ => rfl
theorem launch : ∀ x0 x1 x2, Statement (.launch x0 x1 x2) := fun _ _ _ => rfl
theorem arm : ∀ x0 x1 x2 x3, Statement (.arm x0 x1 x2 x3) := fun _ _ _ _ => rfl
theorem disarm : ∀ x0 x1, Statement (.disarm x0 x1) := fun _ _ => rfl
theorem treset : ∀ x0, Statement (.treset x0) := fun _ => rfl
theorem hconf : ∀ x0 x1, Statement (.hconf x0 x1) := fun _ _ => rfl
theorem query : ∀ x0 x1, Statement (.query x0 x1) := fun _ _ => rfl
theorem attest : ∀ x0 x1, Statement (.attest x0 x1) := fun _ _ => rfl
theorem errbankW1c : ∀ x0 x1, Statement (.errbankW1c x0 x1) := fun _ _ => rfl
theorem powerUp : ∀ x0, Statement (.powerUp x0) := fun _ => rfl
theorem powerLoss : Statement .powerLoss := rfl
theorem recoveryImageWrite : ∀ x0 x1 x2, Statement (.recoveryImageWrite x0 x1 x2) := fun _ _ _ => rfl
theorem identityRederive : ∀ x0, Statement (.identityRederive x0) := fun _ => rfl
theorem cooldownRequest : ∀ x0, Statement (.cooldownRequest x0) := fun _ => rfl
theorem warmupRequest : Statement .warmupRequest := rfl
theorem sensorSample : ∀ x0, Statement (.sensorSample x0) := fun _ => rfl
theorem bandFall : Statement .bandFall := rfl
theorem clockPauseEnd : Statement .clockPauseEnd := rfl
theorem hbmTimingHoldEnd : Statement .hbmTimingHoldEnd := rfl
theorem refreshCommand : ∀ x0, Statement (.refreshCommand x0) := fun _ => rfl
theorem patrolScrubRow : ∀ x0 x1, Statement (.patrolScrubRow x0 x1) := fun _ _ => rfl
theorem rateJudge : ∀ x0, Statement (.rateJudge x0) := fun _ => rfl
theorem soakComplete : Statement .soakComplete := rfl
theorem arraySelfTestDone : ∀ x0, Statement (.arraySelfTestDone x0) := fun _ => rfl
theorem parkingComplete : Statement .parkingComplete := rfl
theorem telemetryFrame : ∀ x0 x1 x2 x3, Statement (.telemetryFrame x0 x1 x2 x3) := fun _ _ _ _ => rfl
theorem replayArm : ∀ x0 x1 x2, Statement (.replayArm x0 x1 x2) := fun _ _ _ => rfl
theorem drainRow : ∀ x0, Statement (.drainRow x0) := fun _ => rfl
theorem microOpComplete : ∀ x0, Statement (.microOpComplete x0) := fun _ => rfl
theorem pageOut : ∀ x0, Statement (.pageOut x0) := fun _ => rfl
theorem transientUpset : ∀ x0, Statement (.transientUpset x0) := fun _ => rfl
theorem bootFlashUpdate : ∀ x0 x1, Statement (.bootFlashUpdate x0 x1) := fun _ _ => rfl
theorem repairMapRetest : ∀ x0, Statement (.repairMapRetest x0) := fun _ => rfl
theorem asidGrant : ∀ x0 x1 x2 x3 x4 x5, Statement (.asidGrant x0 x1 x2 x3 x4 x5) := fun _ _ _ _ _ _ => rfl
theorem asidFree : ∀ x0, Statement (.asidFree x0) := fun _ => rfl

end Sys2Proof.Laws.Shape
end

