-- ==== Sys2Proof/Laws/Plans.lean ====
section
/-! SUPPORT. What the shared shapes of plans do when nothing stops them: one scalar result, results of rows, an effect of
its own. Each lemma says once what every operation of its shape does. -/

namespace Sys2Proof.Machine

/-! ### The end of a unit without a trap -/

theorem stepTrapDue_of_kspace {c d : Ctx} (h : c.arch.kspace = d.arch.kspace) : stepTrapDue c = stepTrapDue d := by
  simp [stepTrapDue, inHandler, kget, h]

theorem me_advance (s : State) (n : Nat) : me (advance s n) = me s := rfl

@[simp] theorem cur_advance (s : State) (n : Nat) : (advance s n).cur = s.cur := rfl

theorem me_goOn (s : State) : me (goOn s) = { stepXfer (me s) 1 (now (advance s 1)) with imm := none, phase := .none } := by
  simp [goOn, moveOn, me_advance]

/-- The context after a unit that issues with no transfer pending: the pc moves on, the latch is emptied (R10). -/
theorem me_goOn_plain (s : State) (h : (me s).xfer = none) :
    me (goOn s) = { me s with pc := (me s).npc, imm := none, phase := .none } := by
  rw [me_goOn]; simp [stepXfer, h]

/-- What an effect leaves as it is, so that its unit ends plainly: no step trap comes due, and no transfer is pending. -/
structure Steady (s t : State) : Prop where
  step : stepTrapDue (me t) = stepTrapDue (me s)
  xfer : (me t).xfer = (me s).xfer

theorem Steady.refl (s : State) : Steady s s := ⟨rfl, rfl⟩

theorem Steady.trans {s t u : State} (h : Steady s t) (g : Steady t u) : Steady s u := ⟨g.step.trans h.step, g.xfer.trans h.xfer⟩

/-- The end of a unit with no transfer pending is steady. -/
theorem steady_goOn (s : State) (h : (me s).xfer = none) : Steady s (goOn s) := by
  constructor <;> rw [me_goOn_plain s h]
  exact stepTrapDue_of_kspace rfl

theorem me_sendResult (s : State) (f : InFlight) :
    me (sendResult s f) = { me s with flight := (me s).flight ++ [{ f with late := (me s).xfer.isSome }] } := by
  simp [sendResult]

theorem steady_sendResult (s : State) (f : InFlight) : Steady s (sendResult s f) := by
  constructor <;> rw [me_sendResult]
  rfl

theorem cur_sendResult (s : State) (f : InFlight) : (sendResult s f).cur = s.cur := rfl

theorem now_sendResult (s : State) (f : InFlight) : now (sendResult s f) = now s := rfl

theorem steady_sendAll (fs : List InFlight) (s : State) : Steady s (fs.foldl sendResult s) := by
  induction fs generalizing s with
  | nil => exact .refl s
  | cons f t ih => exact (steady_sendResult s f).trans (ih _)

/-- DRAW is no register of debug or handler mode. -/
theorem steady_advanceDraw (n : Nat) (s : State) : Steady s (advanceDraw n s) := by
  unfold advanceDraw
  split
  · exact .refl s
  · constructor <;> simp [stepTrapDue, inHandler, kget_kset_other]

/-- An operation without a trap, a transfer or an end of its own: its effect, its draw, and the program goes on. -/
theorem issueAlone_plain (o : Fields) (opc : Nat) (plan : Nat → State → Plan) (s : State) (hq : Quiet s) (ho : opc ≠ 0)
    (hl : o.lmask.getLsbD 0 = true) (hp : PlanGoes s (plan 0 s))
    (hpost : (plan 0 s).post = .none) (hdep : (plan 0 s).qdep = false)
    (hst : Steady s ((plan 0 s).effect s)) :
    issueAlone o opc plan s = goOn (advanceDraw (if (plan 0 s).draws then 1 else 0) ((plan 0 s).effect s)) := by
  rw [issueAlone_goes o opc plan s hq ho hl hp, endOfBundle_plain _ _ _ hpost hdep]
  · rfl
  · have h := hst.trans (steady_advanceDraw (if (plan 0 s).draws then 1 else 0) _)
    exact ((h.trans (steady_goOn _ (h.xfer.trans hq.xfer))).step).trans hq.step

theorem advanceDraw_zero (s : State) : advanceDraw 0 s = s := rfl

/-! ### Operands -/

theorem scalarSrc_holds {s : State} {code : Nat} {v : Word} (bt : Bool) (h : Holds s code v) :
    ∃ x, scalarSrc s code bt = some x ∧ x.v = v ∧ x.res = rho v ∧ x.full = true := by
  rcases h with ⟨hc, hf, hv, hr⟩ | ⟨rfl, hv⟩
  · exact ⟨_, by simp [scalarSrc, hc]; rfl, hv, hr, hf⟩
  · subst hv; exact ⟨_, by simp [scalarSrc]; rfl, rfl, rfl, rfl⟩

theorem srcA_holds {s : State} {o : Fields} {v : Word} (h : Holds s o.srca.toNat v) :
    ∃ x, srcA s o = some x ∧ x.v = v ∧ x.res = rho v ∧ x.full = true := scalarSrc_holds o.bta h

theorem srcB_holds {s : State} {o : Fields} {v : Word} (h : HoldsB s o v) :
    ∃ x, srcB s o = some x ∧ x.v = v ∧ x.res = rho v ∧ x.full = true := by
  unfold HoldsB at h
  by_cases ht : o.twin = true
  · simp only [ht, if_true] at h
    exact ⟨immSrc v, by simp [srcB, ht, shortSext, h], rfl, rfl, rfl⟩
  · simp only [ht] at h
    obtain ⟨x, hx⟩ := scalarSrc_holds o.btb h
    exact ⟨x, by simpa [srcB, ht] using hx.1, hx.2⟩

theorem srcD_holds {s : State} {code : Nat} {v : Word} (hc : code < 0x68) (h : Holds s code v) :
    (srcD s code).v = v ∧ (srcD s code).res = rho v ∧ (srcD s code).full = true := by
  rcases h with ⟨-, hf, hv, hr⟩ | ⟨rfl, -⟩
  · exact ⟨hv, hr, hf⟩
  · exact absurd hc (by decide)

/-- Sources that are all full neither trap nor block. -/
theorem full_sources {srcs : List Src} (h : ∀ x ∈ srcs, x.full = true) :
    anyEmptyTrap srcs = false ∧ emptyWaits srcs = [] ∧ allFull srcs = true := by
  refine ⟨?_, ?_, ?_⟩
  · simp only [anyEmptyTrap, List.any_eq_false]; intro x hx; simp [h x hx]
  · simp only [emptyWaits, List.filterMap_eq_nil_iff]; intro x hx; simp [h x hx]
  · simp only [allFull, List.all_eq_true]; exact h

theorem bWriteErr_rho (code : Nat) (v : Word) : bWriteErr code v (rho v) = [] := by simp [bWriteErr]

/-! ### One scalar result -/

/-- A plan of one scalar result, from full sources with a right residue, goes. -/
theorem scalarPlan_goes {s : State} {ok : Bool} {code lat : Nat} {srcs : List Src} {v : Word} {res : BitVec 4}
    (hok : ok = true) (hfree : FreeScalar s code) (hfull : ∀ x ∈ srcs, x.full = true) (hres : res = rho v) :
    PlanGoes s (scalarPlan s ok code lat srcs v res) := by
  obtain ⟨h1, h2, h3⟩ := full_sources hfull
  subst hres
  have hc : scalarDest code = true := by simp [scalarDest, hfree.1]
  simp only [scalarPlan, hok, hc, Bool.not_true, Bool.or_false, Bool.false_eq_true, if_false]
  constructor <;> simp [h1, h2, h3, hfree.2, bWriteErr_rho]

/-- An operation with one scalar result sends it, and the program goes on. -/
theorem scalar_sends {s : State} {o : Fields} {opc : Nat} {plan : Nat → State → Plan} {ok : Bool} {code lat : Nat}
    {srcs : List Src} {v : Word} {res : BitVec 4} (hq : Quiet s) (ho : opc ≠ 0) (hl : o.lmask.getLsbD 0 = true)
    (hp : plan 0 s = scalarPlan s ok code lat srcs v res) (hok : ok = true) (hfree : FreeScalar s code)
    (hfull : ∀ x ∈ srcs, x.full = true) (hres : res = rho v) :
    issueAlone o opc plan s
      = goOn (sendResult s { due := now s + lat, dest := .scalar code, val := .word v (rho v) }) := by
  have hc : scalarDest code = true := by simp [scalarDest, hfree.1]
  have hs : plan 0 s = { emptyTrap := anyEmptyTrap srcs, errs := if allFull srcs then bWriteErr code v res else []
                         blocks := emptyWaits srcs ++ destWaits s (.scalar code), dests := [.scalar code]
                         effect := fun t => sendScalar t code lat v res } := by
    rw [hp]; simp [scalarPlan, hok, hc]
  rw [issueAlone_plain o opc plan s hq ho hl (hp ▸ scalarPlan_goes hok hfree hfull hres)]
  · rw [hs]; subst hres; rfl
  all_goals rw [hs]
  exact steady_sendResult _ _

theorem twin_ne (opc : BitVec 7) (o : Fields) (h : opc.toNat % 64 ≠ 0) : (twinOpcode opc o).toNat ≠ 0 := by
  unfold twinOpcode
  split
  · simp only [BitVec.toNat_add, show (64 : BitVec 7).toNat = 64 from rfl]; omega
  · omega

/-- An entry of two operands A and B. -/
theorem alu_sends {s : State} {o : Fields} {opc lat : Nat} {f : Src → Src → Word × BitVec 4} {a b v : Word}
    (hq : Quiet s) (ho : opc ≠ 0) (hp : Placed s o [.sx, .sy]) (hfree : FreeScalar s o.dst.toNat)
    (ha : Holds s o.srca.toNat a) (hb : HoldsB s o b)
    (hv : ∀ x y : Src, x.v = a → x.res = rho a → y.v = b → y.res = rho b → f x y = (v, rho v)) :
    issueAlone o opc (fun _ t => aluPlan t o lat f) s
      = goOn (sendResult s { due := now s + lat, dest := .scalar o.dst.toNat, val := .word v (rho v) }) := by
  obtain ⟨x, hx, xv, xr, xf⟩ := srcA_holds ha
  obtain ⟨y, hy, yv, yr, yf⟩ := srcB_holds hb
  have hf := hv x y xv xr yv yr
  refine scalar_sends (srcs := [x, y]) (ok := slotOk s o [.sx, .sy]) (res := rho v) hq ho hp.1 ?_ hp.2 hfree ?_ rfl
  · simp [aluPlan, hx, hy, hf]
  · simp [xf, yf]

/-- An entry of one operand A, form N. -/
theorem unary_sends {s : State} {o : Fields} {opc : Nat} {f : Word → Word} {a : Word}
    (hq : Quiet s) (ho : opc ≠ 0) (hp : Placed s o [.sx, .sy]) (hb : noB o = true) (hfree : FreeScalar s o.dst.toNat)
    (ha : Holds s o.srca.toNat a) :
    issueAlone o opc (fun _ t => unaryPlan t o f) s
      = goOn (sendResult s { due := now s + 1, dest := .scalar o.dst.toNat, val := .word (f a) (rho (f a)) }) := by
  obtain ⟨x, hx, xv, -, xf⟩ := srcA_holds ha
  refine scalar_sends (srcs := [x]) (ok := slotOk s o [.sx, .sy] && noB o) (res := rho (f a)) hq ho hp.1 ?_ ?_ hfree ?_ rfl
  · simp [unaryPlan, hx, xv]
  · simp [hp.2, hb]
  · simp [xf]

/-! ### Results of the vector slots -/

/-- Rows that are full in tiles of the thread, and destinations that nothing will fill, neither trap, nor block, nor stop. -/
theorem full_rows {s : State} {us : List RowUse} (ds : List Dest)
    (h : ∀ u ∈ us, tileTaken s u.cl = false ∧ rowFull s u.cl u.r = true) (hd : ∀ d ∈ ds, destWaits s d = []) :
    rowTraps s us = false ∧ rowWaits s us ds = [] ∧ rowStop s us = none := by
  have ht : tileTraps s us = false := by simp only [tileTraps, List.any_eq_false]; intro u hu; simp [h u hu]
  refine ⟨?_, ?_, by simp [rowStop, ht]⟩
  · simp only [rowTraps, List.any_eq_false]; intro u hu; simp [h u hu]
  · simp only [rowWaits, besideTrap, ht, Bool.false_eq_true, if_false, List.append_eq_nil_iff, List.flatMap_eq_nil_iff]
    exact ⟨fun u hu => by simp [h u hu], hd⟩

theorem rowFull_holds {s : State} {cl : Cluster} {r : Nat} {v : Row} (h : HoldsRow s cl r v) :
    tileTaken s cl = false ∧ rowFull s cl r = true := ⟨h.1, by simp [rowFull, h.2]⟩

theorem foldl_sends (s : State) (lat : Nat) (outs : List (Dest × (Unit → Payload))) (t : State) (h : now t = now s) :
    outs.foldl (fun u d => sendResult u (inFlightAfter u lat d.1 (d.2 ()))) t
      = (outs.map (fun d => ({ due := now s + lat, dest := d.1, val := d.2 () } : InFlight))).foldl sendResult t := by
  induction outs generalizing t with
  | nil => rfl
  | cons d r ih =>
    have e : inFlightAfter t lat d.1 (d.2 ()) = { due := now s + lat, dest := d.1, val := d.2 () } := by
      simp [inFlightAfter, h]
    simp only [List.foldl_cons, List.map_cons, e]
    exact ih _ ((now_sendResult _ _).trans h)

/-- An entry of the vector slots sends its results, takes its DRAW value, and the program goes on. -/
theorem vec_sends {s : State} {o : Fields} {opc : Nat} {plan : Nat → State → Plan} {ok : Bool} {us : List RowUse}
    {lat : Nat} {draws : Bool} {outs : List (Dest × (Unit → Payload))} (hq : Quiet s) (ho : opc ≠ 0)
    (hl : o.lmask.getLsbD 0 = true) (hp : plan 0 s = vecPlan s ok us lat draws outs) (hok : ok = true)
    (hu : ∀ u ∈ us, tileTaken s u.cl = false ∧ rowFull s u.cl u.r = true) (hd : ∀ d ∈ outs, destWaits s d.1 = []) :
    issueAlone o opc plan s = goOn (advanceDraw (if draws then 1 else 0)
      ((outs.map (fun d => ({ due := now s + lat, dest := d.1, val := d.2 () } : InFlight))).foldl sendResult s)) := by
  obtain ⟨h1, h2, h3⟩ := full_rows (outs.map (·.1)) hu (by simpa using hd)
  have hs : vecPlan s ok us lat draws outs = { dests := outs.map (·.1), draws := draws, effect := fun t => outs.foldl (fun u d => sendResult u (inFlightAfter u lat d.1 (d.2 ()))) t } := by
    simp [vecPlan, hok, h1, h2, h3]
  rw [issueAlone_plain o opc plan s hq ho hl]
  · rw [hp, hs]; simp only; rw [foldl_sends s lat outs s rfl]
  all_goals rw [hp, hs]
  · constructor <;> simp
  · simp only; rw [foldl_sends s lat outs s rfl]; exact steady_sendAll _ _

/-- A plan of the probability predicates that nothing stops. -/
theorem qPlan_eq {s : State} {ok overlap : Bool} {us : List RowUse} {qs : List QReg} {n lat : Nat} {out : Dest}
    {val : Unit → Payload} (hok : ok = true) (hu : ∀ u ∈ us, tileTaken s u.cl = false ∧ rowFull s u.cl u.r = true)
    (hd : destWaits s out = []) (hdep : overlap = false ∨ (kget (me s) 0x09).getLsbD 1 = false) :
    qPlan s ok us qs n lat out val overlap = { dests := [out], effect := (qPlan s ok us qs n lat out val overlap).effect } := by
  obtain ⟨h1, h2, h3⟩ := full_rows [out] hu (by simpa using hd)
  have hdep' : (overlap && (kget (me s) 0x09).getLsbD 1) = false := by
    rcases hdep with h | h <;> rw [h]
    · rfl
    · exact Bool.and_false _
  simp only [qPlan, hok, h1, h2, h3, hdep', Bool.not_true, Bool.false_eq_true, if_false]

/-- What it puts in flight. -/
theorem qPlan_effect {s : State} {ok overlap : Bool} {us : List RowUse} {qs : List QReg} {n lat : Nat} {out : Dest}
    {val : Unit → Payload} (hok : ok = true) :
    (qPlan s ok us qs n lat out val overlap).effect s
      = ({ due := now s + lat, dest := out, val := val () } :: qNotes s lat n qs overlap).foldl sendResult s := by
  simp only [qPlan, hok, Bool.not_true, Bool.false_eq_true, if_false, qNotes]
  by_cases hf : (if overlap = true then 1 else 0) + (if qs.any (qClamps n) = true then 4 else 0) = 0
  · rw [if_pos hf, if_pos hf]; rfl
  · rw [if_neg hf, if_neg hf]; rfl

/-- An entry of the probability predicates sends its result and what it notes in QSTAT, and the program goes on. -/
theorem q_sends {s : State} {o : Fields} {opc : Nat} {plan : Nat → State → Plan} {ok overlap : Bool} {us : List RowUse}
    {qs : List QReg} {n lat : Nat} {out : Dest} {val : Unit → Payload} (hp : plan 0 s = qPlan s ok us qs n lat out val overlap)
    (hq : Quiet s) (ho : opc ≠ 0) (hl : o.lmask.getLsbD 0 = true) (hok : ok = true)
    (hu : ∀ u ∈ us, tileTaken s u.cl = false ∧ rowFull s u.cl u.r = true) (hd : destWaits s out = [])
    (hdep : overlap = false ∨ (kget (me s) 0x09).getLsbD 1 = false) :
    issueAlone o opc plan s
      = goOn (({ due := now s + lat, dest := out, val := val () } :: qNotes s lat n qs overlap).foldl sendResult s) := by
  have he := qPlan_effect (s := s) (overlap := overlap) (us := us) (qs := qs) (n := n) (lat := lat) (out := out) (val := val) hok
  have hs := qPlan_eq (qs := qs) (n := n) (lat := lat) (val := val) hok hu hd hdep
  rw [issueAlone_plain o opc plan s hq ho hl, hp, he, hs]
  · rfl
  · rw [hp, hs]; constructor <;> simp
  · rw [hp, hs]
  · rw [hp, hs]
  · rw [hp, he]; exact steady_sendAll _ _

/-- The same for an entry that takes a DRAW value. -/
theorem q_draws {s : State} {o : Fields} {opc : Nat} {plan : Nat → State → Plan} {ok : Bool} {us : List RowUse}
    {qs : List QReg} {n lat : Nat} {out : Dest} {val : Unit → Payload}
    (hp : plan 0 s = { qPlan s ok us qs n lat out val with draws := true })
    (hq : Quiet s) (ho : opc ≠ 0) (hl : o.lmask.getLsbD 0 = true) (hok : ok = true)
    (hu : ∀ u ∈ us, tileTaken s u.cl = false ∧ rowFull s u.cl u.r = true) (hd : destWaits s out = []) :
    issueAlone o opc plan s = goOn (advanceDraw 1
      (({ due := now s + lat, dest := out, val := val () } :: qNotes s lat n qs false).foldl sendResult s)) := by
  have he := qPlan_effect (s := s) (overlap := false) (us := us) (qs := qs) (n := n) (lat := lat) (out := out) (val := val) hok
  have hs := qPlan_eq (qs := qs) (n := n) (lat := lat) (val := val) hok hu hd (Or.inl rfl)
  have hpe : (plan 0 s).effect = (qPlan s ok us qs n lat out val).effect := by rw [hp]
  rw [issueAlone_plain o opc plan s hq ho hl, hpe, he, hp]
  · rfl
  · rw [hp, hs]; constructor <;> simp
  · rw [hp, hs]
  · rw [hp, hs]
  · rw [hpe, he]; exact steady_sendAll _ _

end Sys2Proof.Machine
end

