-- ==== Sys2Proof/Laws/Residue.lean ====
section
/-! SUPPORT. The predicted residue of R238 is the residue of the result wherever the operands carry their own. -/

namespace Sys2Proof.Machine

theorem rho_toNat (v : Word) : (rho v).toNat = v.toNat % 15 := by
  have : v.toNat % 15 < 15 := Nat.mod_lt _ (by decide)
  simp only [rho, BitVec.toNat_ofNat]; omega

theorem rInt_rho (v : Word) : rInt (rho v) = (v.toNat : Int) % 15 := by simp [rInt, rho_toNat]

/-- A residue from an integer that is congruent to the result. -/
theorem res15_eq_rho {x : Int} {v : Word} (h : x % 15 = (v.toNat : Int) % 15) : res15 x = rho v := by
  unfold res15 rho
  rw [h]
  congr 1

theorem resAdd_rho (a b : Word) : resAdd a b (rho a) (rho b) = rho (a + b) := by
  apply res15_eq_rho
  simp only [rInt_rho, BitVec.toNat_add]
  have := a.isLt; have := b.isLt
  split <;> omega

theorem resSub_rho (a b : Word) : resSub a b (rho a) (rho b) = rho (a - b) := by
  apply res15_eq_rho
  simp only [rInt_rho, BitVec.toNat_sub]
  have := a.isLt; have := b.isLt
  split <;> omega

theorem mul_mod15 (a b : Nat) : ((a : Int) % 15 * ((b : Int) % 15)) % 15 = ((a * b : Nat) : Int) % 15 := by
  push_cast; exact (Int.mul_emod _ _ _).symm

theorem resMul_rho (a b : Word) : resMul a b (rho a) (rho b) = rho (a * b) := by
  apply res15_eq_rho
  simp only [rInt_rho, BitVec.toNat_mul]
  have h := mul_mod15 a.toNat b.toNat
  generalize a.toNat * b.toNat = p at *
  omega

theorem resMulhu_rho (a b : Word) : resMulhu a b (rho a) (rho b) = rho (BitVec.ofNat 64 (a.toNat * b.toNat / 2 ^ 64)) := by
  apply res15_eq_rho
  simp only [rInt_rho, BitVec.toNat_ofNat]
  have h := mul_mod15 a.toNat b.toNat
  have hlt : a.toNat * b.toNat / 2 ^ 64 < 2 ^ 64 := by
    rw [Nat.div_lt_iff_lt_mul (by decide)]
    exact Nat.mul_lt_mul'' a.isLt b.isLt
  rw [Nat.mod_eq_of_lt hlt]
  generalize a.toNat * b.toNat = p at *
  generalize (a.toNat : Int) % 15 * ((b.toNat : Int) % 15) = q at *
  omega

theorem toInt_rho (a : Word) : (rInt (rho a) - sInt a) % 15 = a.toInt % 15 := by
  rw [rInt_rho]
  unfold sInt
  rw [BitVec.toInt_eq_msb_cond]
  split <;> omega

theorem resMulh_rho (a b : Word) :
    resMulh a b (rho a) (rho b) = rho (BitVec.ofInt 64 (a.toInt * b.toInt / (2 ^ 64 : Nat))) := by
  apply res15_eq_rho
  have h : ((rInt (rho a) - sInt a) * (rInt (rho b) - sInt b)) % 15 = (a.toInt * b.toInt) % 15 := by
    rw [Int.mul_emod, toInt_rho, toInt_rho, ← Int.mul_emod]
  have ha := BitVec.toInt_lt (x := a); have ha' := BitVec.le_toInt a
  have hb := BitVec.toInt_lt (x := b); have hb' := BitVec.le_toInt b
  have hp : |a.toInt * b.toInt| ≤ 2 ^ 63 * 2 ^ 63 := by
    rw [abs_mul]
    exact mul_le_mul (abs_le.2 ⟨ha', ha.le⟩) (abs_le.2 ⟨hb', hb.le⟩) (abs_nonneg _) (by decide)
  obtain ⟨hp1, hp2⟩ := abs_le.1 hp
  simp only [BitVec.toNat_ofInt]
  generalize a.toInt * b.toInt = p at *
  generalize (rInt (rho a) - sInt a) * (rInt (rho b) - sInt b) = q at *
  by_cases hneg : p < 0
  · have : p / ((2 ^ 64 : Nat) : Int) % ((2 ^ 64 : Nat) : Int) = p / ((2 ^ 64 : Nat) : Int) + 2 ^ 64 := by omega
    rw [this, if_pos hneg]
    omega
  · have : p / ((2 ^ 64 : Nat) : Int) % ((2 ^ 64 : Nat) : Int) = p / ((2 ^ 64 : Nat) : Int) := by omega
    rw [this, if_neg hneg]
    omega

theorem resShl_rho (a : Word) (k : Nat) : resShl a (rho a) k = rho (a <<< k) := by
  apply res15_eq_rho
  simp only [rInt_rho, BitVec.toNat_shiftLeft, Nat.shiftLeft_eq]
  have h : ((a.toNat : Int) % 15 * ((2 ^ k : Nat) : Int)) % 15 = ((a.toNat * 2 ^ k : Nat) : Int) % 15 := by
    push_cast
    rw [Int.mul_emod, Int.emod_emod_of_dvd _ (dvd_refl _), ← Int.mul_emod]
  generalize a.toNat * 2 ^ k = p at *
  generalize (a.toNat : Int) % 15 * ((2 ^ k : Nat) : Int) = q at *
  omega

/-- A rotation is a multiplication by a power of 2 modulo 2^64 − 1, of which 15 is a factor. -/
theorem rotl_mod15 (a : Word) (k : Nat) (hk : k < 64) : (rotl a k).toNat % 15 = (a.toNat * 2 ^ k) % 15 := by
  unfold rotl
  rw [BitVec.rotateLeft_def, Nat.mod_eq_of_lt hk, BitVec.toNat_or, BitVec.toNat_shiftLeft, BitVec.toNat_ushiftRight]
  rw [Nat.shiftLeft_eq, Nat.shiftRight_eq_div_pow]
  have h1 : a.toNat * 2 ^ k % 2 ^ 64 = (a.toNat % 2 ^ (64 - k)) * 2 ^ k := by
    have : (2 : Nat) ^ 64 = 2 ^ (64 - k) * 2 ^ k := by rw [← Nat.pow_add]; congr 1; omega
    rw [this, Nat.mul_mod_mul_right]
  have h2 : a.toNat / 2 ^ (64 - k) < 2 ^ k := by
    rw [Nat.div_lt_iff_lt_mul (Nat.two_pow_pos _), ← Nat.pow_add]
    exact lt_of_lt_of_eq a.isLt (by congr 1; omega)
  rw [h1, ← Nat.shiftLeft_eq, ← Nat.shiftLeft_add_eq_or_of_lt h2, Nat.shiftLeft_eq]
  have h3 : a.toNat = 2 ^ (64 - k) * (a.toNat / 2 ^ (64 - k)) + a.toNat % 2 ^ (64 - k) := (Nat.div_add_mod _ _).symm
  have h4 : (2 ^ (64 - k) * 2 ^ k : Nat) = 2 ^ 64 := by rw [← Nat.pow_add]; congr 1; omega
  generalize a.toNat / 2 ^ (64 - k) = q at *
  generalize a.toNat % 2 ^ (64 - k) = r at *
  rw [h3, Nat.add_mul]
  have h5 : 2 ^ (64 - k) * q * 2 ^ k = 2 ^ 64 * q := by rw [← h4]; ring
  rw [h5]
  omega

theorem resRol_rho (a : Word) (k : Nat) (hk : k < 64) : resRol (rho a) k = rho (rotl a k) := by
  apply res15_eq_rho
  rw [rInt_rho]
  have h := rotl_mod15 a k hk
  have h2 : ((a.toNat : Int) % 15 * ((2 ^ k : Nat) : Int)) % 15 = ((a.toNat * 2 ^ k : Nat) : Int) % 15 := by
    push_cast
    rw [Int.mul_emod, Int.emod_emod_of_dvd _ (dvd_refl _), ← Int.mul_emod]
  rw [h2]
  exact_mod_cast h.symm

/-- ror by k multiplies by 2^(64 − k), and 2^64 leaves 1 (R238). -/
theorem resRor_rho (a : Word) (k : Nat) (hk : k < 64) : resRol (rho a) (64 - k) = rho (rotl a ((64 - k) % 64)) := by
  by_cases h : k = 0
  · subst h
    have : rotl a 0 = a := by 
      simp only [rotl, BitVec.rotateLeft, BitVec.rotateLeftAux, Nat.zero_mod, BitVec.shiftLeft_zero, Nat.sub_zero]
      rw [BitVec.ushiftRight_eq_zero (by omega)]; simp
    apply res15_eq_rho
    simp only [Nat.sub_zero, Nat.mod_self, this, rInt_rho]
    omega
  · rw [Nat.mod_eq_of_lt (by omega : 64 - k < 64)]
    exact resRol_rho a _ (by omega)

theorem resAplane_rho (a : Word) (p : Nat) (hp : p < 16) : resAplane a (rho a) p = rho (aplaneOf a p) := by
  apply res15_eq_rho
  have ha := a.isLt
  have hlt : a.toNat % 2 ^ 60 + p * 2 ^ 60 < 2 ^ 64 := by omega
  simp only [rInt_rho, aplaneOf, BitVec.toNat_ofNat, field, Nat.mod_eq_of_lt hp]
  rw [Nat.mod_eq_of_lt hlt, Nat.mod_eq_of_lt (show a.toNat / 2 ^ 60 < 2 ^ 4 by omega)]
  push_cast
  omega

/-! ### Division (R211, R238) -/

/-- The exact quotient and remainder pass the check of R238. -/
theorem divCheck_signed (a b : Word) : divCheckBad true a b (rho a) (rho b) (divQ a b) (divR a b) = false := by
  have e : divQ a b * b.toInt + divR a b = a.toInt := by
    unfold divQ divR
    by_cases h : b = 0
    · simp [h]
    · simp only [h, if_false]; rw [Int.mul_comm]; exact Int.mul_tdiv_add_tmod _ _
  have hm : (divQ a b * (rInt (rho b) - sInt b) + divR a b - (rInt (rho a) - sInt a)) % 15 = 0 := by
    have h1 := toInt_rho a; have h2 := toInt_rho b
    have h3 : (divQ a b * (rInt (rho b) - sInt b)) % 15 = (divQ a b * b.toInt) % 15 := by
      rw [Int.mul_emod, h2, ← Int.mul_emod]
    generalize divQ a b * b.toInt = x at *
    generalize divQ a b * (rInt (rho b) - sInt b) = y at *
    omega
  simpa [divCheckBad] using hm

theorem divCheck_unsigned (a b : Word) : divCheckBad false a b (rho a) (rho b) (divuQ a b) (divuR a b) = false := by
  have e : divuQ a b * (b.toNat : Int) + divuR a b = a.toNat := by
    unfold divuQ divuR
    by_cases h : b = 0
    · simp [h]
    · simp only [h, if_false]
      exact_mod_cast Nat.div_add_mod' _ _
  have hm : (divuQ a b * rInt (rho b) + divuR a b - rInt (rho a)) % 15 = 0 := by
    have h1 := rInt_rho a; have h2 := rInt_rho b
    have h3 : (divuQ a b * rInt (rho b)) % 15 = (divuQ a b * b.toNat) % 15 := by
      rw [Int.mul_emod, h2, Int.emod_emod_of_dvd _ (dvd_refl _), ← Int.mul_emod]
    generalize divuQ a b * (b.toNat : Int) = x at *
    generalize divuQ a b * rInt (rho b) = y at *
    omega
  simpa [divCheckBad] using hm

end Sys2Proof.Machine
end

