-- ==== Sys2Proof/Laws/Traps.lean ====
section
/-! SUPPORT. Taking a trap, returning from one, and blocking: each lemma says once everything the operation does. -/

namespace Sys2Proof.Machine

/-- With every overdue result landed already, nothing lands. -/
theorem landPast_none {c : Ctx} {t : Nat} (h : ∀ f ∈ c.flight, t ≤ f.due) : landPast c t = c := by
  unfold landPast
  split
  · rfl
  · rename_i ht
    have h1 : c.flight.filter (fun f => decide (f.due ≤ t - 1)) = [] := by
      rw [List.filter_eq_nil_iff]; intro f hf; have := h f hf; simp only [decide_eq_true_eq]; omega
    have h2 : c.flight.filter (fun f => decide (t - 1 < f.due)) = c.flight := by
      rw [List.filter_eq_self]; intro f hf; have := h f hf; simp only [decide_eq_true_eq]; omega
    simp only [landDue, h1, h2, sortBy, List.foldr_nil, List.foldl_nil]

/-- The context behind a trap that is taken (R396, R397, R399). -/
def trappedCtx (c : Ctx) (c0 : Nat) (t : TrapInfo) (resume : Word) : Ctx :=
  let c2 := withdrawRdv (saveXfer (freeze (writeTrapRegs { c with trapUnit := t.unit } t resume) c0))
  { c2 with
    status := .ready, shelf := c2.arch.loops, arch := { c2.arch with loops := [] }, imm := none
    tended := false, tendShelf := c2.tended
    pc := trapTarget c t.cause, npc := trapTarget c t.cause }

/-- A result writes its destination, unless a later producer has taken it over and has yet to fill it (R344). -/
theorem landOne_lands {c : Ctx} {f : InFlight} (hd : f.divBad = false) (h : f.under = false ∨ destFull c f.dest = true) :
    landOne c f = landValue c f.dest f.val := by
  rcases h with h | h <;> simp [landOne, hd, h]

theorem landOne_overtaken {c : Ctx} {f : InFlight} (hd : f.divBad = false) (hu : f.under = true) (h : destFull c f.dest = false) :
    landOne c f = c := by
  simp [landOne, hd, hu, h]

/-- The unit of a page's region that a trap names is no register of handler mode, nor of its entry. -/
theorem inHandler_unit (c : Ctx) (u : Word) : inHandler { c with trapUnit := u } = inHandler c := rfl

theorem trapTarget_unit (c : Ctx) (u : Word) (k : Nat) : trapTarget { c with trapUnit := u } k = trapTarget c k := rfl

/-- Outside a segment and outside handler mode, with a trap entry, a trap changes its own context, and which context its core
runs, and nothing else. -/
theorem takeTrap_enters {s : State} {t : TrapInfo} {resume : Word} (hseg : (me s).seg = none)
    (hdue : ∀ f ∈ (me s).flight, now s ≤ f.due) (hh : inHandler (me s) = false) (he : trapTarget (me s) t.cause ≠ 0) :
    takeTrap s t resume = yieldCore (setMe s (trappedCtx (me s) (now s) t resume)) := by
  simp only [takeTrap, endSegment_quiet s hseg, landPast_none hdue, inHandler_unit, trapTarget_unit, hh, he, if_false, Bool.false_eq_true, trappedCtx]

/-- In handler mode a trap ends the task with cause 0x16 (R398). -/
theorem takeTrap_inHandler {s : State} {t : TrapInfo} {resume : Word} (hseg : (me s).seg = none)
    (hdue : ∀ f ∈ (me s).flight, now s ≤ f.due) (hh : inHandler (me s) = true) :
    takeTrap s t resume = stopTask s (.trapped { t with cause := 0x16, code := t.cause }) := by
  simp only [takeTrap, endSegment_quiet s hseg, landPast_none hdue, inHandler_unit, trapTarget_unit, hh, if_true]

/-- With no entry a trap ends the task (R68, R233). -/
theorem takeTrap_noEntry {s : State} {t : TrapInfo} {resume : Word} (hseg : (me s).seg = none)
    (hdue : ∀ f ∈ (me s).flight, now s ≤ f.due) (hh : inHandler (me s) = false) (he : trapTarget (me s) t.cause = 0) :
    takeTrap s t resume = stopTask s (.trapped t) := by
  simp only [takeTrap, endSegment_quiet s hseg, landPast_none hdue, inHandler_unit, trapTarget_unit, hh, he, if_true, if_false, Bool.false_eq_true]

/-- Setting a transfer aside writes the transfer registers alone. -/
theorem saveXfer_other {c : Ctx} {i : Nat} (h4 : 0xC4 ≠ i) (h5 : 0xC5 ≠ i) (h6 : 0xC6 ≠ i) :
    kget (saveXfer c) i = kget c i := by
  unfold saveXfer
  split
  · rw [kget_kset_other _ _ _ _ h6, kget_kset_other _ _ _ _ h5, kget_kset_other _ _ _ _ h4]
  · rw [kget_kset_other _ _ _ _ h6, kget_kset_other _ _ _ _ h5, kget_kset_other _ _ _ _ h4]; rfl

theorem withdrawRdv_kget (c : Ctx) (i : Nat) : kget (withdrawRdv c) i = kget c i := by
  unfold withdrawRdv; split <;> rfl

theorem freeze_kget (c : Ctx) (c0 i : Nat) : kget (freeze c c0) i = kget c i := rfl

theorem writeTrapRegs_other {c : Ctx} {t : TrapInfo} {resume : Word} {i : Nat} (h0 : 0xC0 ≠ i) (h1 : 0xC1 ≠ i) (h2 : 0xC2 ≠ i)
    (h3 : 0xC3 ≠ i) (h7 : 0xC7 ≠ i) : kget (writeTrapRegs c t resume) i = kget c i := by
  unfold writeTrapRegs
  rw [kget_kset_other _ _ _ _ h7, kget_kset_other _ _ _ _ h3, kget_kset_other _ _ _ _ h2, kget_kset_other _ _ _ _ h1,
    kget_kset_other _ _ _ _ h0]

/-- A trap leaves every k-space register but the trap registers. -/
theorem trappedCtx_kget {c : Ctx} {c0 i : Nat} {t : TrapInfo} {resume : Word} (h : i < 0xC0 ∨ 0xC7 < i) :
    kget (trappedCtx c c0 t resume) i = kget c i := by
  have e (d : Ctx) (l : List Loop) (x : Option Word) (a b : Word) (m : Bool) :
      kget { d with status := .ready, shelf := l, arch := { d.arch with loops := [] }, imm := x, tended := false, tendShelf := m
                    pc := a, npc := b } i = kget d i := rfl
  unfold trappedCtx
  rw [e, withdrawRdv_kget, saveXfer_other, freeze_kget, writeTrapRegs_other]
  · rfl
  all_goals omega

/-- Giving up the core leaves every context. -/
@[simp] theorem me_yieldCore (s : State) : me (yieldCore s) = me s := rfl

@[simp] theorem mem_yieldCore (s : State) : (yieldCore s).mem = s.mem := rfl

/-- A context that blocks keeps its program where it was (R43). -/
theorem me_blockOn (s : State) (why : Reason) (more : List Reason) :
    me (blockOn s why more) = { me s with status := .blocked why, alsoOn := more, imm := none } := by
  simp [blockOn]

theorem mem_blockOn (s : State) (why : Reason) (more : List Reason) : (blockOn s why more).mem = s.mem := rfl

theorem mem_stopTask (s : State) (how : Ending) : (stopTask s how).mem = s.mem := rfl

end Sys2Proof.Machine
end

