-- ==== Sys2Proof/Tests/Slice0.lean ====
section
/-! SUPPORT. Tests of decoding, well-formedness, numbers and single units, with results worked out from the spec, and a witness for
the hypotheses of each obligation. -/

set_option maxRecDepth 100000

namespace Sys2Proof.Tests
open Sys2Proof Sys2Proof.Machine

/-! ### States -/

/-- A full register with the residue of its value. -/
def regOf (v : Word) : Reg := { val := v, res := rho v, full := true }

/-- A full row. -/
def rowReg (v : Row) : RowReg := { bits := v, full := true }

/-- Fields of an operation live at L0, in a slot, with its three register fields. -/
def fieldsOf (slot : SlotId) (dst srca srcb : BitVec 7) : Fields :=
  { slot := slot, lmask := 1, dst := dst, srca := srca, srcb := srcb, bta := false, btb := false, twin := false }

/-- The task of a context: one body task of launch 1, stepped in group 7. -/
def testTask : Task :=
  { launch := 1, index := 0, node := 1, levels := [(1, 0), (4, 3)], trapEntry := 0x9000, prio := 1, wdUnits := 16, sgid := some 7
    slots := [3] }

/-- A running context: s1 to s4 hold 5, 3, 0 and the most negative number, s5 is empty, b1 and b2 hold addresses, rows 1 to 3
of both tiles hold data. -/
def testCtx : Ctx :=
  { status := .running, pc := 0x1000, npc := 0x1002, imm := some 7, task := some testTask
    tileX := { rows := [(1, rowReg 0x0102), (2, rowReg 0x0301), (3, rowReg 0x11), (4, { bits := 0, full := false })] }
    tileY := { rows := [(1, rowReg 0x0102), (2, rowReg 0x0301), (3, rowReg 0x11)] }
    arch := { regs := [(1, regOf 5), (2, regOf 3), (3, regOf 0), (4, regOf 0x8000000000000000), (5, { val := 0, res := 0, full := false })
                       , (6, regOf 0xFFFFFFFFFFFFFFFF), (0x40, regOf 0xC000), (0x51, regOf 0x2000), (0x52, regOf 0x2001), (0x58, regOf 1)]
              mregs := [(1, 3)] } }

/-- Context 0 of core 0 runs; slot 3 of the scratchpad is its task's. -/
def t0 : State :=
  { State.reset with ctxs := [(0, testCtx)], cores := [(0, { running := some 0, cycle := 100, heads := [(3, 0x10000)] })] }

/-- The same with another context record. -/
def ctxIs (c : Ctx) : State := { t0 with ctxs := [(0, c)] }

theorem quiet_t0 : Quiet t0 := ⟨rfl, rfl, rfl, rfl⟩

theorem short_holds {s : State} {o : Fields} {v : Word} (h : o.twin = true) (e : o.short.signExtend 64 = v) : HoldsB s o v := by
  simp [HoldsB, h, e]

/-- A page of 128 KiB at 0 in the address space 0: plane 0 of 32-bit elements in a frame at 1 MiB, plane 5 of 1-bit elements at
2 MiB; the page behind it is not present. -/
def testPages : List Cached :=
  let rpd : BitVec 1024 := BitVec.ofNat 1024 (11 + (1 + 5 * 2 ^ 7) * 2 ^ 320)
  let slot (frame st : Nat) : Nat := frame / 64 + st * 2 ^ 42 + 2 * 2 ^ 44
  let pse (st : Nat) : BitVec 2048 := BitVec.ofNat 2048 (2 ^ 18 * 2 ^ 64 + slot 0x100000 st * 2 ^ 256 + slot 0x200000 st * 2 ^ (256 + 560))
  [CacheId.thread 0, .copy 0 0, .copy 0 1].flatMap (fun k =>
    [{ cache := k, asid := 0, page := 0, psize := 0, pse := pse 1, rpd := rpd },
     { cache := k, asid := 0, page := Config.pageBytes 0, psize := 0, pse := pse 2, rpd := rpd }])

/-- The running context over those pages: s1 and s2 hold 0x1000 and 16. -/
def tMem : State :=
  { ctxIs { testCtx with arch := { testCtx.arch with regs := [(1, regOf 0x1000), (2, regOf 16), (3, regOf 0), (4, regOf 0x1002)
      , (7, regOf (BitVec.ofNat 64 (Config.pageBytes 0))), (0x40, regOf 0xC000), (0x41, regOf 0x20000), (0x51, regOf 0x2000)] } } with
    caches := testPages }

theorem quiet_tMem : Quiet tMem := ⟨rfl, rfl, rfl, rfl⟩

/-- The answer is an access. -/
def isOk (x : Xlate) : Bool := match x with | .ok _ => true | _ => false

theorem ok_of {x : Xlate} (h : isOk x = true) : ∃ acc, x = .ok acc := by
  cases x <;> simp_all [isOk]

/-- The same pages hold a loaded image: at 0x1002 stands `lend 3`, behind it `halt`. -/
def tCode : State :=
  { tMem with
    mem := [(0x101003, 0x6C)]
    regions := [(1, { asid := 0, lo := 0, hi := 0x20000, psize := 0, rpd := 0x400000, sgid := none, ceil := 0
                      , code := true })] }

theorem quiet_tCode : Quiet tCode := ⟨rfl, rfl, rfl, rfl⟩

/-- A launch record of one level with a rendezvous scope of one group. -/
def testRecord : LaunchRec :=
  { levels := [{ dom := 1, scope := 2, extent := 1 }], stepped := true, rdvLevel := some 0, classS := false, feeds := false, prio := 1
    queue := 0, wd := 0, entry := 0x1000, trap := 0x9000, seed := 0, stack := 0, args := [], argmap := [], routines := false, bsucc := []
    step := none, tiles := [], nodes := [] }

def testLaunch : Launch := { num := 1, asid := 0, image := 1, record := testRecord }

/-- Step group 7 of this package and package 1, led by package 0. -/
def testGroup : StepGroup := { sgid := 7, launch := 1, members := [0, 1], skewlim := 5, exclude := false }

/-- A stepped launch whose group has reached step k. -/
def tStep (k : Nat) : State :=
  { t0 with groups := [(7, { testGroup with stepno := BitVec.ofNat 32 k })], launches := [(1, testLaunch)] }

/-- A routine of four micro-ops of context 0: m1 points its sub-tile 0 at slot 3. -/
def testRoutine : Routine :=
  { cid := 0, start := 0, len := 4, mcopy := [2, 4, 0, 0, 0, 0, 0, 0], mode := 0
    tiles := [.slot 3, .slot 4, .slot 5, .slot 6, .acc false, .acc true] }

/-- The routine in its second micro-op, in an open microcode loop. -/
def testRun : Run := { r := testRoutine, pc := 1, ptrs := [], idx := [], loops := [(1, 2)] }

/-- The module with its cores enabled and a routine under way: slots 3, 4, 5 and 6 hold codes of e4m3, int8, e2m1 and e8m0. -/
def tEngine (r : Run) : State :=
  { t0 with
    cold := { t0.cold with state := 4 }
    cores := [(0, { running := some 0, cycle := 100, run := some r
                    heads := [(3, 0x10020), (4, 0x10050), (5, 0x10030), (6, 0x10048)] })] }

/-- A module whose service has placed a region of one page, with its tables in memory: plane 0 of 32-bit elements, plane 5 of
1-bit elements, every ceiling RW. -/
def oneRegion : State :=
  (placeRegion { State.reset with asids := [(0, { granted := true, job := 5, planeQuota := 2 ^ 30, pinQuota := 2 ^ 30 })] } 0 131072 0 none
    0xAAAAAAAA none [] [11, 0, 0, 0, 0, 641] false).1

/-- The running context over that region. -/
def tPlanes : State :=
  { ctxIs testCtx with mem := oneRegion.mem, regions := oneRegion.regions, alloc := oneRegion.alloc, colours := oneRegion.colours
                       nextId := oneRegion.nextId, nextPos := oneRegion.nextPos, asids := oneRegion.asids }

/-- The region of those planes. -/
def planesRegion : Region :=
  { asid := 0, lo := 0x1_0000_0000, hi := 0x1_0002_0000, psize := 0, rpd := 0x2000000, sgid := none, ceil := 0xAAAAAAAA
    code := false }

/-- A load of context 0: 8 bytes at 0x10C000. -/
def testLoad (u : LoadUse) (n : Nat) : PLoad :=
  { id := 5, cid := 0, seq := 1, va := 0xC000, use := u
    acc := { parts := [{ va := 0xC000, n := n, frame := some 0x10C000, remote := none, key := { asid := 0, page := 0, plane := 0 } }]
             colour := 0, shared := none } }

/-- A store of context 0: its bytes to 0x10C000. -/
def testStore (grp : Bool) : PStore :=
  { id := 6, cid := 0, seq := 2, addr := 0x10C000, bytes := [1, 2, 3, 4], colour := 0, va := 0xC000, keys := [], grp := grp, spans := [(0x10C000, 4)] }

/-- An operation at the head of the copy queue of core 0, from slot 3 on. -/
def testCopy (k : CopyKind) (started : Bool) (row n : Nat) : CopyOp :=
  { id := 9, cid := 0, kind := k, va := 0xC000, word := 0, slot := 3, nslots := 1, row := row, nrows := n, rowBytes := 128, started := started }

/-- A node of launch 1. -/
def testNode (k : NodeKind) (st : NodeState) : Node :=
  { launch := 1, kind := k, classS := false, prio := 3, queue := 0, feeds := false, wd := 0, count := 0, real := true, state := st }

/-- A CODE node that an explicit placement puts on core 0. -/
def codeKindOn (core : Nat) : NodeKind := .code 0x1000 [] [] [] 0 none (some core) false

/-- A cold module with one node of launch 1, its image loaded and no task. -/
def tNode (nd : Node) : State :=
  { State.reset with
    cold := { State.reset.cold with state := 5, enabled := true }
    launches := [(1, { testLaunch with nextTask := 1 })]
    images := [(1, { asid := 0, handle := 1, debug := false, base := 0x1000, kernels := [(0x1000, false)], banks := [], rtab := [], uops := [], chans := [] })]
    nodes := [(1, nd)] }

/-! ### Witnesses: the hypotheses of the statements can hold -/

/-- An operation of a scalar slot with s1 and s2, to s8. -/
def fSX : Fields := fieldsOf .sx 8 1 2

theorem twoScalars_t0 : TwoScalars t0 fSX 5 3 :=
  ⟨quiet_t0, ⟨rfl, by decide⟩, ⟨by decide, by decide⟩, .inl (by decide), .inl (by decide)⟩

theorem oneScalar_t0 : OneScalar t0 (fieldsOf .sx 8 1 0) 5 :=
  ⟨quiet_t0, ⟨rfl, by decide⟩, ⟨by decide, by decide⟩, .inl (by decide)⟩

/-- ScalarArithmetic, ScalarLogic: two operands; the least dividend over −1; a count of zeros. -/
theorem witness_scalarArithmetic :
    TwoScalars t0 fSX 5 3 ∧ TwoScalars t0 (fieldsOf .sy 8 4 6) (BitVec.intMin 64) (-1) ∧ TwoScalars t0 (fieldsOf .sx 0 1 3) 5 0 :=
  ⟨twoScalars_t0, ⟨quiet_t0, ⟨rfl, by decide⟩, ⟨by decide, by decide⟩, .inl (by decide), .inl (by decide)⟩
    , ⟨quiet_t0, ⟨rfl, by decide⟩, ⟨by decide, by decide⟩, .inl (by decide), .inl (by decide)⟩⟩

/-- Twin form: B is the short field −1. -/
theorem witness_holdsB_short : HoldsB t0 { fSX with twin := true, srcb := 0x7F, btb := true } (-1) := short_holds rfl (by decide)

/-- ScalarLogic, the counts: 5 has 61 leading zeros and none behind; 0 has 64 of both. -/
theorem witness_scalarLogic :
    OneScalar t0 (fieldsOf .sx 8 1 0) 5 ∧ noB (fieldsOf .sx 8 1 0) = true
      ∧ (∀ i, i < 61 → (5 : Word).getMsbD i = false) ∧ (5 : Word).getMsbD 61 = true ∧ (5 : Word).getLsbD 0 = true
      ∧ OneScalar t0 (fieldsOf .sx 8 3 0) 0 ∧ (∀ i, i < 64 → (0 : Word).getMsbD i = false) :=
  ⟨oneScalar_t0, rfl, by decide, rfl, rfl, ⟨quiet_t0, ⟨rfl, by decide⟩, ⟨by decide, by decide⟩, .inl (by decide)⟩, by decide⟩

/-- ScalarCompare: each of the eight conditions. -/
theorem witness_scalarCompare :
    (∀ d ∈ [0x03#7, 0x13#7, 0x23#7, 0x33#7, 0x43#7, 0x53#7, 0x63#7, 0x73#7],
      Placed t0 (fieldsOf .sx d 1 2) [.sx, .sy] ∧ FreeScalar t0 (0x58 + d.toNat % 16))
    ∧ Quiet t0 ∧ Holds t0 1 5 ∧ HoldsB t0 (fieldsOf .sx 3 1 2) 3 := by
  refine ⟨?_, quiet_t0, .inl (by decide), .inl (by decide)⟩
  unfold Placed FreeScalar
  decide

/-- ScalarMoves: a select, an immediate, an extension from 1 and from 64 bits, planes 0 and 15; the counts and planes that
trap. -/
theorem witness_scalarMoves :
    (TwoScalars t0 fSX 5 3 ∧ Holds t0 8 0)
      ∧ (noA (fieldsOf .sx 8 0 0x68) = true ∧ HoldsB t0 (fieldsOf .sx 8 0 0x68) 7)
      ∧ (∀ n ∈ [1, 64], OneScalar t0 (fieldsOf .sx 8 1 (BitVec.ofNat 7 n)) 5
          ∧ (fieldsOf .sx 8 1 (BitVec.ofNat 7 n)).short = BitVec.ofNat 8 n)
      ∧ (fieldsOf .sx 8 1 15).short = (15 : BitVec 4).setWidth 8
      ∧ (fieldsOf .sx 8 1 0).short = 0 ∧ 65 ≤ (fieldsOf .sx 8 1 65).short.toNat ∧ 16 ≤ (fieldsOf .sx 8 1 16).short.toNat := by
  refine ⟨⟨twoScalars_t0, .inl (by decide)⟩, ⟨rfl, .inr (by decide)⟩, ?_, by decide, by decide, by decide, by decide⟩
  intro n h
  simp only [List.mem_cons, List.not_mem_nil, or_false] at h
  rcases h with rfl | rfl <;>
    exact ⟨⟨quiet_t0, ⟨rfl, by decide⟩, ⟨by decide, by decide⟩, .inl (by decide)⟩, by decide⟩

/-- LaneExchange: the first and the last of 128 lanes of a row, in and out. -/
theorem witness_laneExchange :
    HoldsB t0 (fieldsOf .sx 1 1 3) 0 ∧ HoldsB t0 { fieldsOf .sx 1 1 0x7F with twin := true } 127
      ∧ (127 : Word).toNat < 4096 / etWidth (me t0) .x ∧ etWidth (me t0) .y = 32
      ∧ Placed t0 (fieldsOf .sx 1 1 3) [.sx, .sy] ∧ Holds t0 1 5
      ∧ HoldsRow t0 .x 1 0x0102 ∧ HoldsRow t0 .y 1 0x0102 ∧ FreeScalar t0 1 := by
  refine ⟨.inl (by decide), short_holds rfl (by decide), by decide, by decide, ⟨rfl, by decide⟩, .inl (by decide), ⟨rfl, rfl⟩, ⟨rfl, rfl⟩, by decide, by decide⟩


theorem quiet_ctxIs {c : Ctx} (h : c.deferred = [] ∧ c.seg = none ∧ c.xfer = none ∧ stepTrapDue c = false) : Quiet (ctxIs c) := by
  have e : me (ctxIs c) = c := rfl
  exact ⟨e ▸ h.1, e ▸ h.2.1, e ▸ h.2.2.1, e ▸ h.2.2.2⟩

/-- BranchTargets: an even and an odd address from a register, a displacement from the short field, and a table in memory. -/
theorem witness_branchTargets :
    (Quiet t0 ∧ Placed t0 (fieldsOf .sx 0x51 0 0x51) [.sx] ∧ FreeScalar t0 0x51 ∧ HoldsB t0 (fieldsOf .sx 0x51 0 0x51) 0x2000
      ∧ HoldsB t0 (fieldsOf .sx 0x50 0 0x52) 0x2001 ∧ HoldsB t0 { fieldsOf .sx 0x57 0 0x3F with twin := true } 63
      ∧ noA (fieldsOf .sx 0x51 0 0x51) = true)
    ∧ (Quiet tMem ∧ Placed tMem (fieldsOf .sx 0x51 1 2) [.sx] ∧ FreeScalar tMem 0x51 ∧ Holds tMem 1 0x1000
      ∧ HoldsB tMem (fieldsOf .sx 0x51 1 2) 16 ∧ ∃ acc, translate tMem (threadReq tMem 0x1000 16 16 false) = .ok acc) :=
  ⟨⟨quiet_t0, ⟨rfl, by decide⟩, ⟨by decide, by decide⟩, .inl (by decide), .inl (by decide), short_holds rfl (by decide), rfl⟩
    , quiet_tMem, ⟨rfl, by decide⟩, ⟨by decide, by decide⟩, .inl (by decide), .inl (by decide), ok_of (by decide +kernel)⟩

/-- CallAndReturn: through b1, to a link register and to none. -/
theorem witness_callAndReturn :
    Quiet t0 ∧ Placed t0 (fieldsOf .sx 0x57 0x51 0) [.sx] ∧ noB (fieldsOf .sx 0x57 0x51 0) = true ∧ Holds t0 0x51 0x2000
      ∧ (0x2000 : Word).getLsbD 0 = false ∧ (me t0).arch.loops = [] ∧ (fieldsOf .sx 0 0x51 0).dst = 0 :=
  ⟨quiet_t0, ⟨rfl, by decide⟩, rfl, .inl (by decide), rfl, rfl, rfl⟩

/-- A context in a delay region of three cycles, its call to 0x2000 linked through b2. -/
def inDelay : Ctx := { testCtx with xfer := some { target := 0x2000, link := some 2, value := 0x1010, count := 3 } }

/-- The same, its link register taken over by a later producer. -/
def overtakenLink : Ctx :=
  { testCtx with xfer := some { target := 0x2000, link := some 2, value := 0x1010, count := 3, overtaken := true } }

/-- A context whose load bank is in the state k of R271. -/
def bankIn (k : Nat) : Ctx := { testCtx with arch := { testCtx.arch with kspace := [(0x0B, cwtsWord 0 k)] } }

/-- ParcelUnits: no transfer pending; one pending that an empty run leaves open, meets, and oversteps, and one whose link register a
later producer has taken over, which is full or empty; each state of the load bank; a target register; no store of the context
outside its checks. -/
theorem witness_parcelUnits :
    (stepTrapDue (me t0) = false ∧ (me t0).xfer = none)
    ∧ (stepTrapDue (me (ctxIs inDelay)) = false ∧ (me (ctxIs inDelay)).xfer = inDelay.xfer
      ∧ (1 : BitVec 10).toNat + 1 < 3 ∧ (2 : BitVec 10).toNat + 1 = 3 ∧ 3 < (3 : BitVec 10).toNat + 1
      ∧ (me (ctxIs inDelay)).flight = [] ∧ (∀ x ∈ inDelay.xfer, x.overtaken = false ∧ x.link = some 2))
    ∧ (∀ full ∈ [true, false],
       let s := ctxIs { overtakenLink with arch := { testCtx.arch with regs := [(0x52, { val := 9, full := full })] } }
       stepTrapDue (me s) = false ∧ (me s).deferred = [] ∧ (me s).xfer = overtakenLink.xfer ∧ (∀ x ∈ overtakenLink.xfer, x.overtaken = true)
         ∧ (me s).flight = [] ∧ (readReg (me s) 0x52).full = full)
    ∧ (∀ k ∈ [0, 1, 2, 3], Quiet (ctxIs (bankIn k)) ∧ lstate (me (ctxIs (bankIn k))) = k)
    ∧ ((me (ctxIs (bankIn 2))).arch.loops = [] ∧ (readReg (me (ctxIs (bankIn 2))) (0x50 + (0 : BitVec 3).toNat)).full = true
      ∧ (readReg (me (ctxIs (bankIn 2))) (0x50 + (1 : BitVec 3).toNat)).full = true)
    ∧ (Quiet t0 ∧ t0.wbuf = [] ∧ (me t0).tagFail = none) := by
  refine ⟨⟨rfl, rfl⟩, ⟨rfl, rfl, by decide, by decide, by decide, rfl, by decide⟩, by decide, ?_, ⟨rfl, rfl, rfl⟩, quiet_t0, rfl, rfl⟩
  intro k h
  simp only [List.mem_cons, List.not_mem_nil, or_false] at h
  rcases h with rfl | rfl | rfl | rfl <;> exact ⟨⟨rfl, rfl, rfl, rfl⟩, by decide⟩

/-- A context with level 3 open on its last or first of k runs, a stride of a0 bound to it, and a count of c for level 3. -/
def loopOf (k : Nat) : Ctx :=
  { testCtx with arch := { testCtx.arch with loops := [{ level := 3, count := k, body := 0x1004, first := true }]
                                             strides := [(12, some (0x40, 16))] } }

/-- A context that has set level 3 to c. -/
def counted (c : Word) : Ctx := { testCtx with arch := { testCtx.arch with lcount := [(3, c)] } }

/-- LoopLevels: the levels 1 and 6, a count of 32 bits and one more; stride slots 1 to 3 off and on; a level with a count, and
with none over a body that ends; the last run and one before. -/
theorem witness_loopLevels :
    (∀ k ∈ [1#7, 6#7], Placed t0 (fieldsOf .sx k 0 1) [.sx, .sy] ∧ noA (fieldsOf .sx k 0 1) = true)
    ∧ HoldsB t0 (fieldsOf .sx 1 0 1) 5 ∧ HoldsB t0 (fieldsOf .sx 1 0 6) 0xFFFFFFFFFFFFFFFF ∧ 2 ^ 32 ≤ (0xFFFFFFFFFFFFFFFF : Word).toNat
    ∧ (∀ d ∈ [1#7, 30#7], Placed t0 (fieldsOf .sx d 0x4F 1) [.sx, .sy] ∧ (fieldsOf .sx d 0x4F 1).bta = false
      ∧ 1 ≤ d.toNat % 8 ∧ d.toNat % 8 ≤ 6 ∧ d.toNat < 32)
    ∧ (Quiet (ctxIs (counted 5)) ∧ (∀ l ∈ (me (ctxIs (counted 5))).arch.loops, l.level ≠ 3)
      ∧ fget (me (ctxIs (counted 5))).arch.lcount 3 0 ≠ 0)
    ∧ (Quiet tCode ∧ (me tCode).arch.loops = [] ∧ fget (me tCode).arch.lcount 3 0 = 0
      ∧ afterLend (2 ^ 59) tCode 3 (me tCode).npc = .inl 0x1004)
    ∧ (∀ k ∈ [1, 2], Quiet (ctxIs (loopOf k)) ∧ (me (ctxIs (loopOf k))).arch.loops = (loopOf k).arch.loops
      ∧ ∀ e ∈ stridesOf (me (ctxIs (loopOf k))) 3, (readReg (me (ctxIs (loopOf k))) e.1).full = true) := by
  refine ⟨?_, .inl (by decide), .inl (by decide), by decide, ?_, ⟨quiet_ctxIs (by decide), by decide, by decide⟩
    , ⟨quiet_tCode, rfl, rfl, by decide +kernel⟩, ?_⟩
  · unfold Placed; decide
  · unfold Placed; decide
  · intro k h
    simp only [List.mem_cons, List.not_mem_nil, or_false] at h
    rcases h with rfl | rfl <;> exact ⟨⟨rfl, rfl, rfl, rfl⟩, rfl, by decide⟩

/-- A control word whose one operation is `add s3, s3, IMM` in SX, live at every leaf (R204). -/
def oneAdd : Hcw := BitVec.ofNat 256 (14 * 2 ^ 252 + 0x1F8307A0 * 2 ^ 175)

/-- The same with `add s4, s4, 121` in SY. -/
def twoAdds : Hcw := BitVec.ofNat 256 (14 * 2 ^ 252 + 0x1F8307A0 * 2 ^ 175 + 0x41F8409E4 * 2 ^ 140)

/-- The context whose control-word table holds them, and an uncorrectable word, 44, in its entry 11. -/
def tIssue : State := ctxIs { testCtx with cwt := [(9, oneAdd), (10, twoAdds)], cwtBad := [44] }

/-- IssueRunsItsOperation: an index of the other bank; a wrong entry; a control word of the running bank with one operation in SX;
one with two, which passes each check. -/
theorem witness_issue :
    let w := hcwAt (me tIssue) 9
    (9 : BitVec 9).toNat / 256 = runBank (me tIssue) ∧ (300 : BitVec 9).toNat / 256 ≠ runBank (me tIssue) ∧ entryBad (me tIssue) 11 = true
      ∧ entryBad (me tIssue) 9 = false ∧ (∀ x ∈ (me tIssue).cwtOne, x / 4 ≠ 9) ∧ (headerOf w).shape = 14 ∧ (headerOf w).pop = 0
      ∧ (headerOf w).seg = false ∧ (headerOf w).dup = false ∧ (∀ sl, sl ≠ .sx → slotOpcode (slotOf w sl) = 0)
      ∧ (decodeSlot .sx (slotOf w .sx)).isSome = true := by
  refine ⟨by decide, by decide, by decide, by decide, by decide, by decide, by decide, by decide, by decide, ?_, by decide⟩
  intro sl
  cases sl <;> decide

theorem quiet_tIssue : Quiet tIssue := ⟨rfl, rfl, rfl, rfl⟩

theorem witness_issueBundle :
    let w := hcwAt (me tIssue) 10
    let h := headerOf w
    let noted := noteEntry tIssue tIssue.cur 10
    let start := setMe noted { me noted with imm := some (immOf [] 7) }
    h.seg = false ∧ bundleIllegal h (slotOps w) (me start) = false ∧ leafOf (me start) h = .inl 0
      ∧ (let target := targetOf h 0 (me start)
        let live := livePlans h (slotOps w) 0 start
        live.length = 2 ∧ live.any (fun p => postRfe p.2) = false ∧ branchIllegal (target != 0) live (me start) = false
        ∧ doubleWrite [] live = none
        ∧ (∀ p ∈ live, p.2.illegal = none ∧ p.2.emptyTrap = false ∧ p.2.errs = [] ∧ p.2.fire = none ∧ p.2.gate start = none
          ∧ p.2.stop = none ∧ p.2.spadBad = none ∧ p.2.await start = none ∧ p.2.post = .none ∧ p.2.qdep = false)
        ∧ bundleBlocks h 0 live (me start) = [] ∧ (me tIssue).tagFail = none ∧ losesBank live start = false
        ∧ (let popped := (popList h).foldl popLatch (advanceDraw (drawCount h (slotOps w) live) (runEffects live start))
           stepTrapDue (me (goOn (takeBranch (target != 0) target popped))) = false)) := by
  decide +kernel

/-- Checks: the conditions 0 and 5; p registers 0 and 15; two rows that agree, and two that differ. -/
theorem witness_checks :
    (∀ d ∈ [0x00#7, 0x5F#7], Placed t0 (fieldsOf .sx d 1 2) [.sx, .sy] ∧ d.toNat / 16 < 6)
    ∧ Quiet t0 ∧ Holds t0 1 5 ∧ HoldsB t0 (fieldsOf .sx 0 1 2) 3 ∧ (15 : BitVec 7).toNat < 16
    ∧ HoldsRow t0 .x 1 0x0102 ∧ HoldsRow t0 .y 1 0x0102 ∧ HoldsRow t0 .y 2 0x0301 := by
  refine ⟨?_, quiet_t0, .inl (by decide), .inl (by decide), by decide, ⟨rfl, rfl⟩, ⟨rfl, rfl⟩, ⟨rfl, rfl⟩⟩
  unfold Placed; decide

/-- A context in a trap handler, with one result frozen and a transfer set aside. -/
def handling : Ctx :=
  { testCtx with frozen := [{ r := 2, dest := .scalar 9, val := .word 4 4 }]
                 arch := { testCtx.arch with kspace := [(0xC0, 0x10D), (0xC1, 0x1010), (0xC4, 0x2001), (0xC6, 0x0B)] } }

/-- TrapsAndReturn: a software trap with its code, and a handler without a step trap due. -/
theorem witness_trapsAndReturn :
    (Quiet t0 ∧ Placed t0 (fieldsOf .sx 0 0 9) [.sx, .sy] ∧ noA (fieldsOf .sx 0 0 9) = true)
    ∧ (Quiet (ctxIs handling) ∧ Placed (ctxIs handling) (fieldsOf .sx 0 0 0) [.sx] ∧ noB (fieldsOf .sx 0 0 0) = true
      ∧ inHandler (me (ctxIs handling)) = true ∧ (kget (me (ctxIs handling)) 0xD0).getLsbD 1 = false ∧ (me (ctxIs handling)).flight = []) :=
  ⟨⟨quiet_t0, ⟨rfl, by decide⟩, rfl⟩, quiet_ctxIs (by decide), ⟨rfl, by decide⟩, rfl, by decide, by decide, rfl⟩

/-- A context in debug mode. -/
def debugging : Ctx := { testCtx with arch := { testCtx.arch with kspace := [(0xD0, 1)] } }

/-- A free context of the service core 384, which runs the Heresh service. -/
def serviceState : State :=
  { State.reset with cur := 4 * 384, ctxs := [(4 * 384, { testCtx with task := none })], cores := [(384, { running := some 0 })] }

/-- KWrites, KReadsAndPrivilege: a value of each kind; handler mode and debug mode, and neither; a stepped task and none; the
Heresh service; temperatures within and without; a core's register and a hub counter. -/
theorem witness_kspace :
    (∀ k ∈ [0x04#7, 0x02#7, 0x1A#7, 0x09#7], Placed t0 (fieldsOf .sx 0 1 k) [.sx, .sy]) ∧ Quiet t0 ∧ Holds t0 1 5
      ∧ clusterType ((5 : Word).toNat % 256) = true ∧ clusterType ((0xFF : Word).toNat % 256) = false ∧ (mySgid t0).isSome = true
    ∧ (Quiet (ctxIs handling) ∧ inHandler (me (ctxIs handling)) = true ∧ inHandler (me t0) = false)
    ∧ (Quiet (ctxIs debugging) ∧ inDebug (me (ctxIs debugging)) = true ∧ inDebug (me t0) = false)
    ∧ (badTemperature 0x3F800000 = false ∧ badTemperature 0xBF800000 = true)
    ∧ (Quiet serviceState ∧ isService (myCore serviceState) = true ∧ (me serviceState).task = none ∧ mySgid serviceState = none
      ∧ Placed serviceState (fieldsOf .sx 0 1 0x30) [.sx, .sy] ∧ Holds serviceState 1 5)
    ∧ (noA (fieldsOf .sx 8 0 0x10) = true ∧ FreeScalar t0 8 ∧ kIndex 0x10 = true ∧ hubIndex 0x10 = false
      ∧ kIndex 0x20 = true ∧ hubIndex 0x20 = true) := by
  refine ⟨?_, quiet_t0, .inl (by decide), by decide, by decide, by decide, ⟨quiet_ctxIs (by decide), by decide, by decide⟩
    , ⟨quiet_ctxIs (by decide), by decide, by decide⟩, by decide +kernel
    , ⟨⟨rfl, rfl, rfl, by decide⟩, by decide, rfl, rfl, ⟨rfl, by decide⟩, .inl (by decide)⟩
    , rfl, ⟨by decide, by decide⟩, by decide, by decide, by decide, by decide⟩
  unfold Placed; decide


/-- An operation of SY on base a0 with displacement s3, which holds 0: address 0xC000. -/
def fMem (dst : BitVec 7) (variant : Nat) : Fields := fieldsOf .sy dst (BitVec.ofNat 7 (32 * variant)) 3

theorem addr_tMem {d : BitVec 7} {k : Nat} (h : baseCode (fMem d k) = some 0x40) : HoldsAddr tMem (fMem d k) 0xC000 :=
  ⟨0x40, 0xC000, 0, h, .inl (by decide), (show Holds tMem 3 0 from .inl (by decide)), rfl⟩

/-- ScalarLoads, ScalarStores: one byte and eight, and a pair of 16 bytes; the registers hold or are free. -/
theorem witness_scalarMemory :
    (∀ k ∈ [0, 1, 2, 3], Placed tMem (fMem 8 k) [.sy] ∧ memFormOk (fMem 8 k) (2 ^ variantOf (fMem 8 k)) = true ∧ variantOf (fMem 8 k) = k
      ∧ destWaits tMem (.scalar (memReg (fMem 8 k))) = [] ∧ baseCode (fMem 8 k) = some 0x40)
    ∧ Quiet tMem ∧ (∀ n ∈ [1, 8, 16], (∃ acc, translate tMem (threadReq tMem 0xC000 n n false) = .ok acc)
      ∧ ∃ acc, translate tMem (threadReq tMem 0xC000 n n true) = .ok acc)
    ∧ memReg (fMem 8 3) % 2 = 0 ∧ destWaits tMem (.scalar (memReg (fMem 8 3) + 1)) = []
    ∧ Holds tMem (memReg (fMem 2 0)) 16 ∧ Holds tMem (memReg (fMem 2 0) + 1) 0 := by
  refine ⟨?_, quiet_tMem, ?_, by decide, by decide, .inl (by decide), .inl (by decide)⟩
  · unfold Placed; decide
  · intro n h
    simp only [List.mem_cons, List.not_mem_nil, or_false] at h
    rcases h with rfl | rfl | rfl <;> exact ⟨ok_of (by decide +kernel), ok_of (by decide +kernel)⟩

/-- MemoryTraps: an address above the region, one that is not aligned, and one whose page is not present. -/
theorem witness_memoryTraps :
    translate tMem (threadReq tMem 0x40000 8 8 false) = .trap { cause := 7, qual := 0, addr := 0x40000 }
    ∧ translate tMem (threadReq tMem 0xC001 8 8 true) = .trap { cause := 6, qual := 0, addr := 0xC001, wr := true }
    ∧ (∀ w ∈ [false, true], translate tMem (threadReq tMem 0x20000 8 8 w) = .notPresent { asid := 0, page := 0x20000, plane := 0 })
    ∧ HoldsAddr tMem (fieldsOf .sy 8 0x61 3) 0x20000 :=
  ⟨by decide +kernel, by decide +kernel, by decide +kernel, 0x41, 0x20000, 0, by decide, .inl (by decide), .inl (by decide), rfl⟩

/-- A core whose slot 3 belongs to context 0 and holds 8-bit elements in order Z. -/
def zState : State := { t0 with cores := [(0, { running := some 0, cycle := 100, heads := [(3, withShape 0x10000 true false 0x0A 0)] })] }

/-- A core whose matrix engine uses bank 0, in which slot 3 lies. -/
def bankState : State :=
  { t0 with cores := [(0, { running := some 0, cycle := 100, heads := [(3, 0x10000)], banks := [{ bank := 0, first := 99, till := 101, matrix := true }] })] }

/-- ScratchpadRows: the first row of slot 3, in row order and in order Z; a row that may be written, and one that holds data; a bank
that is free, and one that an engine uses. -/
theorem witness_scratchpadRows :
    (Quiet t0 ∧ Placed t0 (fMem 1 0) [.sy] ∧ HoldsAddr t0 (fMem 1 0) 0xC000 ∧ (0xC000 : Word).toNat % 512 = 0 ∧ OwnSlot t0 (0xC000 / 16384)
      ∧ (fMem 1 0).srca.getLsbD 6 = false ∧ FreeRow t0 (memCluster (fMem 1 0)) 1 ∧ HoldsRow t0 (memCluster (fMem 1 0)) 1 0x0102
      ∧ FreeRow t0 (memCluster (fMem 1 1)) 127)
    ∧ (Quiet zState ∧ (fMem 1 2).srca.getLsbD 6 = true ∧ OwnSlot zState 3 ∧ hLayout (headOf (coreOf zState 0) 3) = true
      ∧ headWidth (headOf (coreOf zState 0) 3) = 8 ∧ (∀ w ∈ spadWords (coreOf zState 0) true 0xC000, w ∉ (coreOf zState 0).spadBad)
      ∧ BanksFree zState (rowBanks (spadRows (coreOf zState 0) true 0xC000)))
    ∧ (Quiet bankState ∧ OwnSlot bankState 3 ∧ FreeRow bankState .x 1 ∧ ¬ BanksFree bankState (rowBanks (spadRows (coreOf bankState 0) false 0xC000))) :=
  ⟨⟨quiet_t0, ⟨rfl, by decide⟩, ⟨0x40, 0xC000, 0, by decide, .inl (by decide), .inl (by decide), rfl⟩, by decide, ⟨by decide, rfl⟩, rfl
    , rfl, ⟨rfl, rfl⟩, rfl⟩
    , ⟨⟨rfl, rfl, rfl, rfl⟩, rfl, ⟨by decide, rfl⟩, by decide, by decide +kernel, fun _ _ => List.not_mem_nil, fun _ _ => rfl⟩
    , ⟨rfl, rfl, rfl, rfl⟩, ⟨by decide, rfl⟩, rfl, by unfold BanksFree; decide +kernel⟩

/-- GatherScatter: every lane of row 3 but the first indexes 0, so all lie in slot 3. -/
theorem witness_gatherScatter :
    let o := fieldsOf .sy 1 0 3
    let s := t0
    let w := etWidth (me s) .x
    Quiet s ∧ Placed s o [.sy] ∧ o.srca.getLsbD 6 = false ∧ baseCode o = some 0x40 ∧ Holds s 0x40 0xC000 ∧ HoldsRow s .x 3 0x11
      ∧ (∀ x ∈ (List.range (4096 / w)).map (fun i => ((0xC000 : Word) + BitVec.ofNat 64 (lane 0x11 w i * (w / 8))).toNat),
          OwnSlot s (x / 16384) ∧ OwnSlot s ((x + w / 8 - 1) / 16384))
      ∧ (coreOf s 0).spadBad = [] ∧ (∀ bs, BanksFree s bs) ∧ FreeRow s .x 1 ∧ HoldsRow s .x 1 0x0102 := by
  refine ⟨quiet_t0, ⟨rfl, by decide⟩, rfl, by decide, .inl (by decide), ⟨rfl, rfl⟩, ?_, rfl, fun _ _ _ => rfl, rfl, ⟨rfl, rfl⟩⟩
  unfold OwnSlot
  decide +kernel

/-- PlaneRows: 512 bytes of 32-bit elements of plane 0, and their 128 sign bits in plane 5. -/
theorem witness_planeRows :
    (∃ acc, translate tMem (vecReq tMem .x 0xC000 false) = .ok acc) ∧ (∃ acc, translate tMem (vecReq tMem .x 0xC000 true) = .ok acc)
    ∧ FreeRow tMem .x 1 ∧ HoldsRow tMem .x 1 0x0102 ∧ maskable (etOf (me tMem) .x) = true
    ∧ (∃ acc, translate tMem { threadReq tMem 0xC000 512 4 true with dwidth := some 32 } = .ok acc)
    ∧ (∃ acc, translate tMem { threadReq tMem (BitVec.ofNat 64 (0xC000 + 5 * 2 ^ 60)) 16 1 true with shape := some (0, 0) } = .ok acc) :=
  ⟨ok_of (by decide +kernel), ok_of (by decide +kernel), rfl, ⟨rfl, rfl⟩, by decide, ok_of (by decide +kernel), ok_of (by decide +kernel)⟩

/-- AtomicsIssue: 4, 8 and 16 bytes for an operation that has them. -/
theorem witness_atomics :
    (∀ p ∈ atomicOps, atomFormOk (fMem 2 0) p.1 = true ∨ p.1 = 9) ∧ atomFormOk (fMem 0x48 1) 9 = true ∧ atomFormOk (fMem 0x48 2) 9 = true
    ∧ (∀ c ∈ regGroup (memReg (fMem 2 0)) (atomRegs 9 4), Holds tMem c (readReg (me tMem) c).val)
    ∧ (∀ n ∈ [4, 8, 16], ∃ acc, translate tMem { threadReq tMem 0xC000 n n true with atomic := true } = .ok acc) := by
  refine ⟨by decide, by decide, by decide, ?_, ?_⟩
  · unfold Holds; decide
  · intro n h
    simp only [List.mem_cons, List.not_mem_nil, or_false] at h
    rcases h with rfl | rfl | rfl <;> exact ok_of (by decide +kernel)


/-- FencesAndVotes: a stepped task and one that is not; a context with no load under way and no store waiting. -/
theorem witness_fences :
    Quiet t0 ∧ Placed t0 (fieldsOf .sy 0 1 2) [.sy] ∧ (mySgid t0).isSome = true ∧ mySgid (ctxIs { testCtx with task := none }) = none
    ∧ Holds t0 1 5 ∧ HoldsB t0 (fieldsOf .sy 0 1 2) 3
    ∧ (∀ d ∈ [0#7, 4#7, 5#7], noA (fieldsOf .sy d 0 0) = true ∧ noB (fieldsOf .sy d 0 0) = true)
    ∧ (me t0).tagFail = none ∧ t0.loads = [] ∧ t0.wbuf = [] :=
  ⟨quiet_t0, ⟨rfl, by decide⟩, rfl, rfl, .inl (by decide), .inl (by decide), by decide, rfl, rfl, rfl⟩

/-- Meetings: a group whose step is open, and one that has moved on; a rendezvous at its widest scope; a wait at 0xC000 whose
condition holds (0 = 0), and one whose condition does not. -/
theorem witness_meetings :
    (∀ k ∈ [0, 1], Quiet (tStep k) ∧ (groupOfCtx (tStep k) (me (tStep k))).isSome = true ∧ kget (me (tStep k)) 0x18 = 0)
    ∧ (groupOfCtx (tStep 0) (me (tStep 0))).map (·.stepno) = some 0 ∧ (groupOfCtx (tStep 1) (me (tStep 1))).map (·.stepno) = some 1
    ∧ (noA (fieldsOf .sy 6 0 0) = true ∧ noB (fieldsOf .sy 6 0 0) = true ∧ Placed (tStep 0) (fieldsOf .sy 6 0 0) [.sy])
    ∧ (HoldsB (tStep 0) { fieldsOf .sy 7 0 15 with twin := true } 15 ∧ rdvScope (tStep 0) (me (tStep 0)) = some 2
      ∧ (let t := issueRdv 15 (tStep 0); allMet t 15 (fget (me t).arch.rdvGen 15 0) = true))
    ∧ (let s := { tStep 0 with ctxs := [(0, testCtx), (1, testCtx)] }; let t := issueRdv 15 s
       allMet t 15 (fget (me t).arch.rdvGen 15 0) = false)
    ∧ (HoldsAddr tMem (fMem 3 0) 0xC000 ∧ memWide (fMem 3 0) = false ∧ Holds tMem (memReg (fMem 3 0)) 0 ∧ (me tMem).phase = .none
      ∧ ∃ acc, translate tMem (threadReq tMem 0xC000 4 4 false) = .ok acc ∧ acc.shared = none ∧ isLocal acc = true
        ∧ tMem.cold.hbmHold = false ∧ readClass tMem 0 (me tMem).seq acc = 0 ∧ waitHolds 0 (waitUnit tMem 0 acc) 0 = true
        ∧ waitHolds 1 (waitUnit tMem 0 acc) 0 = false) := by
  refine ⟨?_, by decide, by decide, ⟨rfl, rfl, rfl, by decide⟩, ⟨short_holds rfl (by decide), by decide, by decide⟩, by decide, ?_⟩
  · intro k h
    simp only [List.mem_cons, List.not_mem_nil, or_false] at h
    rcases h with rfl | rfl <;> exact ⟨⟨rfl, rfl, rfl, rfl⟩, by decide, by decide⟩
  · exact ⟨addr_tMem (by decide), by decide, .inl (by decide), rfl, xlateAcc (translate tMem (threadReq tMem 0xC000 4 4 false))
      , by decide +kernel, by decide +kernel, by decide +kernel, rfl, by decide +kernel, by decide +kernel, by decide +kernel⟩

/-- The debugging context with the error number n in s1. -/
def upsetting (n : Word) : State := ctxIs { debugging with arch := { debugging.arch with regs := [(1, regOf n), (2, regOf 3)] } }

/-- ErrorInjection: the last bit of a register and of a residue, of a row and of the scratchpad, and none of the sector beyond. -/
theorem witness_errorInjection :
    (∀ n ∈ [63, 3, 2 ^ 20 - 1, 2 ^ 22 - 1 + 7 * 2 ^ 22], inDebug (me (upsetting (BitVec.ofNat 64 n))) = true ∧ Quiet (upsetting (BitVec.ofNat 64 n)))
    ∧ Holds (upsetting 63) 1 63 ∧ Placed (upsetting 63) (fieldsOf .sx 2 1 0) [.sx, .sy] ∧ inDebug (me t0) = false
    ∧ (readReg (me (upsetting 63)) 2).full = true ∧ tileTaken (upsetting 63) .y = false ∧ (7 * 2 ^ 22 + 3145727) % 2 ^ 22 < 3145728
    ∧ (let s := { upsetting 0xC000 with caches := testPages }
       ∃ acc, translate s (threadReq s 0xC000 1 1 true) = .ok acc) := by
  refine ⟨?_, .inl (by decide), ⟨rfl, by decide⟩, by decide, by decide, by decide, by decide, ok_of (by decide +kernel)⟩
  intro n h
  simp only [List.mem_cons, List.not_mem_nil, or_false] at h
  rcases h with rfl | rfl | rfl | rfl <;> exact ⟨by decide, rfl, rfl, rfl, by decide⟩

/-- A context with the element types fc in both clusters; q0 holds codes, q1 a lineage that overlaps its own. -/
def typed (fc : Nat) : Ctx :=
  { testCtx with arch := { testCtx.arch with kspace := [(0x02, BitVec.ofNat 64 fc), (0x03, BitVec.ofNat 64 fc), (0x08, 0x3F800000)]
                                             qregs := [(0, { codes := 0x8000, lin := 1 }), (1, { codes := 0x4000, lin := 3 })] } }

def tType (fc : Nat) : State := ctxIs (typed fc)

def fVX : Fields := fieldsOf .vx 1 2 3

theorem twoRows_tType (fc : Nat) (h : fc ∈ [1, 2, 3, 0x0A, 0x0B]) : TwoRows (tType fc) fVX 0x0301 0x11 := by
  simp only [List.mem_cons, List.not_mem_nil, or_false] at h
  rcases h with rfl | rfl | rfl | rfl | rfl <;>
    exact ⟨⟨⟨rfl, rfl, rfl, by decide⟩, ⟨rfl, by decide⟩, rfl, rfl, rfl⟩, rfl, rfl⟩

/-- VectorFloat, VectorInteger, VectorSigns, VectorBits, ReductionsAndMoves, SpecialFunctions, Conversions: two rows and a third in
the destination, of fp32, of bf16, of int8 and of uint8 lanes; each kind of element type; short counts 0 and w − 1, and w. -/
theorem witness_vector :
    (∀ fc ∈ [1, 2, 3, 0x0A, 0x0B], TwoRows (tType fc) fVX 0x0301 0x11 ∧ HoldsRow (tType fc) .x 1 0x0102 ∧ FreeRow (tType fc) .x 1 ∧ FreeRow (tType fc) .y 1)
    ∧ vecCluster fVX = .x ∧ etOf (me (tType 1)) .x = 1 ∧ etOf (me (tType 2)) .x = 2 ∧ etOf (me (tType 0x0A)) .x = 0x0A
    ∧ floatType 1 = true ∧ floatType 2 = true ∧ fmtSigned 2 = true ∧ isInt 0x0A = true ∧ floatType 0x0A = false ∧ rmode (me (tType 1)) ≠ 4
    ∧ noB (fieldsOf .vx 1 2 0) = true ∧ (fieldsOf .vx 1 2 7).short = BitVec.ofNat 8 7 ∧ 7 < fmtWidth 0x0A ∧ fmtWidth 0x0A ≤ (fieldsOf .vx 1 2 8).short.toNat
    ∧ (fieldsOf .vx 1 2 127).short = BitVec.ofNat 8 127 ∧ 127 < 4096 / fmtWidth 1 ∧ clusterType 1 = true ∧ clusterType 6 = false :=
  ⟨fun fc h => ⟨twoRows_tType fc h, ⟨rfl, rfl⟩, rfl, rfl⟩, rfl, by decide, by decide, by decide, by decide, by decide, by decide, by decide, by decide
    , by decide, rfl, by decide, by decide, by decide, by decide, by decide, by decide, by decide⟩

/-- VectorBits, the select, and LanePredicates: p0 and p15; a compare of the conditions 0 and 5. -/
theorem witness_predicates :
    Quiet (tType 1) ∧ (∀ d ∈ [0#7, 15#7, 0x5F#7], Placed (tType 1) (fieldsOf .vx d 2 3) [.vx, .vy]) ∧ (0x5F : BitVec 7).toNat / 16 < 6
    ∧ (15 : BitVec 7).toNat < 16 ∧ HoldsRow (tType 1) .x 3 0x11 ∧ FreeScalar (tType 1) (0x58 + 15) ∧ noA (fieldsOf .vx 0 0 1) = true
    ∧ clusterType (fieldsOf .vx 0 0 1).short.toNat = true ∧ clusterType (fieldsOf .vx 0 0 0).short.toNat = false := by
  refine ⟨⟨rfl, rfl, rfl, rfl⟩, ?_, by decide, by decide, ⟨rfl, rfl⟩, ⟨by decide, by decide⟩, rfl, by decide, by decide⟩
  unfold Placed; decide

/-- Conversions: modes 0 and 5; an element type and its MX formats, over an even row. -/
theorem witness_conversions :
    (0 : BitVec 3).toNat < 6 ∧ (5 : BitVec 3).toNat < 6 ∧ OneRow (tType 1) (fieldsOf .vx 2 3 6) 0x11 ∧ clusterType 2 = true
    ∧ (fieldsOf .vx 2 3 6).short.toNat = 6 ∧ floatType 1 = true ∧ (fieldsOf .vx 2 3 6).dst.toNat % 2 = 0 ∧ FreeRow (tType 1) .x 3
    ∧ OneRow (tType 1) (fieldsOf .vx 4 2 8) 0x0301 ∧ (fieldsOf .vx 4 2 8).srca.toNat % 2 = 0 ∧ HoldsRow (tType 1) .x 3 0x11 :=
  ⟨by decide, by decide, ⟨⟨rfl, rfl, rfl, rfl⟩, ⟨rfl, by decide⟩, rfl, rfl, rfl⟩, by decide, by decide, by decide, by decide, rfl
    , ⟨⟨rfl, rfl, rfl, rfl⟩, ⟨rfl, by decide⟩, rfl, rfl, rfl⟩, by decide, ⟨rfl, rfl⟩⟩

/-- SoftCompares, SoftLogic, SoftBlends: q types fp32 and fp16; lineages that overlap, and a register without; the constants 0 and
0x8000. -/
theorem witness_soft :
    qType 1 = true ∧ qType 3 = true ∧ (∀ d ∈ [0#7, 7#7, 8#7, 15#7, 63#7], Placed (tType 1) (fieldsOf .vx d 0 1) [.vx, .vy])
    ∧ Quiet (tType 1) ∧ HoldsRow (tType 1) .x 1 0x0102 ∧ HoldsRow (tType 1) .x 2 0x0301 ∧ FreeRow (tType 1) .x 1 ∧ etOf (me (tType 1)) .x = 1
    ∧ decide ((readQ (me (tType 1)) .x 0).lin &&& (readQ (me (tType 1)) .x 1).lin ≠ 0) = true
    ∧ decide ((readQ (me (tType 1)) .x 0).lin &&& (readQ (me (tType 1)) .x 2).lin ≠ 0) = false
    ∧ { fieldsOf .vx 0 0 0 with btb := true }.short.toNat = 128 ∧ ((me (tType 1)).imm.getD 0).toNat ≤ 0x8000
    ∧ (kget (kset (typed 1) 0x09 2) 0x09).getLsbD 1 = true := by
  refine ⟨by decide, by decide, ?_, ⟨rfl, rfl, rfl, rfl⟩, ⟨rfl, rfl⟩, ⟨rfl, rfl⟩, rfl, by decide, by decide, by decide, by decide, by decide, by decide⟩
  unfold Placed; decide


/-- A context with slot 3 in m1, 0 and 1 in m0, and a header word in its latch. -/
def matrixCtx : Ctx := { testCtx with imm := some 0x20, arch := { testCtx.arch with mregs := [(0, 4), (1, 3)] } }

/-- MatrixEntries: parameter register 7; a slot of the task, a header without an odd or reserved bit; the queue bounds 1 and 4; a
routine of two micro-ops whose tiles are slot 3 and slot 2, both the task's. -/
theorem witness_matrixEntries :
    let s := { ctxIs matrixCtx with cores := [(0, { running := some 0, heads := [(2, 0x10000), (3, 0x10000)], rtab := [(5, BitVec.ofNat 32 (2 ^ 21 + 2 * 2 ^ 10))] })] }
    Quiet s ∧ (∀ d ∈ [0#7, 7#7], Placed s (fieldsOf .mx d 0 5) [.mx]) ∧ noA (fieldsOf .mx 7 0 5) = true ∧ noB (fieldsOf .mx 7 0 0) = true
    ∧ (readM (me s) 1).toNat = 3 ∧ ((0x20 : Word) &&& 0xFFFF_FFFF_FFFF_0001 = 0 ∧ hFmt 0x20 = 4) ∧ OwnSlot s 3
    ∧ FreeScalar s 8 ∧ (fieldsOf .mx 8 0 0x40).short = 0x40 ∧ (fieldsOf .mx 8 0 3).short.toNat = 3
    ∧ ((fieldsOf .mx 0 0 1).short.toNat = 1 ∧ (fieldsOf .mx 0 0 4).short.toNat = 4)
    ∧ (rtabEntry (coreOf s 0) 5 = some (0, 2) ∧ (∀ v ∈ paramBytes (readM (me s) 0) ++ paramBytes (readM (me s) 1), v ≤ 192)
      ∧ queueFull s = false ∧ (∀ k ∈ slotsIn (tileSet (coreOf s 0) 0 2 (readM (me s) 0) (readM (me s) 1)), allocatedTo (coreOf s 0) 0 k = true)
      ∧ ∀ t ∈ tileSet (coreOf s 0) 0 2 (readM (me s) 0) (readM (me s) 1), heldElsewhere s t = false) := by
  refine ⟨⟨rfl, rfl, rfl, rfl⟩, ?_, rfl, rfl, by decide, by decide, ⟨by decide, rfl⟩, ⟨by decide, by decide⟩, by decide, by decide, by decide, by decide⟩
  unfold Placed; decide

theorem working_tEngine : Working (tEngine testRun) testRun := ⟨rfl, rfl, rfl, rfl, by decide⟩

/-- MicroOps: a running routine, with and without an open loop; a loop of 0 turns by m2 and of 65,535; a slot of its tiles and one
that is not; sub-tiles 0 and 8; operands of the classes 0, 1 and 3; the 128 rows; both accumulators. -/
theorem witness_microOps :
    Working (tEngine testRun) testRun ∧ Working (tEngine { testRun with loops := [] }) { testRun with loops := [] }
    ∧ (testRun.r.mcopy.getD 2 0).toNat % 2 ^ 32 = 0 ∧ (0xFFFF : BitVec 16) ≠ 0
    ∧ (testRun.r.tiles.contains (.slot 3) = true ∧ testRun.r.tiles.contains (.slot 191) = false)
    ∧ ((testRun.r.mcopy.getD 1 0).toNat / 2 ^ (8 * 0)) % 256 = 3 + 1
    ∧ testRun.sums = [] ∧ (coreOf (tEngine testRun) 0).spadBad = []
    ∧ (∀ p ∈ [(3, 4, 0), (4, 0x0A, 1), (5, 6, 3)], formatClass p.2.1 = some p.2.2 ∧ Machine.slotOperand testRun p.1 = .inr p.1
      ∧ (∀ x ∈ weightSlots p.1 p.2.1, headerCheck (tEngine testRun) 0 testRun x p.2.1 0 false = none)
      ∧ headerCheck (tEngine testRun) 0 testRun p.1 p.2.1 0 true = none)
    ∧ (Machine.slotOperand testRun 6 = .inr 6 ∧ headerCheck (tEngine testRun) 0 testRun 6 9 0 false = none)
    ∧ (tileOf (ctxOf (tEngine testRun) 0) .x).atype = .none ∧ cpatOps (kget (ctxOf (tEngine testRun) 0) 7) = some [0]
    ∧ (rowBase testRun 0 0 128 = some 0 ∧ rowBase testRun 127 0 1 = some 127 ∧ rowBase testRun 1 0 128 = none)
    ∧ (drainOk .none 1 = true ∧ drainOk .i32 0x0E = true ∧ drainFits testRun 3 1 = true) :=
  ⟨working_tEngine, ⟨rfl, rfl, rfl, rfl, by decide⟩, by decide, by decide, by decide, by decide, rfl, rfl, by decide, by decide, rfl, by decide, by decide, by decide⟩

/-- A row that has entered the array for accumulator row 127, fresh; an integer row. -/
def testSum (op : Nat) : RowSum := { accY := true, row := 127, op := op, fresh := true, sums := List.replicate 128 0, wraps := false }

/-- EngineEvents: a routine that was cut short, and one that waits in the queue; a row in the array, of each operation; a drain at its
first row and at its end, with and without a stop; a checksum at its end; a routine at its end; one at its depth. -/
theorem witness_engineEvents :
    (let s := { tEngine testRun with cores := [(0, { mqueue := [testRoutine] })] }
     (coreOf s 0).run = none ∧ s.cold.pause = false ∧ engineHeld s = false ∧ (coreOf s 0).cuts = [] ∧ (coreOf s 0).mqueue = [testRoutine]
       ∧ testRoutine.waits = false ∧ handedOver s 0 testRoutine.tiles = true)
    ∧ (let s := { tEngine testRun with cores := [(0, { mqueue := [testRoutine], cuts := [testRun] })] }
       (coreOf s 0).run = none ∧ s.cold.pause = false ∧ engineHeld s = false ∧ (coreOf s 0).cuts = [testRun])
    ∧ (∀ op ∈ [0, 1, 2, 3, 4], (testSum op).sums.length = 128) ∧ runOf (tEngine { testRun with sums := [testSum 4] }) 0 = some { testRun with sums := [testSum 4] }
    ∧ (let d : Drain := { srcY := false, slots := some 3, dstY := false, fc := 1, mode := 0, sat := false, track := false, next := 0, last := 0 }
       d.next ≤ d.last ∧ d.last < { d with next := 1 }.next ∧ depthOut (tEngine testRun) testRun = false
         ∧ (coreOf (tEngine testRun) 0).stopFor.contains 0 = false
         ∧ (let r : Run := { testRun with drain := some { d with next := 1 }, busy := true }
            let s := { tEngine r with cores := [(0, { run := some r, stopFor := [0] })] }
            runOf s 0 = some r ∧ (coreOf s 0).stopFor.contains 0 = true ∧ r.r.cid / 4 = 0))
    ∧ (let r : Run := { testRun with busy := true, cks := [(true, 5, [1, 2])] }
       runOf (tEngine r) 0 = some r ∧ r.drain = none ∧ depthOut (tEngine r) r = false)
    ∧ (testRoutine.start + testRoutine.len ≤ { testRun with pc := 4 }.pc ∧ testRun.busy = false)
    ∧ depthOut (tEngine testRun) { testRun with depth := 41600 } = true ∧ OfModule testRun.r.cid :=
  ⟨⟨rfl, rfl, by decide, rfl, rfl, rfl, by decide⟩, ⟨rfl, rfl, by decide, rfl⟩, by decide, rfl
    , ⟨by decide, by decide, by decide, by decide, rfl, by decide, by decide⟩, ⟨rfl, rfl, by decide⟩, ⟨by decide, rfl⟩, by decide
    , by unfold OfModule; decide⟩


/-- CopyEntries: slot 3 by number and by register; a word of one slot of 8-bit elements; a drain of one row of an accumulator; a full
queue is not at hand. -/
theorem witness_copyEntries :
    Quiet t0 ∧ Placed t0 (fieldsOf .cp 2 1 3) [.cp] ∧ (coreOf t0 0).cqueue.length < Config.copyQueueDepth
    ∧ (fieldsOf .cp 2 1 3).short = BitVec.ofNat 8 3 ∧ Holds t0 2 (BitVec.ofNat 64 3) ∧ Holds t0 1 5 ∧ OwnSlot t0 3
    ∧ (ccwOk 3 (ccwOf 0) = true ∧ (0 : Word).toNat / 4 % 2 ^ 17 = 0 ∧ ccwOk 3 (outShape t0 3 (ccwOf 0)) = true ∧ Holds t0 3 0)
    ∧ (0 + 1 ≤ 128 ∧ tileTaken t0 .x = false ∧ tileTaken t0 .y = false) ∧ (191 < 192 ∧ ccwOk 191 (ccwOf 0) = true) := by
  refine ⟨quiet_t0, ⟨rfl, by decide⟩, by decide, by decide, .inl (by decide), .inl (by decide), ⟨by decide, rfl⟩
    , ⟨by decide, by decide, by decide, .inl (by decide)⟩, by decide, by decide⟩

/-- A core with channel 5 of type sum over two rows, expecting 256 words of context 0, and slot 3 posted to it where p holds. -/
def chanState (p : Bool) : State :=
  { t0 with
    ctxs := [(0, { testCtx with latches := [(7, (5, [3]))], arch := { testCtx.arch with regs := [(1, regOf 5), (2, regOf 69), (3, regOf 256)] } })]
    cores := [(0, { running := some 0, heads := [(3, 0x10000)]
                    chans := [(5, { entry := BitVec.ofNat 64 (1 + 2 * 2 ^ 5 + 2 ^ 8 + 256 * 2 ^ 15)
                                    posted := if p then [{ slot := 3, count := 0, ready := false }] else [] })] })] }

/-- ChannelEntries: channel 5 with and without KEEP, its entry good and broken; a send of 256 words; a latch with a ready slot. -/
theorem witness_channelEntries :
    Quiet (chanState false) ∧ Placed (chanState false) (fieldsOf .cp 0 1 3) [.cp] ∧ OwnSlot (chanState false) 3
    ∧ Holds (chanState false) 1 (BitVec.ofNat 64 5) ∧ Holds (chanState false) 2 (BitVec.ofNat 64 (5 + 64))
    ∧ entryOk (chanOf (chanState false) 0 5).entry = true ∧ eCtx (chanOf (chanState false) 0 5).entry = 0
    ∧ (chanOf (chanState false) 0 5).posted.length < eDepth (chanOf (chanState false) 0 5).entry
    ∧ (Holds (chanState false) 3 256 ∧ sendOk (chanState false) 5 256 = true)
    ∧ (chanOf (chanState false) 0 5).bad = false
    ∧ (let s : State := { chanState false with cores := [(0, { running := some 0, heads := [(3, 0x10000)], chans := [(5, { bad := true })] })] }
       Quiet s ∧ OwnSlot s 3 ∧ (chanOf s 0 5).bad = true)
    ∧ (FreeScalar (chanState false) 8 ∧ (fget (me (chanState false)).latches 7 (0, [])).2 = [3]
      ∧ (fieldsOf .cp 8 0 15).short = BitVec.ofNat 8 (8 + 7)) :=
  ⟨⟨rfl, rfl, rfl, rfl⟩, ⟨rfl, by decide⟩, ⟨by decide, rfl⟩, .inl (by decide), .inl (by decide), by decide, by decide, by decide
    , ⟨.inl (by decide), by decide⟩, rfl, ⟨⟨rfl, rfl, rfl, rfl⟩, ⟨by decide, rfl⟩, rfl⟩, ⟨by decide, by decide⟩, by decide, by decide⟩

/-- An invalidation that waits for the hub and core 0. -/
def testInval (w : List CacheId) : Inval := { id := 2, change := .plprot 1 5 1 0x1_0000_0000 0, waiting := w, pod := false }

/-- The page of plane 5, taken to block 3, with the byte 7 at its offset 5. -/
def pagedOut : State := { setSlot tPlanes 0 0x1_0000_0000 5 (pagedSlot 3 2) with nvme := [(3, [(5, 7)])] }

def planeKey : PageKey := { asid := 0, page := 0x1_0000_0000, plane := 5 }

/-- An invalidation of package 1, which waits for the hub here. -/
def farInval (c : Change) : Inval := { testInval [.hub] with change := c, source := some (1, 9) }

/-- Package 1 is creating plane 1. -/
def farNew : State := { tPlanes with invals := [farInval (.plnew 1 1 (1 + 2 ^ 7))] }

/-- PlaneEntries, MemoryEvents: an address of the region and one of none; planes 0, 1 and 5: each code of a change that fails, and one
that starts; a walk that finds a page; an acknowledgement that is not the last, and one that is; a page that comes in, one that has
gone out, and one that may go. -/
theorem witness_planes :
    (regionAt tPlanes 0 0x1000 = none ∧ regionAt tPlanes 0 0x1_0000_0000 = some (1, planesRegion)
    ∧ (plnewCode tPlanes planesRegion 0 11 = 4 ∧ plnewCode tPlanes planesRegion 5 641 = 2
      ∧ plnewCode tPlanes planesRegion 1 0 = 3 ∧ plnewCode tPlanes planesRegion 1 (1 + 2 ^ 7) = 0)
    ∧ (plprotCode tPlanes planesRegion 1 1 0x1_0000_0000 0 = 6 ∧ plprotCode tPlanes planesRegion 5 3 0x1_0000_0000 0 = 3
      ∧ plprotCode tPlanes planesRegion 5 1 0x1_0000_0000 2 = 9 ∧ plprotCode tPlanes planesRegion 5 1 0x1_0000_0000 1 = 0)
    ∧ (dEn (descAt tPlanes planesRegion 1) = false ∧ dEn (descAt tPlanes planesRegion 5) = true)
    ∧ (plpinCode tPlanes planesRegion 1 true = 6 ∧ plpinCode tPlanes planesRegion 5 true = 0))
    ∧ ((∀ c ∈ [CacheId.hub, .thread 0, .copy 0 1], cacheSize c ≠ 0
        ∧ (match walkVia tPlanes (walkerOf c) 0 0x1_0000_0000 with | .found 0 _ _ => true | _ => false) = true)
      ∧ tPlanes.invals = [] ∧ tPlanes.caches = [])
    ∧ ([testInval [.hub, .thread 0]].find? (fun j => j.id == 2) = some (testInval [.hub, .thread 0])
      ∧ awaited .hub ∈ (testInval [.hub, .thread 0]).waiting ∧ (∃ c ∈ (testInval [.hub, .thread 0]).waiting, c ≠ awaited .hub)
      ∧ awaited (.member 1 false) ∈ (testInval [.hub, .member 1 true]).waiting
      ∧ coreBusy tPlanes (changeRange tPlanes (testInval [.thread 0]).change) 0 = false
      ∧ (∀ c ∈ (testInval [.thread 0]).waiting, c = awaited (.thread 0)) ∧ (testInval [.thread 0]).source = none
      ∧ mayCommit { tPlanes with invals := [testInval [.thread 0]] } (testInval [.thread 0]) = true
      ∧ { testInval [.hub] with source := some (1, 9) }.source = some (1, 9))
    ∧ (regionAt pagedOut 0 0x1_0000_0000 = some (1, planesRegion) ∧ sState (slotAt pagedOut 0 0x1_0000_0000 5) = 2
      ∧ dBack (descAt pagedOut planesRegion 5) = 0 ∧ mayPageOut tPlanes planeKey 1 planesRegion = true
      ∧ (∃ m ∈ [({ key := planeKey, inward := true } : PageMove)], m.key = planeKey ∧ m.inward = true)
      ∧ [({ key := planeKey, inward := false, committed := true } : PageMove)].find? (fun m => m.key == planeKey && !m.inward)
        = some { key := planeKey, inward := false, committed := true })
    ∧ tPlanes.cold.hbmHold = false ∧ { testInval [.hub] with source := some (1, 9) }.source.isSome = true
    ∧ (∀ p ∈ [true, false], pinnedIn tPlanes (.plpin 1 5 p) = true) ∧ pinnedIn pagedOut (.plpin 1 5 true) = false := by
  decide +kernel

/-- A page that comes in for these requests. -/
def comesIn (r : Option ReqHead) : State := { pagedOut with moves := [{ key := planeKey, inward := true, reply := r }] }

/-- A request in a mailbox. -/
def boxHead : ReqHead := { magic := 0x4845, ver := 1, len := 32, job := 5, rid := 1, box := some (0, 256) }

/-- PlaneEntries, MemoryEvents: a plane that another package is creating, and one that none is; the last acknowledgement of another
package's change, one of a plane that is there and one of a plane that is not; a page that comes in for a request, and for none. -/
theorem witness_farPlanes :
    ((∀ e ∈ tPlanes.regions, e.2 = planesRegion → farCreates tPlanes e.1 1 = false)
      ∧ plnewCode farNew planesRegion 1 (1 + 2 ^ 7) = 0 ∧ ∃ e ∈ farNew.regions, e.2 = planesRegion ∧ farCreates farNew e.1 1 = true)
    ∧ ((∀ c ∈ (testInval [.hub]).waiting, c = awaited .hub) ∧ farWaits farNew (farInval (.plnew 1 1 (1 + 2 ^ 7))) = false
      ∧ farWaits tPlanes (farInval (.plprot 1 5 1 0x1_0000_0000 0)) = false
      ∧ planeThere tPlanes (.plnew 1 5 641) = true ∧ planeThere tPlanes (.plnew 1 1 (1 + 2 ^ 7)) = false
      ∧ quotaAllows tPlanes (.plnew 1 1 (1 + 2 ^ 7)) = true)
    ∧ ((∀ h ∈ moveHeads (comesIn none) planeKey, boxBusy (comesIn none) h = false)
      ∧ moveHeads (comesIn (some boxHead)) planeKey = [boxHead] ∧ boxBusy (comesIn (some boxHead)) boxHead = false) := by
  decide +kernel

/-- n bytes at an address lie apart from m bytes at another one. -/
def apart (a n b m : Nat) : Bool := decide (a + n ≤ b) || decide (b + m ≤ a)

theorem apart_iff (a n b m : Nat) : apart a n b m = true ↔ Apart a n b m := by simp [apart, Apart]

/-- MemoryEvents, the page that comes in: its frame of 4 KiB and its new PSE lie apart from each other and from the tables, whose
entries lie apart. -/
theorem witness_pageIn :
    (let d := descAt pagedOut planesRegion 5
     let size := frameSize pagedOut planesRegion d
     let frame := allocate pagedOut (placeStack pagedOut planesRegion 0x1_0000_0000 d) size 64 (dColour d)
     let pse := allocAt frame.1 0 256
     match pageLeaf pagedOut 0 0x1_0000_0000 with
     | some (entry, _) => decide (frame.2 < 2 ^ 48) && decide (pse < 2 ^ 63) && apart frame.2 size pse 256
        && (pageEntries pagedOut 0 0x1_0000_0000).all (fun e => apart e 8 frame.2 size && apart e 8 pse 256 && (e == entry || apart e 8 entry 8))
        && (fget pagedOut.nvme (sBacking (slotAt pagedOut 0 0x1_0000_0000 5)) []).all (fun e => decide (e.1 < size))
     | none => false) = true := by
  decide +kernel

theorem witness_planeOperands : FreeScalar tPlanes 8 ∧ Placed tPlanes (fieldsOf .cp 8 1 0) [.cp] :=
  ⟨⟨by decide, rfl⟩, rfl, rfl⟩

theorem quiet_tPlanes : Quiet tPlanes := ⟨rfl, rfl, rfl, rfl⟩

/-- TaskEntries: the levels of the task, its depth, and an index beyond; no operation of the control-word table under way, and one;
a record of 64 bytes to read. -/
theorem witness_taskEntries :
    (((me t0).task.map (·.levels)).getD [])[0]? = some (1, 0) ∧ (((me t0).task.map (·.levels)).getD [])[9 - 8]? = some (4, 3)
    ∧ (((me t0).task.map (·.levels)).getD []).length = 2
    ∧ (me t0).cwtwOut + (me t0).cwtrOut = 0 ∧ { testCtx with cwtrOut := 1 }.cwtwOut + { testCtx with cwtrOut := 1 }.cwtrOut ≠ 0
    ∧ storesShort t0 0 1 = false ∧ storesShort { t0 with wbuf := [testStore false] } 0 1 = true ∧ (me t0).tagFail = none ∧ (511 : Word).toNat < 512
    ∧ (fenceWaits tMem 2 = [] ∧ ∃ acc, translate tMem (threadReq tMem 0xC000 64 64 false) = .ok acc ∧ isLocal acc = true
      ∧ tMem.cold.hbmHold = false ∧ readClass tMem 0 (me tMem).seq acc = 0 ∧ roomFor tMem (recNat (accBytes tMem 0 (me tMem).seq acc []) 2 1) 1 = true) :=
  ⟨by decide, by decide, by decide, by decide, by decide, by decide, by decide, rfl, by decide, by decide
    , xlateAcc (translate tMem (threadReq tMem 0xC000 64 64 false)), by decide +kernel, by decide +kernel, rfl, by decide +kernel, by decide +kernel⟩

/-- A state with one load under way. -/
def loadState (u : LoadUse) (n : Nat) (m : List Host.Cell) : State := { t0 with loads := [testLoad u n], mem := m }

/-- LoadsReturn: a word, a row, an atomic of 4 bytes, the two units of one of 8 bytes, a table's header that is good, that is short
of the index, and that is not a table's; an even and an odd target. -/
theorem witness_loadsReturn :
    (∀ u ∈ [LoadUse.scalar 8 8 true, .row .x 1, .atom 9 8 4 [3, 5] false, .jtabHead 1 2 0xC000, .jtabEntry 1 0xC020],
      (loadState u 8 []).loads.find? (fun m => m.id == 5) = some (testLoad u 8) ∧ (loadState u 8 []).cold.hbmHold = false
        ∧ earlierLoads (loadState u 8 []) (testLoad u 8) = [] ∧ torn (loadState u 8 []) (testLoad u 8) = false ∧ (testLoad u 8).held = false
        ∧ (testLoad u 8).sample = none ∧ (testLoad u 8).gen = none ∧ headAhead (loadState u 8 []) (testLoad u 8) = false
        ∧ readClass (loadState u 8 []) 0 1 (testLoad u 8).acc = 0)
    ∧ OfModule 0 ∧ spansClass (loadState (.row .x 1) 512 []) (accSpans (testLoad (.row .x 1) 512).acc) 0 = .clean
    ∧ (atomMayPerform (loadState (.atom 9 8 4 [3, 5] false) 4 []) (testLoad (.atom 9 8 4 [3, 5] false) 4) = true
      ∧ splitAtom (testLoad (.atom 9 8 4 [3, 5] false) 4) = false ∧ accSpans (testLoad (.atom 9 8 4 [3, 5] false) 4).acc = [(0x10C000, 4)])
    ∧ (let u : LoadUse := .atom 0 8 8 [3] false
       atomMayPerform (loadState u 8 []) (testLoad u 8) = true
       ∧ (testLoad u 8).acc.parts = [{ va := 0xC000, n := 8, frame := some 0x10C000, remote := none, key := { asid := 0, page := 0, plane := 0 } }]
       ∧ (testLoad u 8).half = none ∧ { testLoad u 8 with half := some [1, 2, 3, 4] }.half = some [1, 2, 3, 4] ∧ highFirst 0 = false ∧ highFirst 4 = true)
    ∧ (let data (m : List Host.Cell) := accBytes (loadState (.jtabHead 1 2 0xC000) 16 m) 0 1 (testLoad (.jtabHead 1 2 0xC000) 16).acc []
       (data []).length = 16 ∧ leNat ((data []).take 4) ≤ 2 ∧ leNat (((data []).drop 4).take 4) = 0
         ∧ leNat (((data [(0x10C004, 1)]).drop 4).take 4) ≠ 0 ∧ (2 : Word).toNat < leNat ((data [(0x10C000, 3)]).take 4))
    ∧ (accBytes (loadState (.jtabEntry 1 0xC020) 8 []) 0 1 (testLoad (.jtabEntry 1 0xC020) 8).acc []).length = 8
    ∧ (0x2001 : Word).getLsbD 0 = true ∧ (0x2000 : Word).getLsbD 0 = false :=
  ⟨by decide, by unfold OfModule; decide, by decide, ⟨by decide, rfl, by decide⟩, by decide, by decide, by decide, by decide, by decide⟩

/-- ResultsArrive: a result that lands next, before a later one; one of each kind, the last lane of a row among them, its destination taken
over by a later producer and not, full then or still empty; a special-function row whose cycle has come; a
counter, a status code, a sample with and without clearing; a wait whose condition holds. -/
theorem witness_resultsArrive :
    (let f (n : Nat) : InFlight := { due := n, dest := .scalar 8, val := .word 1 1 }
     (ctxOf (ctxIs { testCtx with flight := [f 9, f 3] }) 0).flight = [f 9] ++ f 3 :: [] ∧ ∀ g ∈ [f 9] ++ [], (f 3).due < g.due)
    ∧ (∀ u ∈ [false, true], ∀ e ∈ [(Dest.scalar 8, Payload.word 1 1), (.scalar 0x58, .word 2 2), (.row .x 127, .row 5), (.row .y 4, .lane 127 32 5)
      , (.pred .x 15, .pbits 3), (.qreg .y 7, .q (some 1) 2), (.qreg .x 0, .q none 2), (.kspace 0x30, .word 9 9), (.kspace 0x0A, .word 7 7)
      , (.kspace 0x04, .word 7 7), (.kspace 0x05, .orWord 8), (.kspace 0x0A, .qstat 1 65535)],
      let f : InFlight := { due := 3, dest := e.1, val := e.2, under := u }
      (ctxOf (ctxIs { testCtx with flight := [f] }) 0).flight = [] ++ f :: [] ∧ f.under = u ∧ (127 + 1) * 32 ≤ 4096)
    ∧ (∀ e ∈ [(Dest.scalar 8, Payload.word 1 1, true), (.row .x 127, .row 5, true), (.scalar 5, .word 1 1, false), (.row .x 4, .row 5, false)],
      let f : InFlight := { due := 3, dest := e.1, val := e.2.1, under := true }
      (ctxOf (ctxIs { testCtx with flight := [f] }) 0).flight = [] ++ f :: [] ∧ destFull testCtx f.dest = e.2.2)
    ∧ (testCtx.rebase = false ∧ fget? testCtx.arch.kspace 0x30 = none ∧ t0.cold.pause = false)
    ∧ (let q : SfuReq := { cid := 0, cl := .x, row := 4, val := 0x3F80, gen := none, entered := 92 }
       let s := { t0 with cores := [(0, { cycle := 100, sfu := [q] })] }
       (coreOf s 0).sfu = q :: [] ∧ q.entered + 8 ≤ (coreOf s 0).cycle)
    ∧ (∀ k ∈ [PendKind.hub 0x20, .query 5, .mstat 0, .mstat 0x40],
      let p : Pending := { id := 4, cid := 0, code := 8, kind := k, since := 97 }
      { t0 with pends := [p] }.pends.find? (fun q => q.id == 4) = some p ∧ p.since + 3 ≤ (coreOf t0 (p.cid / 4)).cycle)
    ∧ (let s := { tMem with ctxs := [(0, { ctxOf tMem 0 with phase := .waitFor 0xC000 0 0 })] }
       ∃ acc, waitXlate s 0 0xC000 = .ok acc ∧ s.cold.hbmHold = false ∧ readClass s 0 (ctxOf s 0).seq acc = 0
         ∧ waitHolds 0 (waitUnit s 0 acc) 0 = true) :=
  ⟨⟨rfl, by decide⟩, by decide +kernel, by decide +kernel, ⟨rfl, rfl, rfl⟩, ⟨rfl, by decide⟩, by decide
    , xlateAcc (waitXlate { tMem with ctxs := [(0, { ctxOf tMem 0 with phase := .waitFor 0xC000 0 0 })] } 0 0xC000)
    , by decide +kernel, rfl, by decide +kernel, by decide +kernel⟩

/-- StoresPerform: a store at grp, whose colour check holds, and one whose check fails on a sector of another colour; a store at pkg,
and one whose sector has another tag by then; an injection. -/
theorem witness_storesPerform :
    (∀ b ∈ [false, true], { t0 with wbuf := [testStore b] }.wbuf.find? (fun q => q.id == 6) = some (testStore b))
    ∧ mayPerformGrp { t0 with wbuf := [testStore false] } (testStore false) = true
    ∧ failsCheck t0 (testStore false) = false
    ∧ (let s : State := { t0 with wbuf := [testStore false], sectors := [(0x10C000 / 32, { tag := some 3 })] }
       failsCheck s (testStore false) = true ∧ mayPerformGrp s (testStore false) = true) ∧ (ctxOf t0 0).tagFail = none
    ∧ mayPerformPkg { t0 with wbuf := [testStore true] } (testStore true) = true ∧ sectorClass t0 (0x10C000 / 32) 0 ≠ .tag ∧ t0.cold.hbmHold = false
    ∧ (let s : State := { t0 with wbuf := [testStore true], sectors := [(0x10C000 / 32, { tag := some 3 })] }
       mayPerformPkg s (testStore true) = true ∧ sectorClass s (0x10C000 / 32) 0 = .tag)
    ∧ (let p := { testStore true with kind := .retag }; mayPerformPkg { t0 with wbuf := [p] } p = true ∧ p.kind ≠ .data) :=
  ⟨by decide, by decide, by decide, by decide, rfl, by decide, by decide, rfl, by decide, by decide⟩

/-- A state with a copy operation at the head of the queue, its cores enabled. -/
def copyState (o : CopyOp) : State :=
  { chanState true with cold := { t0.cold with state := 5 }
                        cores := [(0, { coreOf (chanState true) 0 with cqueue := [o] })], caches := testPages }

/-- A slot of fp32 elements to be copied out. -/
def outState : State :=
  { copyState (testCopy .cpout true 0 128) with
    cores := [(0, { coreOf (copyState (testCopy .cpout true 0 128)) 0 with heads := [(3, 0x10008)] })] }

/-- The copy of 64 bytes of plane 0 by a COPY node, from 0xC000 to 0xD000. -/
def nodeCopy : CopyOp := { testCopy .node true 0 1 with word := 1, word2 := 0xD000 }

def nodeState : State :=
  { copyState nodeCopy with nodes := [(1, testNode (.copy 0xC000 0xD000 64 1) .running)], launches := [(1, testLaunch)] }

/-- CopyEvents: a core that is held; an operation to start, and one that waits for its segment; a send with a slot to fill, and one
without; rows of each kind, and the end of each; a bank that is taken; a send that can be delivered. -/
theorem witness_copyEvents :
    (copyHeld (chanState true) 0 = true ∧ copyHeld (copyState (testCopy .cpin true 0 1)) 0 = false ∧ copyHeld (chanState true) 384 = false)
    ∧ (∀ k ∈ [CopyKind.cpin, .chsnd], (testCopy k false 0 1).waits = false ∧ { testCopy k false 0 1 with waits := true }.waits = true
      ∧ loadsAhead (copyState (testCopy k false 0 1)) (testCopy k false 0 1) = false
      ∧ handedOver (copyState (testCopy k false 0 1)) 0 (copyTiles (testCopy k false 0 1)) = true ∧ (copyState (testCopy k false 0 1)).cold.pause = false
      ∧ (copyState (testCopy k false 0 1)).cold.hbmHold = false)
    ∧ (let o := testCopy .cpfill true 0 128
       let s := { copyState o with cores := [(0, { coreOf (copyState o) 0 with banks := [{ bank := 0, first := 0, till := 1, matrix := true }] })] }
       copyHeld s 0 = false ∧ (wordBanks (copyWords (coreOf s 0) o)).any (bankTaken (coreOf s 0) (coreOf s 0).cycle) = true)
    ∧ (let o := { testCopy .chsnd true 0 1 with word := 256, word2 := 5 }
       (fillSlot (chanOf (copyState o) 0 5)).isSome = true ∧ sendAhead (coreOf (copyState o) 0) o = false
         ∧ fillSlot (chanOf (chanState false) 0 5) = none ∧ (coreOf (copyState o) 0).sendWait.length < Config.sendWaitDepth
         ∧ (dCore o.word2 = 0 ∧ dChan o.word2 = 5) ∧ 0 + 256 ≤ eRows (chanOf (copyState o) 0 5).entry * 128
         ∧ (coreOf (copyState o) 0).spadBad = [] ∧ entryOk (chanOf (copyState o) 0 5).entry = true ∧ (chanOf (copyState o) 0 5).bad = false
         ∧ (∃ p, fillSlot (chanOf (copyState o) 0 5) = some p ∧ sendHeld (copyState o) 0 o p = false))
    ∧ (∀ k ∈ [CopyKind.cpfill, .cpin, .cpout, .cpaccIn, .cpaccOut], (testCopy k true 31 32).row < (testCopy k true 31 32).nrows
      ∧ (testCopy k true 31 32).held = none ∧ (testCopy k true 31 32).word.getLsbD 2 = false ∧ acwRow0 (testCopy k true 31 32).word ≤ 31
      ∧ ∀ b ∈ wordBanks (copyWords (coreOf (copyState (testCopy k true 31 32)) 0) (testCopy k true 31 32)),
        bankTaken (coreOf (copyState (testCopy k true 31 32)) 0) (coreOf (copyState (testCopy k true 31 32)) 0).cycle b = false)
    ∧ (let o := testCopy .cpin true 0 128
       ∃ acc, translate (copyState o) (rowReq (copyState o) o 0xC000 512 1 false (some 32)) = .ok acc ∧ isLocal acc = true
        ∧ readClass (copyState o) 0 o.seq acc = 0)
    ∧ (hFmt (headOf (coreOf outState 0) 3) = 1 ∧ (coreOf outState 0).spadBad = []
      ∧ ∃ acc, translate outState (rowReq outState (testCopy .cpout true 0 128) 0xC000 512 1 true (some (fmtBits 1))) = .ok acc)
    ∧ (copyHeld (copyState (testCopy .cwtw true 1 1)) 0 = false ∧ (testCopy .cwtw true 1 1).nrows ≤ (testCopy .cwtw true 1 1).row ∧ (testCopy .cwtw true 1 1).cid / 4 = 0
      ∧ { testCtx with cwtwOut := 1 }.cwtwOut = 1)
    ∧ (let nd := testNode (.copy 0 0 64 1) .running
       nd.place = 0 ∧ nd.state = .running ∧ fget? (tNode nd).nodes 1 = some nd) :=
  ⟨by decide, by decide, by decide, ⟨by decide, by decide, by decide, by decide, by decide, by decide, by decide, by decide, by decide
      , { slot := 3, count := 0, ready := false }, by decide, by decide⟩, fun k _ => ⟨(show 31 < 32 by decide), rfl, (show (0 : Word).getLsbD 2 = false by decide), (show acwRow0 0 ≤ 31 by decide)
      , fun _ _ => rfl⟩, ⟨xlateAcc (translate (copyState (testCopy .cpin true 0 128))
      (rowReq (copyState (testCopy .cpin true 0 128)) (testCopy .cpin true 0 128) 0xC000 512 1 false (some 32)))
    , by decide +kernel, by decide +kernel, by decide +kernel⟩, ⟨by decide, by decide, ok_of (by decide +kernel)⟩, by decide, by decide⟩

/-- CopyEvents, the rows that move between memory and the accumulator, and those of the control-word table and of a COPY node: each
address translates, each read is clean. -/
theorem witness_copyRows :
    (let o := { testCopy .cpaccIn true 0 128 with word := 4 }
     o.word.getLsbD 2 = true ∧ posAdd o.va (512 * (o.row - acwRow0 o.word)) = 0xC000
       ∧ (∃ acc, translate (copyState o) (rowReq (copyState o) o 0xC000 512 4 false none) = .ok acc ∧ isLocal acc = true
         ∧ readClass (copyState o) 0 o.seq acc = 0)
       ∧ ∃ acc, translate (copyState o) (rowReq (copyState o) { o with kind := .cpaccOut } 0xC000 512 4 true none) = .ok acc)
    ∧ (let o := testCopy .cwtw true 0 1
       ∃ acc, translate (copyState o) (rowReq (copyState o) o 0xC000 32 32 false none) = .ok acc ∧ isLocal acc = true
         ∧ readClass (copyState o) 0 o.seq acc = 0)
    ∧ (let o := { testCopy .cwtr true 0 1 with word := 9 }
       o.nrows = o.row + 1 ∧ entryBad (ctxOf (copyState o) 0) 9 = false
         ∧ ∃ acc, translate (copyState o) (rowReq (copyState o) o 0xC000 32 32 true none) = .ok acc)
    ∧ ((nodePieces nodeState 0 (nodeAsid nodeState 1) 0xC000 64 1)[0]? = some (0, 0, 64) ∧ copyHeld nodeState 0 = false
      ∧ ∃ a b q, translate nodeState (hubReq (.copy 0 0) 0 0xC000 64 1 false) = .ok a ∧ isLocal a = true
        ∧ translate nodeState (hubReq (.copy 0 0) 0 0xD000 64 1 true) = .ok b ∧ readClass nodeState 0 0 a = 0
        ∧ accReads nodeState 0 0 a = [] ∧ halfSeen nodeState (accSpans b) = false ∧ tagBad nodeState (accSpans b) b.colour = false ∧ b.parts = [q] ∧ q.frame = some 0x10D000 ∧ q.n = 64) :=
  ⟨⟨by decide, by decide
    , ⟨xlateAcc (translate (copyState { testCopy .cpaccIn true 0 128 with word := 4 })
        (rowReq (copyState { testCopy .cpaccIn true 0 128 with word := 4 }) { testCopy .cpaccIn true 0 128 with word := 4 } 0xC000 512 4 false none))
      , by decide +kernel, by decide +kernel, by decide +kernel⟩, ok_of (by decide +kernel)⟩
  , ⟨xlateAcc (translate (copyState (testCopy .cwtw true 0 1)) (rowReq (copyState (testCopy .cwtw true 0 1)) (testCopy .cwtw true 0 1) 0xC000 32 32 false none))
    , by decide +kernel, by decide +kernel, by decide +kernel⟩
  , ⟨by decide, by decide, ok_of (by decide +kernel)⟩
  , by decide +kernel, by decide
  , xlateAcc (translate nodeState (hubReq (.copy 0 0) 0 0xC000 64 1 false)), xlateAcc (translate nodeState (hubReq (.copy 0 0) 0 0xD000 64 1 true))
  , { va := 0xD000, n := 64, frame := some 0x10D000, remote := none, key := { asid := 0, page := 0, plane := 0 } }
  , by decide +kernel, by decide +kernel, by decide +kernel, by decide +kernel, by decide +kernel, by decide +kernel, by decide +kernel
  , by decide +kernel, rfl, rfl⟩


/-- An event node of launch 1. -/
def eventKind : NodeKind := .event 0x55 1 0 0 false

/-- Core 0 with its four contexts in use by tasks of priority 0, and node 2 that is to go there. -/
def crowded : State :=
  let t : Task := { testTask with prio := 0, sgid := none, node := 1 }
  { tNode (testNode (codeKindOn 0) .running) with
    nodes := [(1, testNode (codeKindOn 0) .running), (2, testNode (codeKindOn 0) .ready)]
    ctxs := [0, 1, 2, 3].map (fun c => (c, { status := Status.ready, task := some { t with order := c } })) }

/-- The two tasks of a launch that are dispatched together. -/
def tGroup : State :=
  let nd (i : Nat) := testNode (.code 0x1000 [] [] [] i none none true) .ready
  { tNode (nd 0) with
    nodes := [(1, nd 0), (2, nd 1)]
    launches := [(1, { testLaunch with nextTask := 2, record := { testRecord with levels := [{ dom := 1, scope := 2, extent := 2 }] } })] }

/-- A node record whose explicit placement names package 1 (R379). -/
def awayRecord : List Byte := ((List.replicate 64 (0 : Byte)).set 0 16).set 9 8

/-- TaskEvents: a task that has halted; a count of 2 and of 1; nodes to dispatch, one and a group; a saved node whose image lies in
HBM, and on flash; a core that is full, an event to send, a context to save and to restore, its save area good and not, a watchdog
that has run out, images on their way to flash and back; records to post, to this package and another. -/
theorem witness_taskEvents :
    (let s := ctxIs { testCtx with status := .blocked .ended }; (ctxOf s 0).status = .blocked .ended ∧ (ctxOf s 0).task = some testTask ∧ workDone s 0 = true)
    ∧ (∀ c ∈ [1, 2], let nd := { testNode (codeKindOn 0) .waiting with count := c }
      fget? (tNode nd).nodes 1 = some nd ∧ nd.state = .waiting ∧ kindKey nd ≠ 3)
    ∧ (let nd := testNode (codeKindOn 0) .ready
       isNext (tNode nd) (1, nd) = true ∧ fits (tNode nd) 1 nd 0 = true ∧ isGroup (tNode nd) nd = false ∧ nd.state = .ready
         ∧ placesFor (tNode nd) 1 nd [0] = some [(1, 0)]
         ∧ (launchOf (tNode nd) 1).isSome = true ∧ (fget? (tNode nd).images 1).isSome = true ∧ (tNode nd).cold.hbmHold = false)
    ∧ (let nd := testNode (.copy 0 0 64 1) .ready
       isNext (tNode nd) (1, nd) = true ∧ copyFits (tNode nd) 1 nd 0 = true)
    ∧ (∃ nd, fget? tGroup.nodes 1 = some nd ∧ isNext tGroup (1, nd) = true ∧ kindKey nd ≤ 1 ∧ nd.state = .ready ∧ isGroup tGroup nd = true
      ∧ placesFor tGroup 1 nd [4] = some [(1, 4), (2, 0)])
    ∧ (∀ b ∈ [false, true], let nd := testNode (codeKindOn 0) .saved
       let s : State := { tNode nd with saved := [(1, { cid := 0, ctx := {}, res := b })] }
       isNext s (1, nd) = true ∧ kindKey nd ≤ 1 ∧ nd.state = .saved)
    ∧ (let nd := testNode (codeKindOn 0) .ready
       fget? crowded.nodes 2 = some nd ∧ isHead crowded (2, nd) = true ∧ nd.queue ∉ crowded.paused ∧ (nd.classS = true ∨ holdsM crowded = false)
         ∧ groupReady crowded 2 nd = true ∧ hasPlaces crowded 2 nd = false
         ∧ chooseVictims crowded 2 nd = some [3] ∧ (ctxOf crowded 3).task.isSome = true)
    ∧ (let s : State := { t0 with ctxs := [(0, { testCtx with status := .saved })], saved := [(1, { cid := 0, ctx := {} })] }
       savedOf s 0 = some (1, { cid := 0, ctx := {} }) ∧ (ctxOf s 0).status = .saved ∧ maySave s 0 = true
         ∧ (∀ a ∈ [none, freeArea s 0], areaHeld s { cid := 0, ctx := {}, area := a } = false)
         ∧ { ({ cid := 0, ctx := {} } : Saved) with area := freeArea s 0 }.area.isSome = true)
    ∧ (let nd := testNode (codeKindOn 0) .loading
       ∃ sv : Saved, fget? { tNode nd with saved := [(1, sv)] }.saved 1 = some sv ∧ sv.cid = 0 ∧ sv.fcopy = false
         ∧ sv.area = some 4096 ∧ areaHeld (tNode nd) sv = false ∧ areaGood (tNode nd) sv = true
         ∧ areaGood { tNode nd with sectors := [(128, { poison := true })] } sv = false ∧ { sv with fcopy := true }.fcopy = true ∧ OfModule 0 ∧ sv.ctx.task = some testTask ∧ 3 ∈ testTask.slots)
    ∧ (let s : State := { t0 with ctxs := [(0, { testCtx with task := some { testTask with wdUnits := 0 } })] }
       stoppable (ctxOf s 0) = true ∧ testTask.ending ≠ .watchdog ∧ 0 * 65536 ≤ watchdogUse s 0 { testTask with wdUnits := 0 })
    ∧ (let nd := testNode (codeKindOn 0) .saved
       let sv : Saved := { cid := 0, ctx := {} }
       let s : State := { tNode nd with saved := [(1, sv)], gts := 10 ^ 9 + 1 }
       sv.res = false ∧ sv.since + 10 ^ 9 < s.gts ∧ nd.state = .saved ∧ areaHeld s sv = false ∧ areaGood s sv = true ∧ s.cold.hbmHold = false
         ∧ { sv with res := true, chosen := true }.chosen = true ∧ (freeArea s (dieOf (sv.cid / 4))).isSome = true)
    ∧ (let nd := testNode eventKind .ready
       isNext (tNode nd) (1, nd) = true ∧ kindKey nd = 4 ∧ (sendEvent (tNode nd) 1 nd).2 = true ∧ nd.kind = .event 0x55 1 0 0 false)
    ∧ (match postNode (tNode (testNode eventKind .ready)) 1 (List.replicate 64 0) with
      | (t, .ok nd) => (nodePackage t (List.replicate 64 0) == t.pkg) && roomFor t nd.queue 1 | _ => false) = true
    ∧ (let s : State := { tNode (testNode eventKind .ready) with podPkgs := 2 }
       match postNode s 1 awayRecord with | (t, .ok _) => (nodePackage t awayRecord != t.pkg) && (launchOf t 1).isSome | _ => false) = true
    ∧ (match postNode (tNode (testNode eventKind .ready)) 9 (List.replicate 64 0) with | (_, .bad _) => true | _ => false) = true := by
  refine ⟨by decide, by decide, by decide +kernel, by decide +kernel
    , ⟨testNode (.code 0x1000 [] [] [] 0 none none true) .ready, by decide +kernel⟩, by decide +kernel
    , by decide +kernel, ⟨by decide, by decide, by decide, by decide⟩
    , ⟨{ cid := 0, ctx := testCtx, area := some 4096 }, rfl, rfl, rfl, rfl, rfl, by decide, by decide, rfl, by unfold OfModule; decide, rfl, by decide⟩, ⟨by decide, by decide, by decide⟩, by decide, by decide +kernel
    , by decide +kernel, by decide +kernel, by decide +kernel⟩


/-- The hub's cache holds a page at 0 of a pod-shared region, whose plane 0 of 32-bit elements in a frame at 1 MiB has the given rule,
type and role; two sources have written its first element, and the group has decided. -/
def tApply (rule rtype role : Nat) (vote : Half) : State :=
  let w (source gts v : Nat) : DWrite :=
    { sgid := 7, step := 0, source := source, order := 0, gts := gts, asid := 0, va := 0, bytes := leBytes 4 v }
  { State.reset with
    caches := [{ cache := .hub, asid := 0, page := 0, psize := 0
                 pse := BitVec.ofNat 2048 (2 ^ 18 * 2 ^ 64 + (0x100000 / 64 + 2 ^ 42 + 2 * 2 ^ 44) * 2 ^ 256)
                 rpd := BitVec.ofNat 1024 (11 + role * 2 ^ 7 + 2 ^ 12 + rule * 2 ^ 13 + rtype * 2 ^ 16) }]
    groups := [(7, { testGroup with decided := true, stated := [(0, 0), (1, 0)], rvote := vote
                                    writes := [w 2048 5 0x3F800000, w 4 9 0x40000000] })] }

def applied (rule rtype role : Nat) (vote : Half) : StepGroup := (fget? (tApply rule rtype role vote).groups 7).getD testGroup

/-- The premises of an application: two writes of different sources to one unit of 4 bytes, of the given rule and type, before the other
member's report or after it. -/
def mayApply (rule rtype : Nat) (last : Bool) : Bool :=
  let g := { applied rule rtype 0 0 with reports := if last then [(1, false)] else [] }
  let s := { tApply rule rtype 0 0 with groups := [(7, g)] }
  let us := stepUnits g (landings s g)
  g.decided && !g.applied && delivered g && !s.cold.hbmHold && !sharedLoads s 7 && (pagedKeys (landings s g)).isEmpty
    && (kept g).all (fun w => (failingPart s g w).isNone) && us.length == 2
    && us.all (fun u => u.addr == 0x100000 && dRule u.desc == rule && dRtype u.desc == rtype && unitSize u.desc == 4)
    && (spanSectors [(0x100000, 4)]).all (fun k => sectorClass s k 0 != .tag) && g.replay.isNone
    && us.any (fun u => us.any (fun w => u.source != w.source))
    && isLeader s g && (g.members.all (fun p => p == s.pkg || g.reports.any (fun r => r.1 == p)) == last)

/-- StepEvents, application: two writes to one unit under each rule, and an application that the commit follows at once. -/
theorem witness_stepApplies :
    ([(1, 1), (1, 3), (2, 1), (3, 1), (4, 4), (5, 1), (6, 1)] : List (Nat × Nat)).all (fun e => mayApply e.1 e.2 false && mayApply e.1 e.2 true)
      = true := by
  decide +kernel

/-- StepEvents: gradient writes that an overflow vote discards. -/
theorem witness_stepDiscards :
    (applied 1 1 1 1).rvote.getLsbD 0 = true ∧ (landings (tApply 1 1 1 1) (applied 1 1 1 1)).length = 2
    ∧ (landings (tApply 1 1 1 1) (applied 1 1 1 1)).all (fun e => match e.2 with | .at _ d _ => dRole d == 1 | _ => false) = true := by
  decide +kernel

/-- StepEvents: packages 0 and 1, led by 0. A member that is not the leader is package 1. The task of the group goes on, or has
ended, with a boundary left or none; a record of this step and a second one; a value that the commit is to place, in sectors that
are not tagged. -/
theorem witness_stepEvents :
    (let s := tStep 0
     fget? s.groups 7 = some testGroup ∧ testGroup.sgid = 7 ∧ isLeader s testGroup = true ∧ isLeader { s with pkg := 1 } testGroup = false
       ∧ 1 ≠ s.pkg ∧ 1 ∈ testGroup.members ∧ (∀ a ∈ testGroup.arrivals, a.1 ≠ 1) ∧ testGroup.nextArrivals = [] ∧ testGroup.decided = false ∧ testGroup.excluded = []
       ∧ testGroup.replay = none)
    ∧ (∀ p ∈ { testGroup with arrivals := [(0, 1, [])] }.members, ∃ a ∈ { testGroup with arrivals := [(0, 1, [])] }.arrivals ++ [(1, 2, [])], a.1 = p)
    ∧ (stepsOver { testGroup with arrivals := [(0, 1, []), (1, 2, [])] } = false
      ∧ stepsOver { testGroup with arrivals := [(0, 0, []), (1, 0, [])], gone := [0, 1] } = true)
    ∧ (let w : DWrite := { sgid := 7, step := 0, source := 2048, order := 0, gts := 0, asid := 0, va := 0, bytes := [1] }
       poolUsed (tStep 0) + poolEntries w ≤ poolSize (tStep 0) ∧ w.step = testGroup.stepno.toNat ∧ { w with step := 1 }.step = (testGroup.stepno + 1).toNat)
    ∧ (let g := { testGroup with decided := true, stated := [(0, 0), (1, 0)] }
       delivered g = true ∧ g.applied = false ∧ pagedKeys (landings (tStep 0) g) = []
         ∧ (fget? (applyWrites (tStep 0) g).groups 7).isSome = true)
    ∧ ((tStep 0).cold.hbmHold = false ∧ testGroup.closing = false ∧ { testGroup with closing := true }.closing = true ∧ { testGroup with live := false }.live = false)
    ∧ (∀ p ∈ testGroup.members, ∃ r ∈ [(0, false)] ++ [(1, true)], r.1 = p) ∧ (∃ p ∈ testGroup.members, ∀ r ∈ ([] : List (Nat × Bool)) ++ [(1, true)], r.1 ≠ p)
    ∧ (let g := { testGroup with skewFrom := some 0 }; g.skewFrom = some 0 ∧ g.skewlim ≠ 0 ∧ 0 + 1000 * g.skewlim ≤ 5000 ∧ g.skewed = false)
    ∧ (let s : State := { tStep 0 with nodes := [(1, testNode (.code 0x1000 [] [] [] 0 none none true) .running)] }
       (∃ k ∈ stepTasks s 1, k ∉ testGroup.ended) ∧ ¬ (∃ k ∈ stepTasks s 1, k ∉ { testGroup with ended := [0] }.ended)
      ∧ testGroup.live = true ∧ { testGroup with applied := true }.applied = true)
    ∧ ({ testGroup with pending := [(0x100000, 0, [1, 2, 3, 4])] }.pending = [(0x100000, 0, [1, 2, 3, 4])]
      ∧ ∀ k ∈ spanSectors [(0x100000, 4)], sectorClass (tStep 0) k 0 ≠ .tag)
    ∧ (∃ a ∈ { testGroup with arrivals := [(1, 2, [])] }.arrivals, a.1 = 1)
    ∧ (sharedLoads (tStep 0) 7 = false ∧ [1].find? (fun p => p != (tStep 0).pkg && !testGroup.seals.contains p) = some 1) :=
  ⟨by decide, by decide, by decide, by decide, by decide, by decide, by decide, by decide, by decide, by decide, by decide, by decide, by decide⟩

/-- A module whose service runs, with ASID 3 bound to job 5. -/
def serving : State :=
  { State.reset with
    boot := { State.reset.boot with service := true }
    asids := [(3, { granted := true, job := 5, planeQuota := 2 ^ 30, pinQuota := 2 ^ 30, report := 0x1_0000_0000 })]
    images := [(1, { asid := 3, handle := 1, debug := false, base := 0, kernels := [], banks := [], rtab := [], uops := [], chans := [], size := 2 })]
    triggers := [(4, { armed := true, asid := 3, cnt := 0, image := 2, record := testRecord
                       req := { value := 9, mask := 15, job := 5, ports := 1, cnt := 0, argf := false, ringBase := 0, ringCount := 1, ringSize := 64 } })]
    launches := [(1, { testLaunch with asid := 3, done := true })] }

def goodHead : ReqHead := { magic := 0x4845, ver := 1, len := 32, job := 5, rid := 1 }

/-- A launch record of one class S task on one core, without extra nodes. -/
def launchBytes : List Byte :=
  (((((((List.replicate 256 (0 : Byte)).set 1 1).set 2 1).set 3 4).set 6 1).set 64 1).set 65 1).set 68 1 |>.take 56
    |>.append (List.replicate 8 0xFF) |>.append ((((List.replicate 192 (0 : Byte)).set 0 1).set 1 1).set 4 1)

/-- The bytes of a digest. -/
def digestOf (bs : List Byte) : List Byte := leBytes 64 (Config.sha3_512 bs).toNat

/-- Behind the header of an image: one kernel at the start of its stream, which is `halt`. -/
def imageTail : List Byte := List.replicate 18 0

/-- The header of an image of 146 bytes. -/
def imageFront : List Byte :=
  [0x4B, 0x51, 1, 0, 0, 0, 0, 0, 146, 0, 0, 0, 1, 0, 0, 0, 128, 0, 0, 0, 144, 0, 0, 0, 2, 0, 0, 0] ++ List.replicate 36 0

/-- An image with its own digest. -/
def testImage : List Byte := imageFront ++ (digestOf imageTail ++ imageTail)

theorem leNat_leBytes (n v : Nat) (h : v < 256 ^ n) : leNat (leBytes n v) = v := by
  induction n generalizing v with
  | zero => simp at h; simp [leNat, leBytes, h]
  | succ k ih =>
    have h1 : v / 256 < 256 ^ k := by rw [Nat.pow_succ] at h; omega
    have e := ih (v / 256) h1
    simp only [leNat, leBytes, List.foldr_cons] at e ⊢
    rw [e]
    simp only [BitVec.toNat_ofNat]
    omega

theorem lt_256_64 (x : BitVec 512) : x.toNat < 256 ^ 64 := by
  have h := x.isLt
  have e : (256 : Nat) ^ 64 = 2 ^ 512 := by decide +kernel
  rw [e]; exact h

theorem digest_testImage : digestGood testImage = true := by
  have e1 : testImage.drop 128 = imageTail := rfl
  have e2 : (testImage.drop 64).take 64 = digestOf imageTail := rfl
  have e3 : leNat (digestOf imageTail) = (Config.sha3_512 imageTail).toNat :=
    leNat_leBytes 64 _ (lt_256_64 _)
  simp [digestGood, recNat, e1, e2, e3]

/-- ASID 0 has its mailbox in a region of its own, with a request of TRESET in it, and has rung the doorbell. -/
def mailState : State :=
  let s : State := { tPlanes with boot := { tPlanes.boot with service := true }
                                  asids := [(0, { granted := true, job := 5, mailbox := 0x1_0000_0000, doorbell := 0x1_0001_0000 })] }
  (hubStore (hubStore s 0 0x1_0000_0100 (headBytes { goodHead with box := some (0, 256) } 8)).1 0 0x1_0001_0000 (leBytes 4 1)).1

/-- ServiceRequests: a request that comes as a message, in its mode and in another, and one in a mailbox. -/
theorem witness_arrives :
    Arrives serving goodHead 8 [] ∧ Arrives mailState { goodHead with box := some (0, 256) } 8 [] ∧ mailState.boot.service = true
      ∧ { goodHead with mode := .rud }.mode ≠ .rod ∧ opUnknown { goodHead with otherOp := some 12 } = true ∧ opUnknown goodHead = false
      ∧ (requester (takeRequest mailState { goodHead with box := some (0, 256) }) { goodHead with box := some (0, 256) }) = some 0 :=
  ⟨⟨fun _ => rfl, rfl⟩, ⟨(fun h => nomatch h), by decide +kernel⟩, by decide +kernel, by decide, by decide, by decide, by decide +kernel⟩

/-- ServiceRequests: a good header and a bad one; a bound job and one that is not; an image that loads, and one that the service
refuses; a region; a descriptor; a record that launches; triggers; the bounds of an ASID and of a job; each kind of message. -/
theorem witness_serviceRequests :
    (serving.boot.service = true ∧ serviceWaits serving goodHead = false ∧ serviceWaits mailState boxHead = false ∧ headBad goodHead = false ∧ headBad { goodHead with len := 31 } = true
      ∧ requester serving goodHead = some 3 ∧ requester serving { goodHead with job := 6 } = none)
    ∧ (loadStatus serving 3 { bytes := testImage, sigGood := true } = 0 ∧ loadStatus serving 3 { bytes := [], sigGood := true } ≠ 0)
    ∧ ((fget? serving.images 1).any (fun im => im.live && im.asid == 3) = true ∧ imageUsed serving 1 = false ∧ imageFor serving 3 1 = 0)
    ∧ (let q : RegionReq := { descs := [7] ++ List.replicate 15 0, size := 131072, psize := 0, sgid := none, ceil := 0 }
       regionBad serving q = false ∧ regionMeets serving 3 q = false ∧ regionCost serving q ≤ (asidRec serving 3).planeQuota)
    ∧ (recordMalformed launchBytes = false ∧ tooEarly serving launchBytes = false
      ∧ (match (fget? serving.images 1).map (fun im => validate serving 3 im launchBytes) with | some (t, .ok r) => launchFits t 1 r && (newLaunch t != 0) && (freeTrigger t == some 0) | _ => false) = true)
    ∧ (triggerBad { value := 0, mask := 0, job := 5, ports := 1, cnt := 0, argf := false, ringBase := 0, ringCount := 1, ringSize := 64 } = false
      ∧ (fget? serving.triggers 4).any (fun t => t.asid == 3 && t.armed) = true)
    ∧ (hconfBad serving { shard := 3, aging := 1300, queues := [] } = false ∧ (launchOf serving 1).any (fun l => l.asid == 3) = true)
    ∧ ((1 ≤ 16383 ∧ 16383 < 16384) ∧ (asidRec serving 16383).granted = false ∧ asidOfJob serving (2 ^ 24 - 1) = none ∧ serving.invals = []
      ∧ (asidRec serving 3).granted = true ∧ ∀ e ∈ serving.launches, e.2.asid = 3 → e.2.done = true)
    ∧ (let m : Message := { mode := .rod, job := 5, port := 0, tag := 25, payload := [] }
       matchable m.mode = true ∧ matchable Delivery.rudi = false ∧ (matching serving m).map (·.1) = some 4
         ∧ matching serving { m with tag := 8 } = none
         ∧ (matching serving m).any (fun e => nextBuffer e.2 == some 0 && groupFree serving e.2.record
           && routinesFit serving e.2.image e.2.record
           && ((newNumbers serving e.2.record.nodes.length).length == e.2.record.nodes.length)) = true ∧ newLaunch serving ≠ 0
         ∧ serving.cold.hbmHold = false ∧ 1 ≤ serving.ringCap
         ∧ (matching serving m).any (fun e => !hubBusy serving e.2.asid (bufferAt e.2 0) m.payload.length) = true
         ∧ (matching serving { m with payload := List.replicate 65 0 }).any (fun e => decide (e.2.req.ringSize < 65)) = true) := by
  refine ⟨by decide +kernel, ⟨?_, by decide⟩, by decide, by decide +kernel, by decide +kernel, by decide, by decide +kernel, by decide, by decide⟩
  have h1 : imageHeadBad testImage = false := by decide +kernel
  have h2 : bitAt (recNat testImage 4 4) 0 = false := by decide +kernel
  have h3 : imageMalformed testImage = false := by decide +kernel
  have h4 : uopsRefused testImage = false := by decide +kernel
  simp [loadStatus, h1, h2, h3, h4, digest_testImage]

/-- A trigger of ASID 0 whose ring lies in the placed region. -/
def ringState : State :=
  { tPlanes with
    boot := { tPlanes.boot with service := true }
    images := [(1, { asid := 0, handle := 1, debug := false, base := 0, kernels := [], banks := [], rtab := [], uops := [], chans := [], size := 2 })]
    triggers := [(4, { armed := true, asid := 0, cnt := 2, image := 1, record := testRecord
                       req := { value := 9, mask := 15, job := 5, ports := 1, cnt := 2, argf := false, ringBase := 0x1_0000_0000, ringCount := 1
                                ringSize := 64 } })] }

/-- ServiceRequests: a message whose payload of four bytes goes to the ring. -/
theorem witness_payload :
    (matching ringState { mode := .rod, job := 5, port := 0, tag := 25, payload := [1, 2, 3, 4] }).any (fun e =>
      e.1 == 4 && nextBuffer e.2 == some 0 && !hubBusy ringState e.2.asid (bufferAt e.2 0) 4 && newLaunch ringState != 0
        && routinesFit ringState e.2.image e.2.record && groupFree ringState e.2.record
        && (newNumbers ringState e.2.record.nodes.length).length == e.2.record.nodes.length
        && (hubStore ringState e.2.asid e.2.req.ringBase [1, 2, 3, 4]).2
        && (match translate ringState (hubReq .hub e.2.asid e.2.req.ringBase 4 1 true) with
          | .ok acc => !tagBad ringState (accSpans acc) acc.colour
              && (match acc.parts with | [q] => q.frame.isSome && q.n == 4 | _ => false)
          | _ => false)) = true ∧ ringState.cold.hbmHold = false ∧ ringState.boot.service = true := by
  decide +kernel

/-- ServiceRequests, a descriptor of plane 5 of the placed region; and an attestation: a challenge of 64 bytes, with the identity and
without. -/
theorem witness_planeRequest :
    descriptorCode tPlanes planesRegion 5 641 = 0 ∧ (List.replicate 64 (0 : Byte)).length = 64
      ∧ { serving.boot with identity := true }.identity = true ∧ serving.boot.identity = false := by
  decide +kernel

/-- A module with another cold state, its service running. -/
def coldIs (c : Cold) : State := { State.reset with cold := c, boot := { State.reset.boot with service := true } }

/-- A configuration record whose fields are in their ranges. -/
def goodRecord (iddig : List Byte) : List Byte := ([1, 0, 0, 0] ++ List.replicate 20 0) ++ (iddig ++ (List.replicate 1600 0 ++ [1]))

/-- ModuleEvents: the secret x makes the key whose digest the booting record holds. -/
theorem witness_identity (x : BitVec 256) :
    let d := Config.sha3_512 (leBytes 2592 (Config.mlDsaPublic (identitySeed x)).toNat)
    identityOf { State.reset.boot with recA := { bytes := goodRecord (leBytes 64 d.toNat), sigGood := true } } (some x) = true
      ∧ identityOf State.reset.boot (some x) = false := by
  intro d
  have e : recordIddig (goodRecord (leBytes 64 d.toNat)) = d.toNat := leNat_leBytes 64 _ (lt_256_64 _)
  have r : recordInRange (goodRecord (leBytes 64 d.toNat)) = true := by
    have h : (goodRecord (leBytes 64 d.toNat)).drop 88 = List.replicate 1600 0 ++ [1] := rfl
    have h4 : recNat (goodRecord (leBytes 64 d.toNat)) 0 4 = 1 := rfl
    have h5 (k n : Nat) : recNat (goodRecord (leBytes 64 d.toNat)) (88 + k) n = recNat (List.replicate 1600 0 ++ [1]) k n := by
      simp only [recNat, ← List.drop_drop, h]
    have e1 : recNat (List.replicate 1600 0 ++ [1]) 0 64 = 0 := by decide +kernel
    have e2 : recNat (List.replicate 1600 0 ++ [1]) 1600 1 = 1 := by decide +kernel
    have e3 : recNat (List.replicate 1600 0 ++ [1]) 1601 1 = 0 := by decide +kernel
    have h1 := (h5 0 64).trans e1
    have h2 := (h5 1600 1).trans e2
    have h3 := (h5 1601 1).trans e3
    simp only [Nat.reduceAdd] at h1 h2 h3
    simp only [recordInRange, h1, h2, h3, h4]
    decide +kernel
  have g : bootCopyOf { State.reset.boot with recA := { bytes := goodRecord (leBytes 64 d.toNat), sigGood := true } } .record 0 = some false := by
    simp [bootCopyOf, copyGood, flashCopy, r]
  have p : iddigOf { State.reset.boot with recA := { bytes := goodRecord (leBytes 64 d.toNat), sigGood := true } } = some d.toNat := by
    have h (x : Option Bool) (k : Bool → Nat) (y : Nat) (hx : x = some false) (hk : k false = y) : x.map k = some y := by rw [hx, ← hk]; rfl
    exact h _ _ _ g e
  refine ⟨?_, by simp [identityOf, show iddigOf State.reset.boot = none from rfl]⟩
  simp only [identityOf, p]
  exact beq_self_eq_true _

/-- ModuleEvents: each state that an event is for, and a record that may be written. -/
theorem witness_moduleEvents :
    (State.reset.cold.state = 0 ∧ (coldIs { state := 1 }).cold.state = 1 ∧ (coldIs { state := 1 }).cold.band = 3)
    ∧ (mayFlash State.reset .record { bytes := goodRecord (List.replicate 64 0), sigGood := true } = true
      ∧ mayFlash State.reset .record { bytes := [], sigGood := true } = false ∧ bootCopyOf State.reset.boot .record 0 ≠ some true
      ∧ { State.reset.boot with recovery := true }.recovery = true)
    ∧ (∀ n ∈ [2, 3, 8, 9, 10, 4, 7], (coldIs { state := n }).cold.state = n)
    ∧ (State.reset.gts % 100000 = 0 ∧ State.reset.gts % 10 ^ 9 = 0)
    ∧ (let c : Cold := { state := 1, band := 1, fallAt := some 0, reading := [some 300] }
       fallDue { coldIs c with gts := 10 ^ 9 } = true ∧ spreadOf c ≤ 80 ∧ 100 < spreadOf { c with reading := [some 300, some 401] })
    ∧ (let s := coldIs { state := 2, history := [(0, [some 300])] }
       ∀ e ∈ [(287, 324), (290, 324), (324, 325)], (readingBefore s (workingReadings [] [some e.1]))[0]? = some (some 300)
         ∧ (workingReadings [] [some e.1])[0]? = some (some e.1) ∧ (workingReadings [] [some e.2])[0]? = some (some e.2))
    ∧ ((coldIs { state := 1, hbmHold := true }).cold.hbmHold = true ∧ State.reset.cold.hbmHold = false ∧ State.reset.boot.recovery = false)
    ∧ (let c : Cold := { state := 5, sweep := [8192, 1] }; c.sweep[0]? = some (8191 + 1) ∧ c.sweep[1]? = some (0 + 1))
    ∧ ((0 : Nat) + 1800 * 10 ^ 9 ≤ 1800 * 10 ^ 9 ∧ parked (coldIs { state := 8 }) = true)
    ∧ (OfModule 1599 ∧ 0x57 < 0x58 ∧ 63 < 64 ∧ hardZero 0x57 = false)
    ∧ (fget (coldIs { state := 5 }).cold.patrol 7 0 = 0 ∧ bankUnit 0 = some (.core 0) ∧ bankUnit 414 = some .storage ∧ bankUnit 415 = none) :=
  ⟨by decide, by decide +kernel, by decide, by decide, by decide, by decide, by decide, by decide, by decide, ⟨by unfold OfModule; decide, by decide, by decide, by decide⟩, by decide⟩

/-- EmptySources: an empty A beside a full B, an empty B behind a full A, both empty; an empty row beside a full one. -/
theorem witness_emptySources :
    Quiet t0 ∧ Placed t0 (fieldsOf .sx 8 5 2) [.sx, .sy] ∧ (readReg (me t0) 5).full = false ∧ HoldsB t0 (fieldsOf .sx 8 5 2) 3 ∧ Holds t0 1 5
    ∧ Placed t0 (fieldsOf .vx 1 4 3) [.vx, .vy] ∧ tileTaken t0 .x = false ∧ (readRow (me t0) .x 4).full = false ∧ HoldsRow t0 .x 3 0x11
    ∧ (coreOf t0 (myCore t0)).running = some (t0.cur % 4) :=
  ⟨quiet_t0, ⟨rfl, by decide⟩, by decide, .inl (by decide), .inl (by decide), ⟨rfl, by decide⟩, by decide, by decide, ⟨rfl, rfl⟩, by decide⟩

/-- TrapEntry: outside a handler with an entry, and with none; in a handler; with a transfer pending and results in flight, a row pair among
them; in debug mode with a debug entry. -/
theorem witness_trapEntry :
    ((me t0).seg = none ∧ (∀ f ∈ (me t0).flight, now t0 ≤ f.due) ∧ inHandler (me t0) = false ∧ (me t0).task.map (·.trapEntry) = some 0x9000)
    ∧ ({ testTask with trapEntry := 0 }.trapEntry = 0 ∧ inHandler (me (ctxIs handling)) = true ∧ (me (ctxIs handling)).task = some testTask)
    ∧ (let s := ctxIs { inDelay with flight := [{ due := 100, dest := .scalar 8, val := .word 1 1 }] }
       (me s).xfer.isSome = true ∧ (∀ f ∈ (me s).flight, now s ≤ f.due) ∧ (me s).flight.length = 1)
    ∧ (let s := ctxIs { testCtx with flight := [{ due := 100, dest := .row .x 2, val := .row 5 }, { due := 100, dest := .row .x 3, val := .second 6 }] }
       (∀ f ∈ (me s).flight, now s ≤ f.due) ∧ (me s).flight.length = 2 ∧ flightCount (me s) = 1)
    ∧ (inDebug (me (ctxIs debugging)) = true ∧ kget (kset debugging 0xD1 0x8000) 0xD1 ≠ 0) :=
  ⟨by decide, by decide, by decide, by decide, by decide⟩

/-- RegisterEntriesFrame, IssueLeavesMemory: a unit whose only effect is a register, which issues, and a store, which does too. -/
theorem witness_frames :
    registerOnly (.add fSX) = true ∧ (me t0).seg = none ∧ (∀ f ∈ (me t0).flight, now t0 < f.due) ∧ (∃ t, exec (.add fSX) t0 = .next t)
    ∧ ofStream (.st (fMem 2 2)) = true ∧ ∃ t, exec (.st (fMem 2 2)) tMem = .next t :=
  ⟨rfl, rfl, by decide, ⟨_, rfl⟩, rfl, ⟨_, rfl⟩⟩

/-- StepRunsDecoded: an enabled core whose context stands at a `halt` of its stream. -/
theorem witness_step :
    let s : State := { tCode with cold := { tCode.cold with state := 5 }, agenda := [.turn 0] }
    let woken := wakeCore { s with agenda := [] } 0
    coreHeld { s with agenda := [] } 0 = false ∧ 0 < Config.nCores ∧ pickContext woken 0 = some 0
      ∧ (let chosen := runContext woken 0 0
         let filled := landSfu chosen (myCore chosen)
         let landed := publishDepth (setMe filled (landDue (rebased (me filled) (now filled)) (now filled))) filled.cur
         (me landed).tended = false ∧ fetchParcels 6 landed (me landed).pc = .inl [0x0000])
      ∧ decodeUnit [0x0000] = some (.halt, []) := by
  refine ⟨by decide +kernel, by decide, by decide +kernel, by decide +kernel, by decide⟩

/-- StepKeepsMemory: at reset, and where a program has been placed. -/
theorem witness_memoryCanonical : MemoryCanonical State.reset ∧ MemoryCanonical tCode := ⟨rfl, rfl⟩


/-! ### Decoding: words put together from the bit positions of R192 and the opcodes of R198 to R201 -/

/-- A slot word: opcode [34:28], leaf mask [27:23], DST [22:16], SRCA [15:9], SRCB [8:2], BTA [1], BTB [0] (R192); leaf mask 1. -/
def slotWord (op dst srca srcb : Nat) : SlotWord := BitVec.ofNat 35 (op * 2 ^ 28 + 2 ^ 23 + dst * 2 ^ 16 + srca * 2 ^ 9 + srcb * 2 ^ 2)

/-- The words of a list of opcodes decode, in a slot and with given fields, to these instructions. -/
def decodesTo (slot : SlotId) (o : Fields) (es : List (Nat × (Fields → Instr))) : Bool :=
  es.all (fun e => decodeSlot slot (slotWord e.1 o.dst.toNat o.srca.toNat o.srcb.toNat) == some (e.2 o))

/-- The S-map, 0x00 to 0x3E (R198). -/
theorem test_decode_sMap : decodesTo .sx (fieldsOf .sx 3 4 5)
    ([(0x00, Instr.nop), (0x01, Instr.add), (0x02, Instr.sub), (0x03, Instr.mul), (0x04, Instr.mulh), (0x05, Instr.mulhu), (0x06, Instr.div), (0x07, Instr.divu)]
      ++ [(0x08, Instr.rem), (0x09, Instr.remu), (0x0A, Instr.and), (0x0B, Instr.or), (0x0C, Instr.xor), (0x0D, Instr.shl), (0x0E, Instr.shr), (0x0F, Instr.sra)]
      ++ [(0x10, Instr.rol), (0x11, Instr.ror), (0x12, Instr.min), (0x13, Instr.max), (0x14, Instr.minu), (0x15, Instr.maxu), (0x16, Instr.cmp), (0x17, Instr.sel)]
      ++ [(0x18, Instr.ldi), (0x19, Instr.xput), (0x1A, Instr.yput), (0x1B, Instr.xget), (0x1C, Instr.yget), (0x1D, Instr.bset), (0x1E, Instr.jtab), (0x1F, Instr.cmpt)]
      ++ [(0x20, Instr.lset), (0x21, Instr.lstr), (0x22, Instr.ld), (0x23, Instr.ldu), (0x24, Instr.st), (0x25, Instr.stq), (0x26, Instr.vld), (0x27, Instr.vst)]
      ++ [(0x28, Instr.vldg), (0x29, Instr.vstg), (0x2A, Instr.vstxM), (0x2B, Instr.atomAdd), (0x2C, Instr.atomAnd), (0x2D, Instr.atomOr), (0x2E, Instr.atomXor), (0x2F, Instr.atomMin)]
      ++ [(0x30, Instr.atomMax), (0x31, Instr.atomMinu), (0x32, Instr.atomMaxu), (0x33, Instr.atomSwap), (0x34, Instr.atomCas), (0x35, Instr.vote), (0x36, Instr.wait), (0x37, Instr.clz)]
      ++ [(0x38, Instr.ctz), (0x39, Instr.popc), (0x3A, Instr.call), (0x3B, Instr.ret), (0x3C, Instr.rfe), (0x3D, Instr.vgth), (0x3E, Instr.vsct)]
    ) = true := by
  decide +kernel

/-- Short-immediate twins, 0x41 to 0x76 (R198). -/
theorem test_decode_sMap_twins : decodesTo .sy { fieldsOf .sy 3 4 5 with twin := true }
    ([(0x41, Instr.add), (0x42, Instr.sub), (0x43, Instr.mul), (0x44, Instr.mulh), (0x45, Instr.mulhu), (0x46, Instr.div), (0x47, Instr.divu), (0x48, Instr.rem)]
      ++ [(0x49, Instr.remu), (0x4A, Instr.and), (0x4B, Instr.or), (0x4C, Instr.xor), (0x4D, Instr.shl), (0x4E, Instr.shr), (0x4F, Instr.sra), (0x50, Instr.rol)]
      ++ [(0x51, Instr.ror), (0x52, Instr.min), (0x53, Instr.max), (0x54, Instr.minu), (0x55, Instr.maxu), (0x56, Instr.cmp), (0x57, Instr.sel), (0x58, Instr.ldi)]
      ++ [(0x59, Instr.xput), (0x5A, Instr.yput), (0x5B, Instr.xget), (0x5C, Instr.yget), (0x5D, Instr.bset), (0x5E, Instr.jtab), (0x5F, Instr.cmpt), (0x60, Instr.lset)]
      ++ [(0x61, Instr.lstr), (0x62, Instr.ld), (0x63, Instr.ldu), (0x64, Instr.st), (0x65, Instr.stq), (0x66, Instr.vld), (0x67, Instr.vst), (0x68, Instr.vldg)]
      ++ [(0x69, Instr.vstg), (0x6A, Instr.vstxM), (0x6B, Instr.atomAdd), (0x6C, Instr.atomAnd), (0x6D, Instr.atomOr), (0x6E, Instr.atomXor), (0x6F, Instr.atomMin), (0x70, Instr.atomMax)]
      ++ [(0x71, Instr.atomMinu), (0x72, Instr.atomMaxu), (0x73, Instr.atomSwap), (0x74, Instr.atomCas), (0x75, Instr.vote), (0x76, Instr.wait)]
    ) = true := by
  decide +kernel

/-- The upper half of the S-map (R198); `mtk` to k-space index 5. -/
theorem test_decode_sMap_upper : decodesTo .sy (fieldsOf .sy 3 4 5)
    ([(0x77, Instr.aplane), (0x78, Instr.sext), (0x79, Instr.zext), (0x7A, Instr.mtk), (0x7B, Instr.mfk), (0x7C, Instr.brk), (0x7D, Instr.trap), (0x7E, Instr.errinj)]
    ) = true := by
  decide +kernel

/-- The V-map, 0x00 to 0x3F (R199). -/
theorem test_decode_vMap : decodesTo .vx (fieldsOf .vx 3 4 5)
    ([(0x00, Instr.nop), (0x01, Instr.vadd), (0x02, Instr.vsub), (0x03, Instr.vmul), (0x04, Instr.vfma), (0x05, Instr.vfms), (0x06, Instr.vfnma), (0x07, Instr.vfnms)]
      ++ [(0x08, Instr.vmin), (0x09, Instr.vmax), (0x0A, Instr.vabs), (0x0B, Instr.vneg), (0x0C, Instr.vcopysign), (0x0D, Instr.vand), (0x0E, Instr.vor), (0x0F, Instr.vxor)]
      ++ [(0x10, Instr.vshl), (0x11, Instr.vshr), (0x12, Instr.vsra), (0x13, Instr.vsel), (0x14, Instr.vcmp), (0x15, Instr.pand), (0x16, Instr.por), (0x17, Instr.pxor)]
      ++ [(0x18, Instr.pnot), (0x19, Instr.vrsum), (0x1A, Instr.vrmax), (0x1B, Instr.vrmin), (0x1C, Instr.vperm), (0x1D, Instr.vrot), (0x1E, Instr.vbcast), (0x1F, Instr.vxfer)]
      ++ [(0x20, Instr.vrcp), (0x21, Instr.vrsqrt), (0x22, Instr.vexp2), (0x23, Instr.vlog2), (0x24, Instr.pany), (0x25, Instr.pall), (0x28, Instr.qcmp 0), (0x29, Instr.qcmp 1)]
      ++ [(0x2A, Instr.qcmp 2), (0x2B, Instr.qcmp 3), (0x2C, Instr.qand), (0x2D, Instr.qor), (0x2E, Instr.qnot), (0x2F, Instr.qfromp), (0x30, Instr.qcol), (0x31, Instr.qgcmp)]
      ++ [(0x32, Instr.qgblend), (0x33, Instr.qmov), (0x34, Instr.qmovFromRow), (0x35, Instr.qmovToRow), (0x38, Instr.vblendQ 0), (0x39, Instr.vblendQ 1), (0x3A, Instr.vblendQ 2), (0x3B, Instr.vblendQ 3)]
      ++ [(0x3C, Instr.vblendQ 4), (0x3D, Instr.vblendQ 5), (0x3E, Instr.vblendQ 6), (0x3F, Instr.vblendQ 7)]
    ) = true := by
  decide +kernel

/-- The upper half of the V-map (R199). -/
theorem test_decode_vMap_upper : decodesTo .vy (fieldsOf .vy 3 4 5)
    ([(0x40, Instr.vcvt 0), (0x41, Instr.vcvt 1), (0x42, Instr.vcvt 2), (0x43, Instr.vcvt 3), (0x44, Instr.vcvt 4), (0x45, Instr.vcvt 5), (0x48, Instr.vcvtSat 0), (0x49, Instr.vcvtSat 1)]
      ++ [(0x4A, Instr.vcvtSat 2), (0x4B, Instr.vcvtSat 3), (0x4C, Instr.vcvtSat 4), (0x4D, Instr.vcvtSat 5), (0x50, Instr.vmxq 0), (0x51, Instr.vmxq 1), (0x52, Instr.vmxq 2), (0x53, Instr.vmxq 3)]
      ++ [(0x54, Instr.vmxq 4), (0x55, Instr.vmxq 5), (0x58, Instr.vmxd 0), (0x59, Instr.vmxd 1), (0x5A, Instr.vmxd 2), (0x5B, Instr.vmxd 3), (0x5C, Instr.vmxd 4), (0x5D, Instr.vmxd 5)]
      ++ [(0x63, Instr.vrotI), (0x64, Instr.vbcastI), (0x65, Instr.qconst), (0x66, Instr.vtype), (0x67, Instr.qlin), (0x68, Instr.vrotL), (0x69, Instr.vbcastL), (0x6A, Instr.qconstL)]
    ) = true := by
  decide +kernel

/-- Shifts with a count, 0x60 to 0x62 (R199). -/
theorem test_decode_vMap_counts : decodesTo .vy { fieldsOf .vy 3 4 5 with twin := true }
    ([(0x60, Instr.vshl), (0x61, Instr.vshr), (0x62, Instr.vsra)]
    ) = true := by
  decide +kernel

/-- The M-map (R200). -/
theorem test_decode_mMap : decodesTo .mx (fieldsOf .mx 3 4 5)
    ([(0x00, Instr.nop), (0x01, Instr.mcall), (0x02, Instr.mset), (0x03, Instr.msetL), (0x04, Instr.mtile), (0x05, Instr.mstat), (0x06, Instr.mbound), (0x07, Instr.mcallM)]
    ) = true := by
  decide +kernel

/-- The C-map (R201). -/
theorem test_decode_cMap : decodesTo .cp (fieldsOf .cp 3 4 5)
    ([(0x00, Instr.nop), (0x01, Instr.cpin), (0x02, Instr.cpout), (0x03, Instr.cpacc), (0x04, Instr.cpfill), (0x05, Instr.chpost), (0x06, Instr.chsnd), (0x07, Instr.chq)]
      ++ [(0x08, Instr.plnew), (0x09, Instr.pldel), (0x0A, Instr.plprot), (0x0B, Instr.plq), (0x0C, Instr.plpin), (0x0D, Instr.post), (0x0E, Instr.tend), (0x0F, Instr.targ)]
      ++ [(0x10, Instr.cwtw), (0x11, Instr.cwtr), (0x12, Instr.ifence), (0x41, Instr.cpinReg), (0x42, Instr.cpoutReg), (0x43, Instr.cpaccReg), (0x44, Instr.cpfillReg), (0x45, Instr.chpostReg)]
      ++ [(0x46, Instr.chsndReg)]
    ) = true := by
  decide +kernel

/-- The rows that share an opcode: `sync` by DST, `cmpt` by DST, `qmov` by DST[3], `mtk` by its index, `mstat` and `chq` by selector
(R198 to R201, R231, R235, R237, R264, R265, R314). -/
theorem test_decode_variants :
    decodeSlot .sy (slotWord 0x3F 4 0 0) = some (.fence (fieldsOf .sy 4 0 0)) ∧ decodeSlot .sy (slotWord 0x3F 5 0 0) = some (.drain (fieldsOf .sy 5 0 0))
    ∧ decodeSlot .sy (slotWord 0x3F 6 0 0) = some (.slack (fieldsOf .sy 6 0 0)) ∧ decodeSlot .sy (slotWord 0x3F 7 0 3) = some (.rdv (fieldsOf .sy 7 0 3))
    ∧ decodeSlot .sy (slotWord 0x7F 7 0 3) = some (.rdv { fieldsOf .sy 7 0 3 with twin := true }) ∧ decodeSlot .sy (slotWord 0x3F 8 0 0) = none
    ∧ decodeSlot .sx (slotWord 0x1F 0x61 2 3) = some (.cmptP (fieldsOf .sx 0x61 2 3)) ∧ decodeSlot .sx (slotWord 0x1F 0x71 2 3) = some (.cmptV (fieldsOf .sx 0x71 2 3))
    ∧ decodeSlot .vx (slotWord 0x33 9 1 0) = some (.qmovCross (fieldsOf .vx 9 1 0))
    ∧ decodeSlot .sx (slotWord 0x7A 0 2 0x08) = some (.mtkQsoft (fieldsOf .sx 0 2 0x08)) ∧ decodeSlot .sx (slotWord 0x7A 0 2 0x0A) = some (.mtkQstat (fieldsOf .sx 0 2 0x0A))
    ∧ decodeSlot .sx (slotWord 0x7A 0 2 0x01) = some (.mtkRmode (fieldsOf .sx 0 2 0x01)) ∧ decodeSlot .sx (slotWord 0x7A 0 2 0x30) = some (.mtkMdepth (fieldsOf .sx 0 2 0x30))
    ∧ decodeSlot .sx (slotWord 0x7A 0 2 0x50 + 1) = some (.mtkDbgctl { fieldsOf .sx 0 2 0x50 with btb := true })
    ∧ decodeSlot .mx (slotWord 0x05 8 0 0x40) = some (.mstatStatusClr (fieldsOf .mx 8 0 0x40)) ∧ decodeSlot .cp (slotWord 0x07 8 0 0x0F) = some (.chqLatch (fieldsOf .cp 8 0 0x0F)) := by
  decide +kernel

/-- Reserved opcodes of each map (R198 to R201, R204). -/
theorem test_decode_reserved :
    decodeSlot .sx (slotWord 0x40 0 0 0) = none ∧ (∀ op ∈ [0x26, 0x27, 0x36, 0x37, 0x46, 0x4E, 0x56, 0x5E, 0x6B, 0x7F], decodeSlot .vx (slotWord op 0 0 0) = none)
    ∧ (∀ op ∈ [0x08, 0x7F], decodeSlot .mx (slotWord op 0 0 0) = none) ∧ (∀ op ∈ [0x13, 0x40, 0x47, 0x7F], decodeSlot .cp (slotWord op 0 0 0) = none)
    ∧ (∀ code ∈ [0x09, 0x3F], decodeUop (BitVec.ofNat 64 (code * 2 ^ 58)) = none) := by
  decide +kernel


/-- The parcels of SYS functions, of loop levels and of bundles (R9, R174): `nops 8` is 0x0407. -/
theorem test_decode_units :
    decodeUnit [0x0000] = some (.halt, []) ∧ decodeUnit [0x0407, 0x0000] = some (.nops 7, [0x0000]) ∧ decodeUnit [0x07FF] = some (.nops 1023, [])
    ∧ decodeUnit [0x0800] = some (.isync, []) ∧ decodeUnit [0x0C05] = some (.bswap 5, []) ∧ decodeUnit [0x4400] = some (.lbeg 1, [])
    ∧ decodeUnit [0x7800] = some (.lend 6, []) ∧ decodeUnit [0xFFFF] = some (.issue [] 511 31, []) ∧ decodeUnit [0x8001, 0xC022] = some (.issue [1] 1 2, []) := by
  decide +kernel

/-- Reserved parcels: functions 4 and 15, an operand of `halt`, of `isync` and above k of `bswap`, level codes 0 and 7, low bits of a LOOP
parcel, a PREFIX before a LOOP parcel, six PREFIX parcels, a cut unit (R10, R173, R174). -/
theorem test_decode_units_reserved :
    ∀ ps ∈ ([[0x1000], [0x3C00], [0x0001], [0x0801], [0x0C08], [0x4000], [0x5C00], [0x4401], [0x8000, 0x4400], [0x8000, 0x0000]
      , [0x8000, 0x8000, 0x8000, 0x8000, 0x8000, 0x8000, 0xC000], [0x8000], []] : List (List Parcel)), decodeUnit ps = none := by
  decide +kernel

/-- The fields of the spec's worked slot words: `ld.w s7, [a2 + 16]`, `atom.add.d.w8 s8, [a3]` and five slots of its listing. -/
theorem test_decode_worked :
    (let all := { fieldsOf .sy 0 0 0 with lmask := 31 }
     decodeSlot .sy 0x62F878440 = some (.ld { all with dst := 7, srca := 0x42, srcb := 16, twin := true })
       ∧ decodeSlot .sy 0x6BFC84600 = some (.atomAdd { all with dst := 0x48, srca := 0x23, twin := true })
       ∧ decodeSlot .sy 0x64F8CC200 = some (.st { all with dst := 0x0C, srca := 0x61, twin := true })
       ∧ decodeSlot .sy 0x3FF850000 = some (.drain { all with dst := 5 }))
    ∧ (let all := { fieldsOf .sx 0 0 0 with lmask := 31 }
       decodeSlot .sx 0x01F8A0208 = some (.add { all with dst := 10, srca := 1, srcb := 2 })
         ∧ decodeSlot .sx 0x43F8C140C = some (.mul { all with dst := 12, srca := 10, srcb := 3, twin := true })
         ∧ decodeSlot .sx 0x1FF911834 = some (.cmpt { all with dst := 0x11, srca := 12, srcb := 13 })) := by
  decide +kernel

/-- Micro-ops, each field put at the bits R317 gives it. -/
theorem test_decode_uops :
    decodeUop 0 = some .mnop
    ∧ decodeUop (BitVec.ofNat 64 (1 * 2 ^ 58 + 3 * 2 ^ 50 + 4 * 2 ^ 42 + 0xF0 * 2 ^ 34 + 8 * 2 ^ 27 + 2 ^ 26 + 9 * 2 ^ 18))
        = some (.wld 3 4 0xF0 8 true 9)
    ∧ decodeUop (BitVec.ofNat 64 (2 * 2 ^ 58 + 5 * 2 ^ 50 + 6 * 2 ^ 42 + 2 ^ 41 + 0 * 2 ^ 40 + 7 * 2 ^ 33 + 127 * 2 ^ 26 + 9 * 2 ^ 19 + 2 * 2 ^ 17
        + 0xF0 * 2 ^ 9 + 11 * 2)) = some (.act 5 6 true false 7 127 9 2 0xF0 11)
    ∧ decodeUop (BitVec.ofNat 64 (3 * 2 ^ 58 + 2 ^ 57 + 1 * 2 ^ 55 + 0 * 2 ^ 54 + 12 * 2 ^ 46 + 1 * 2 ^ 38 + 4 * 2 ^ 35 + 2 ^ 34 + 2 * 2 ^ 32 + 3 * 2 ^ 25
        + 127 * 2 ^ 18 + 1 * 2 ^ 16)) = some (.drn true 1 false 12 1 4 true 2 3 127 1)
    ∧ decodeUop (BitVec.ofNat 64 (4 * 2 ^ 58 + 2 ^ 56 + 0 * 2 ^ 55 + 5 * 2 ^ 48 + 2 ^ 47 + 6 * 2 ^ 40)) = some (.cks true false 5 true 6)
    ∧ decodeUop (BitVec.ofNat 64 (5 * 2 ^ 58 + 65535 * 2 ^ 42 + 3 * 2 ^ 39)) = some (.mlp 65535 3)
    ∧ decodeUop (BitVec.ofNat 64 (6 * 2 ^ 58)) = some .mnd
    ∧ decodeUop (BitVec.ofNat 64 (7 * 2 ^ 58 + 3 * 2 ^ 56 + 1 * 2 ^ 54 + 513 * 2 ^ 38 + 5 * 2 ^ 35)) = some (.midx 3 1 513 5)
    ∧ decodeUop (BitVec.ofNat 64 (8 * 2 ^ 58 + 7 * 2 ^ 55 + 2 ^ 54 + 200 * 2 ^ 46)) = some (.msel 7 true 200)
    ∧ (∀ w ∈ [6 * 2 ^ 58 + 1, 1, 1 * 2 ^ 58 + 1, 2 * 2 ^ 58 + 1, 4 * 2 ^ 58 + 2 ^ 57], decodeUop (BitVec.ofNat 64 w) = none) := by
  decide +kernel

/-! ### Well-formedness -/

/-- One ill-formed term for each check of `wellFormed`. -/
theorem test_illFormed :
    (∀ i ∈ [Instr.issue [0, 0, 0, 0, 0, 0] 0 0, .lbeg 0, .lbeg 7, .lend 0, .lend 7, .nop { fieldsOf .sx 0 0 0 with twin := true }
      , .add (fieldsOf .vx 0 0 0), .clz { fieldsOf .sx 0 0 0 with twin := true }, .vadd (fieldsOf .sx 0 0 0), .vadd { fieldsOf .vx 0 0 0 with twin := true }
      , .mcall (fieldsOf .cp 0 0 0), .mcall { fieldsOf .mx 0 0 0 with twin := true }], i.wellFormed = false)
    ∧ (∀ i ∈ [Instr.mtk (fieldsOf .sx 0 0 8), .mtkQsoft (fieldsOf .sx 0 0 1), .mtkQstat (fieldsOf .sx 0 0 1), .mtkRmode (fieldsOf .sx 0 0 2)
      , .mtkMdepth (fieldsOf .sx 0 0 1), .mtkDbgctl (fieldsOf .sx 0 0 0x50), .cmpt (fieldsOf .sx 0x60 0 0), .cmptP (fieldsOf .sx 0x70 0 0)
      , .cmptV (fieldsOf .sx 0x60 0 0), .fence (fieldsOf .sy 5 0 0), .drain (fieldsOf .sy 4 0 0), .slack (fieldsOf .sy 5 0 0), .rdv (fieldsOf .sy 6 0 0)
      ], i.wellFormed = false)
    ∧ (∀ i ∈ [Instr.qmov (fieldsOf .vx 8 0 0), .qmovCross (fieldsOf .vx 7 0 0), .vcvt 6 (fieldsOf .vx 0 0 0), .vcvtSat 7 (fieldsOf .vx 0 0 0)
      , .vmxq 6 (fieldsOf .vx 0 0 0), .vmxd 7 (fieldsOf .vx 0 0 0), .mstat (fieldsOf .mx 0 0 0x40), .mstatStatusClr (fieldsOf .mx 0 0 0x41)
      , .cpin (fieldsOf .mx 0 0 0), .cpin { fieldsOf .cp 0 0 0 with twin := true }, .chq (fieldsOf .cp 0 0 8), .chqLatch (fieldsOf .cp 0 0 7)
      ], i.wellFormed = false) := by
  decide +kernel

/-- A micro-op for each check of the loader (R317), and one that passes. -/
theorem test_notLoadable :
    (∀ i ∈ [Instr.wld 192 4 0xF0 0 false 0, .wld 0 4 0 0 false 0, .wld 0 6 0xF0 0 false 0, .act 0 4 false false 0 0 0 0 0 0, .act 0xF0 4 false false 0 0 0 0 0xF0 0
      , .drn false 0 false 0 1 0 false 0 0 0 0, .drn false 2 false 0 1 0 false 0 0 0 0, .drn false 1 false 0 1 5 false 0 0 0 0, .drn false 1 false 0 1 0 false 3 0 0 0
      , .midx 0 0 0 0, .midx 1 3 0 0], i.uopLoadable = false)
    ∧ Instr.uopLoadable (.wld 191 4 0xF0 0 false 0) = true ∧ Instr.uopLoadable (.wld 0xF8 6 0 0 false 0) = true := by
  decide +kernel

/-! ### Numbers: the spec's worked tables -/

/-- The worked conversions from fp32. -/
theorem test_conversions :
    convertNum 1 4 0 0 false 0x43E80000 = 0x7E ∧ convertNum 1 4 0 0 false 0x43EB0000 = 0x7F ∧ convertNum 1 4 0 0 true 0x43EB0000 = 0x7E
    ∧ convertNum 1 4 1 0 false 0x447A0000 = 0x7E ∧ convertNum 1 4 0 0 false 0x3A800000 = 0 ∧ convertNum 1 2 0 0 false 0x3F808000 = 0x3F80
    ∧ convertNum 1 6 0 0 false 0x40E00000 = 7 ∧ convertNum 1 0x0A 0 0 false 0xC0600000 = 0xFC ∧ convertNum 1 0x0A 0 0 false 0x43960000 = 0x7F
    ∧ convertNum 1 0x0E 0 0 false 0x7FC00000 = 0 := by
  decide +kernel

/-- The worked MX block: 5, 10, 15, 0.3, −7, 0.75, −0 and zeros. -/
theorem test_mxBlock :
    mxQuant 6 0 (fun _ => 0) ([.fin false 5 1, .fin false 10 1, .fin false 15 1, .fin false 3 10, .fin true 7 1, .fin false 3 4, .fin true 0 1]
      ++ List.replicate 25 (.fin false 0 1)) = (0x80, [4, 6, 7, 0, 0xE, 1, 8] ++ List.replicate 25 0) := by
  decide +kernel

/-- Knots of the table: K[0], K[8], K[128] and the clamps above 16 and below −16 (R170). -/
theorem test_knots :
    knot (.fin false 0 1) = 0x4000 ∧ knot (.fin false 16 1) = 0x8000 ∧ knot (.fin true 16 1) = 0 ∧ knot (.inf false) = 0x8000 ∧ knot .nan = 0 := by
  decide +kernel

/-! ### One unit -/

/-- The destinations and values in flight after one unit of the acting context. -/
def landing (x : Out) : List (Nat × Dest × Payload) :=
  match x with
  | .next t => (me t).flight.map (fun f => (f.due, f.dest, f.val))
  | _ => []

/-- The values that a scalar operation puts in flight. -/
def scalarOf (x : Out) : List Word :=
  (landing x).filterMap (fun f => match f.2.2 with | .word v _ => some v | _ => none)

/-- A sum wraps, lands after one cycle in s8, and carries the residue of 4 mod 15 (R209, R411). -/
theorem test_add_wraps : landing (exec (.add (fieldsOf .sx 8 6 1)) t0) = [(101, .scalar 8, .word 4 4)] := by decide +kernel

/-- The carries of a signed high product: −2^63 times 3 is −2·2^64 + 2^63 (R209). -/
theorem test_mulh : scalarOf (exec (.mulh (fieldsOf .sx 8 4 2)) t0) = [0xFFFFFFFFFFFFFFFE] ∧ scalarOf (exec (.mulhu (fieldsOf .sx 8 4 2)) t0) = [1] := by
  decide +kernel

/-- The corners of R211. -/
theorem test_division :
    scalarOf (exec (.div (fieldsOf .sx 8 1 3)) t0) = [-1] ∧ scalarOf (exec (.rem (fieldsOf .sx 8 1 3)) t0) = [5]
    ∧ scalarOf (exec (.div (fieldsOf .sx 8 4 6)) t0) = [0x8000000000000000] ∧ scalarOf (exec (.rem (fieldsOf .sx 8 4 6)) t0) = [0]
    ∧ scalarOf (exec (.divu (fieldsOf .sx 8 6 1)) t0) = [0x3333333333333333] ∧ scalarOf (exec (.remu (fieldsOf .sx 8 1 2)) t0) = [2] := by
  decide +kernel

/-- Shifts by 3: the sign comes in from the left, bits come round. -/
theorem test_shifts :
    scalarOf (exec (.sra (fieldsOf .sx 8 4 2)) t0) = [0xF000000000000000] ∧ scalarOf (exec (.shr (fieldsOf .sx 8 4 2)) t0) = [0x1000000000000000]
    ∧ scalarOf (exec (.rol (fieldsOf .sx 8 4 2)) t0) = [4] ∧ scalarOf (exec (.ror (fieldsOf .sx 8 1 2)) t0) = [0xA000000000000000] := by
  decide +kernel

/-- −1 is below 5 as a signed number and above it as an unsigned one: conditions lt (2) and ltu (4) to c3 (R212). -/
theorem test_compare :
    scalarOf (exec (.cmp (fieldsOf .sx 0x23 6 1)) t0) = [1] ∧ scalarOf (exec (.cmp (fieldsOf .sx 0x43 6 1)) t0) = [0] := by
  decide +kernel

/-- 5 has 61 leading zeros; its low three bits are −3; `aplane` replaces the top four bits. -/
theorem test_bits :
    scalarOf (exec (.clz (fieldsOf .sx 8 1 0)) t0) = [61] ∧ scalarOf (exec (.sext (fieldsOf .sx 8 1 3)) t0) = [-3]
    ∧ scalarOf (exec (.zext (fieldsOf .sx 8 6 3)) t0) = [7] ∧ scalarOf (exec (.aplane (fieldsOf .sx 8 6 5)) t0) = [0x5FFFFFFFFFFFFFFF] := by
  decide +kernel

/-- An operation on an empty register blocks, and with its BT bit set traps with cause and handler entry (R195, R396). -/
theorem test_empty :
    (match exec (.add (fieldsOf .sx 8 5 1)) t0 with | .next t => (me t).status == .blocked (.scalar 5) && (coreOf t 0).running == none | _ => false) = true
    ∧ (match exec (.add { fieldsOf .sx 8 5 1 with bta := true }) t0 with
        | .next t => (me t).pc == 0x9000 && kget (me t) 0xC1 == 0x1000 && (kget (me t) 0xC0).getLsbD 8 | _ => false) = true := by
  decide +kernel

/-- A load of context 0 at place 1 of its program order beside one of its stores: an earlier store is forwarded, a later one is
not (R78.2, R78.4); an atomic waits for the earlier one alone (R78.6). -/
theorem test_place :
    (let at_ (u : LoadUse) (n seq : Nat) : State := { loadState u n [] with wbuf := [{ testStore false with seq := seq }] }
     let got (seq : Nat) : Word := match exec (.loadDataReturn 5 []) (at_ (.scalar 8 4 false) 4 seq) with
       | .next t => (readReg (ctxOf t 0) 8).val | _ => 0
     let atom : LoadUse := .atom 0 8 4 [1] false
     got 0 = 0x04030201 ∧ got 2 = 0
       ∧ atomMayPerform (at_ atom 4 0) (testLoad atom 4) = false ∧ atomMayPerform (at_ atom 4 2) (testLoad atom 4) = true) := by
  decide +kernel

/-- A context reads a store of its group that is not at pkg scope yet: its later store, issued before the load performed, follows
that store (R79). -/
theorem test_cumulative :
    (let s : State := { loadState (.scalar 8 4 false) 4 [] with
       wbuf := [{ testStore true with cid := 4, id := 6 }, { testStore false with seq := 3, id := 7, addr := 0x10C100 }] }
     match exec (.loadDataReturn 5 []) s with
     | .next t => t.wbuf.map (fun p => (p.id, p.deps)) == [(6, []), (7, [6])] && (readReg (ctxOf t 0) 8).val == 0x04030201
     | _ => false) = true := by
  decide +kernel

/-- `nops 8`, placed where the first step after reset fetches, takes 8 cycles (R175). -/
theorem test_nops_step :
    (match step (State.reset.withFetchWord 16 0x0407) with
      | .next t => (coreOf t 0).cycle == 8 && (ctxOf t 0).pc == (ctxOf (State.reset.withFetchWord 16 0x0407) 0).pc + 2 | _ => false) = true
    ∧ decodeTableWord 16 0x0407 = some (.nops 7) := by
  decide +kernel

end Sys2Proof.Tests
end

section
/-! SUPPORT. The scalar entries and the loop levels: what each shape of a plan does in the conditions of the statements,
the values of R211 to R216 in the words of the statements, and the proofs of the statements of that family. -/

namespace Sys2Proof.Machine

/-! ### An operation that issues, and one that traps -/

/-- Step 4 of R203 for an operation without a meaning of its own. -/
theorem issueAlone_illegalPlan {o : Fields} {opc : Nat} {plan : Nat → State → Plan} {s : State} (hq : Quiet s) (ho : opc ≠ 0)
    (hl : o.lmask.getLsbD 0 = true) (hp : plan 0 s = illegalPlan) :
    issueAlone o opc plan s = trapHere s { cause := 3, slot := slotNumber o.slot } :=
  issueAlone_illegal o opc plan s hq.deferred ho hl (by simp [hp, illegalPlan]) (q := 0) (by rw [hp]; rfl)

theorem scalarPlan_refused (s : State) (code lat : Nat) (srcs : List Src) (v : Word) (res : BitVec 4) :
    scalarPlan s false code lat srcs v res = illegalPlan := by
  simp [scalarPlan]

/-- An entry of operands A and B sends the value g of them, its residue predicted by r. -/
theorem sends_alu {i : Instr} {s : State} {o : Fields} {opc : BitVec 7} {lat : Nat} {a b : Word} (g : Word → Word → Word)
    (r : Word → Word → BitVec 4 → BitVec 4 → BitVec 4) (h : TwoScalars s o a b)
    (he : exec i s = .next (issueAlone o (twinOpcode opc o).toNat
      (fun _ t => aluPlan t o lat (fun x y => (g x.v y.v, r x.v y.v x.res y.res))) s))
    (ho : opc.toNat % 64 ≠ 0) (hr : r a b (rho a) (rho b) = rho (g a b)) :
    Sends i s lat (.scalar o.dst.toNat) (wordOf (g a b)) := by
  refine he.trans (congrArg _ (alu_sends h.quiet (twin_ne opc o ho) h.placed h.free h.srcA h.srcB ?_))
  intro x y xv xr yv yr
  simp only [xv, xr, yv, yr, hr]

/-- An entry of operand A with a condition of its own, ok: it sends the value g of A. -/
theorem sends_one {i : Instr} {s : State} {o : Fields} {opc : Nat} {plan : Nat → State → Plan} {ok : Bool} {a : Word}
    (g : Word → Word) (r : Word → BitVec 4 → BitVec 4) (h : OneScalar s o a) (he : exec i s = .next (issueAlone o opc plan s))
    (ho : opc ≠ 0)
    (hp : ∀ x, srcA s o = some x →
      plan 0 s = scalarPlan s (slotOk s o [.sx, .sy] && ok) o.dst.toNat 1 [x] (g x.v) (r x.v x.res))
    (hok : ok = true) (hr : r a (rho a) = rho (g a)) :
    Sends i s 1 (.scalar o.dst.toNat) (wordOf (g a)) := by
  obtain ⟨x, hx, xv, xr, xf⟩ := srcA_holds h.srcA
  subst xv
  refine he.trans (congrArg _ (scalar_sends h.quiet ho h.placed.1 (hp x hx) ?_ h.free ?_ (xr ▸ hr)))
  · simp [h.placed.2, hok]
  · simp [xf]

/-- An entry of operand A whose plan has no meaning. -/
theorem traps_one {i : Instr} {s : State} {o : Fields} {opc : Nat} {plan : Nat → State → Plan} {a : Word} (h : OneScalar s o a)
    (he : exec i s = .next (issueAlone o opc plan s)) (ho : opc ≠ 0) (hp : ∀ x, srcA s o = some x → plan 0 s = illegalPlan) :
    exec i s = .next (trapHere s { cause := 3, slot := slotNumber o.slot }) := by
  obtain ⟨x, hx, -⟩ := srcA_holds h.srcA
  exact he.trans (congrArg _ (issueAlone_illegalPlan h.quiet ho h.placed.1 (hp x hx)))

/-! ### Division (R211) -/

theorem ofInt_tdiv (a b : Word) : BitVec.ofInt 64 (a.toInt.tdiv b.toInt) = a.sdiv b :=
  BitVec.eq_of_toInt_eq (by rw [BitVec.toInt_ofInt, BitVec.toInt_sdiv])

theorem ofInt_tmod (a b : Word) : BitVec.ofInt 64 (a.toInt.tmod b.toInt) = a.srem b := by
  rw [← BitVec.toInt_srem, BitVec.ofInt_toInt]

/-- The corner of the least dividend over −1 is what the truncated quotient wraps to. -/
theorem ofInt_divQ (a b : Word) :
    BitVec.ofInt 64 (divQ a b) = if b = 0 then -1 else if a = BitVec.intMin 64 ∧ b = -1 then a else a.sdiv b := by
  unfold divQ
  split
  · rfl
  · rw [ofInt_tdiv]
    split
    · rename_i hc
      obtain ⟨rfl, rfl⟩ := hc
      decide
    · rfl

theorem ofInt_divR (a b : Word) :
    BitVec.ofInt 64 (divR a b) = if b = 0 then a else if a = BitVec.intMin 64 ∧ b = -1 then 0 else a.srem b := by
  unfold divR
  split
  · exact BitVec.ofInt_toInt
  · rw [ofInt_tmod]
    split
    · rename_i hc
      obtain ⟨rfl, rfl⟩ := hc
      decide
    · rfl

theorem ofInt_divuQ (a b : Word) : BitVec.ofInt 64 (divuQ a b) = if b = 0 then -1 else a.udiv b := by
  unfold divuQ
  split
  · rfl
  · rw [BitVec.ofInt_natCast]; exact BitVec.udiv_def.symm

theorem ofInt_divuR (a b : Word) : BitVec.ofInt 64 (divuR a b) = if b = 0 then a else a.umod b := by
  unfold divuR
  split
  · rw [BitVec.ofInt_natCast, BitVec.ofNat_toNat, BitVec.setWidth_eq]
  · rw [BitVec.ofInt_natCast]; exact BitVec.umod_def.symm

/-- Another effect does not stop a plan that goes. -/
theorem PlanGoes.withEffect {s : State} {p : Plan} (h : PlanGoes s p) (f : State → State) : PlanGoes s { p with effect := f } :=
  ⟨h.illegal, h.emptyTrap, h.errs, h.fire, h.blocks, h.takesTag, h.stop, h.spadBad, h.gate, h.await, h.banks, h.post⟩

/-- A plan of one scalar result takes no DRAW value, and nothing follows its bundle. -/
theorem scalarPlan_plain (s : State) (ok : Bool) (code lat : Nat) (srcs : List Src) (v : Word) (res : BitVec 4) :
    (scalarPlan s ok code lat srcs v res).post = .none ∧ (scalarPlan s ok code lat srcs v res).qdep = false
      ∧ (scalarPlan s ok code lat srcs v res).draws = false := by
  unfold scalarPlan
  split
  · exact ⟨rfl, rfl, rfl⟩
  · exact ⟨rfl, rfl, rfl⟩

/-- The result of a division that issues in a state (R211, R397). -/
def divisionResult (s : State) (o : Fields) (v : Word) : InFlight :=
  { due := now s + 20, dest := .scalar o.dst.toNat, val := wordOf v, slot := slotNumber o.slot }

/-- A division whose check passes sends its value after 20 cycles, its slot named with it (R211, R238, R397). -/
theorem sends_div {i : Instr} {s : State} {o : Fields} {opc : BitVec 7} {a b : Word} (signed : Bool) (g : Word → Word → Word)
    (q r : Word → Word → Int) (h : TwoScalars s o a b)
    (he : exec i s = .next (issueAlone o (twinOpcode opc o).toNat
      (fun _ t => divPlan t o signed (fun x y => g x.v y.v) q r) s))
    (ho : opc.toNat % 64 ≠ 0) (hc : divCheckBad signed a b (rho a) (rho b) (q a b) (r a b) = false) :
    SendsAll i s [divisionResult s o (g a b)] := by
  obtain ⟨x, hx, rfl, xr, xf⟩ := srcA_holds h.srcA
  obtain ⟨y, hy, rfl, yr, yf⟩ := srcB_holds h.srcB
  have hp : divPlan s o signed (fun x y => g x.v y.v) q r
      = { scalarPlan s (slotOk s o [.sx, .sy]) o.dst.toNat 20 [x, y] (g x.v y.v) (rho (g x.v y.v)) with
          effect := fun t => sendResult t (divisionResult t o (g x.v y.v)) } := by
    simp only [divPlan, hx, hy, xr, yr, hc]; rfl
  obtain ⟨hpost, hdep, hdraws⟩ :=
    scalarPlan_plain s (slotOk s o [.sx, .sy]) o.dst.toNat 20 [x, y] (g x.v y.v) (rho (g x.v y.v))
  have hgoes := (scalarPlan_goes (lat := 20) (srcs := [x, y]) (v := g x.v y.v) h.placed.2 h.free (by simp [xf, yf]) rfl).withEffect
    (fun t => sendResult t (divisionResult t o (g x.v y.v)))
  refine he.trans (congrArg _ ?_)
  rw [issueAlone_plain o _ _ s h.quiet (twin_ne opc o ho) h.placed.1 (hp ▸ hgoes) (hp ▸ hpost) (hp ▸ hdep)
    (hp ▸ steady_sendResult s _), hp]
  simp only [hdraws]
  rfl

/-- Settles O1: each entry is a case of `sends_alu` or `sends_div`; the residues and the checks of R238 are those of
Laws/Residue, the corners those of `ofInt_divQ` and its kin. -/
theorem scalarArithmetic : Obligations.ScalarArithmetic := by
  refine ⟨fun s o a b h => ⟨?_, ?_, ?_, ?_, ?_⟩, fun s o a b h => ⟨?_, ?_, ?_, ?_⟩⟩
  · exact sends_alu (· + ·) resAdd h rfl (by decide) (resAdd_rho a b)
  · exact sends_alu (· - ·) resSub h rfl (by decide) (resSub_rho a b)
  · exact sends_alu (· * ·) resMul h rfl (by decide) (resMul_rho a b)
  · exact sends_alu (fun a b => BitVec.ofInt 64 (a.toInt * b.toInt / (2 ^ 64 : Nat))) resMulh h rfl (by decide) (resMulh_rho a b)
  · exact sends_alu (fun a b => BitVec.ofNat 64 (a.toNat * b.toNat / 2 ^ 64)) resMulhu h rfl (by decide) (resMulhu_rho a b)
  · rw [← ofInt_divQ]
    exact sends_div true (fun a b => BitVec.ofInt 64 (divQ a b)) divQ divR h rfl (by decide) (divCheck_signed a b)
  · rw [← ofInt_divuQ]
    exact sends_div false (fun a b => BitVec.ofInt 64 (divuQ a b)) divuQ divuR h rfl (by decide) (divCheck_unsigned a b)
  · rw [← ofInt_divR]
    exact sends_div true (fun a b => BitVec.ofInt 64 (divR a b)) divQ divR h rfl (by decide) (divCheck_signed a b)
  · rw [← ofInt_divuR]
    exact sends_div false (fun a b => BitVec.ofInt 64 (divuR a b)) divuQ divuR h rfl (by decide) (divCheck_unsigned a b)

/-! ### Compares (R212) -/

theorem condHolds_eq_iff (a b : Word) : condHolds 0 a b = true ↔ a = b := by simp [condHolds]

theorem condHolds_ne_iff (a b : Word) : condHolds 1 a b = true ↔ a ≠ b := by simp [condHolds]

theorem condHolds_lt_iff (a b : Word) : condHolds 2 a b = true ↔ a.toInt < b.toInt := BitVec.slt_iff_toInt_lt

theorem condHolds_le_iff (a b : Word) : condHolds 3 a b = true ↔ a.toInt ≤ b.toInt := BitVec.sle_iff_toInt_le

theorem condHolds_ltu_iff (a b : Word) : condHolds 4 a b = true ↔ a.toNat < b.toNat := BitVec.ult_iff_toNat_lt

theorem condHolds_leu_iff (a b : Word) : condHolds 5 a b = true ↔ a.toNat ≤ b.toNat := BitVec.ule_iff_toNat_le

section Compare

variable {s : State} {o : Fields} {a b : Word} (hq : Quiet s) (hp : Placed s o [.sx, .sy])
  (hfree : FreeScalar s (0x58 + o.dst.toNat % 16)) (ha : Holds s o.srca.toNat a) (hb : HoldsB s o b)

include hq hp hfree ha hb in
/-- A compare of a condition that R212 gives writes whether the condition P holds. -/
theorem cmp_sends {P : Prop} [Decidable P] (cond : Nat) (hc : o.dst.toNat / 16 = cond) (h6 : cond < 6)
    (hP : condHolds cond a b = true ↔ P) :
    Sends (.cmp o) s 1 (.scalar (0x58 + o.dst.toNat % 16)) (wordOf (if P then 1 else 0)) := by
  obtain ⟨x, hx, xv, -, xf⟩ := srcA_holds ha
  obtain ⟨y, hy, yv, -, yf⟩ := srcB_holds hb
  have hv : (if condHolds cond x.v y.v then 1 else 0 : Word) = if P then 1 else 0 := by rw [xv, yv]; exact if_congr hP rfl rfl
  refine congrArg _ (scalar_sends (ok := slotOk s o [.sx, .sy] && cond < 6) (srcs := [x, y])
    (v := if P then 1 else 0) hq (twin_ne 0x16 o (by decide)) hp.1 ?_ ?_ hfree ?_ rfl)
  · simp only [planCmp, hx, hy, hc, hv]
  · simp [hp.2, h6]
  · simp [xf, yf]

include hq hp ha hb in
/-- The condition codes 6 and 7 mean nothing (R212). -/
theorem cmp_traps (h6 : 6 ≤ o.dst.toNat / 16) :
    exec (.cmp o) s = .next (trapHere s { cause := 3, slot := slotNumber o.slot }) := by
  obtain ⟨x, hx, -⟩ := srcA_holds ha
  obtain ⟨y, hy, -⟩ := srcB_holds hb
  have hn : decide (o.dst.toNat / 16 < 6) = false := decide_eq_false (Nat.not_lt.2 h6)
  refine congrArg _ (issueAlone_illegalPlan hq (twin_ne 0x16 o (by decide)) hp.1 ?_)
  simp only [planCmp, hx, hy, hn, Bool.and_false, scalarPlan_refused]

end Compare

/-- Settles O3: `cmp_sends` for each condition code of R212, `cmp_traps` for the codes 6 and 7. -/
theorem scalarCompare : Obligations.ScalarCompare := by
  intro s o a b hq hp hfree ha hb
  refine ⟨fun h => ?_, fun h => ?_, fun h => ?_, fun h => ?_, fun h => ?_, fun h => ?_, cmp_traps hq hp ha hb⟩
  · exact cmp_sends hq hp hfree ha hb 0 h (by decide) (condHolds_eq_iff a b)
  · exact cmp_sends hq hp hfree ha hb 1 h (by decide) (condHolds_ne_iff a b)
  · exact cmp_sends hq hp hfree ha hb 2 h (by decide) (condHolds_lt_iff a b)
  · exact cmp_sends hq hp hfree ha hb 3 h (by decide) (condHolds_le_iff a b)
  · exact cmp_sends hq hp hfree ha hb 4 h (by decide) (condHolds_ltu_iff a b)
  · exact cmp_sends hq hp hfree ha hb 5 h (by decide) (condHolds_leu_iff a b)

/-! ### Select, immediates, extension, planes (R213 to R216) -/

theorem sextOf_eq (a : Word) (n : Nat) : sextOf a n = (a.extractLsb' 0 n).signExtend 64 := by
  have h : signedOf n a.toNat = (a.extractLsb' 0 n).toInt := by
    rw [BitVec.toInt_eq_toNat_cond, BitVec.extractLsb'_toNat, Nat.shiftRight_zero]
    simp only [signedOf]
    split <;> split <;> omega
  rw [sextOf, h]; rfl

theorem zextOf_eq (a : Word) (n : Nat) : zextOf a n = (a.extractLsb' 0 n).setWidth 64 := by
  apply BitVec.eq_of_toNat_eq
  rw [zextOf, BitVec.toNat_ofNat, BitVec.toNat_setWidth, BitVec.extractLsb'_toNat, Nat.shiftRight_zero]

theorem aplaneOf_eq (a : Word) (p : BitVec 4) : aplaneOf a p.toNat = (p ++ a.extractLsb' 0 60 : BitVec 64) := by
  apply BitVec.eq_of_toNat_eq
  have hp := p.isLt
  have hlow : a.toNat % 2 ^ 60 < 2 ^ 60 := Nat.mod_lt _ (by decide)
  rw [aplaneOf, BitVec.toNat_ofNat, BitVec.toNat_append, BitVec.extractLsb'_toNat, Nat.shiftRight_zero,
    ← Nat.shiftLeft_add_eq_or_of_lt hlow, Nat.shiftLeft_eq]
  omega

theorem shortSext_toInt (o : Fields) : (shortSext o).toInt = o.short.toInt :=
  BitVec.toInt_signExtend_of_le (by decide)

theorem shortSext_toInt_of_lt {o : Fields} {n : Nat} (h : o.short.toNat = n) (hn : n < 128) : (shortSext o).toInt = n := by
  rw [shortSext_toInt, BitVec.toInt_eq_toNat_cond]
  omega

/-- A count of 0, or of 65 and more as an unsigned number, is none of 1 to 64 as a signed one. -/
theorem count_bad {o : Fields} (h : o.short = 0 ∨ 65 ≤ o.short.toNat) :
    decide (1 ≤ (shortSext o).toInt ∧ (shortSext o).toInt ≤ 64) = false := by
  rw [decide_eq_false_iff_not, shortSext_toInt]
  rcases h with h | h
  · rw [h]; decide
  · rw [BitVec.toInt_eq_toNat_cond]; have := o.short.isLt; omega

theorem plane_bad {o : Fields} (h : 16 ≤ o.short.toNat) :
    decide (0 ≤ (shortSext o).toInt ∧ (shortSext o).toInt ≤ 15) = false := by
  rw [decide_eq_false_iff_not, shortSext_toInt, BitVec.toInt_eq_toNat_cond]
  have := o.short.isLt
  omega

/-- A select of B where A is not 0, else of the old destination, keeps the residue of what it selects. -/
theorem sel_sends {s : State} {o : Fields} {a b d : Word} (h : TwoScalars s o a b) (hd : Holds s o.dst.toNat d) :
    Sends (.sel o) s 1 (.scalar o.dst.toNat) (wordOf (if a ≠ 0 then b else d)) := by
  obtain ⟨x, hx, xv, -, xf⟩ := srcA_holds h.srcA
  obtain ⟨y, hy, yv, yr, yf⟩ := srcB_holds h.srcB
  obtain ⟨dv, dr, df⟩ := srcD_holds h.free.1 hd
  have hpick : pick (x.v != 0) y (srcD s o.dst.toNat) = (if a ≠ 0 then b else d, rho (if a ≠ 0 then b else d)) := by
    by_cases ha : a = 0
    · simp [pick, xv, ha, dv, dr]
    · have hne : (a != 0) = true := bne_iff_ne.2 ha
      simp only [pick, xv, hne, ne_eq, ha, not_false_eq_true, if_true, yv, yr]
  refine congrArg _ (scalar_sends (ok := slotOk s o [.sx, .sy]) (srcs := [x, y, srcD s o.dst.toNat])
    (v := if a ≠ 0 then b else d) (res := rho _) h.quiet (twin_ne 0x17 o (by decide)) h.placed.1 ?_ h.placed.2 h.free ?_ rfl)
  · simp only [planSel, hx, hy, hpick]
  · simp [xf, yf, df]

/-- An immediate or a move of B. -/
theorem ldi_sends {s : State} {o : Fields} {b : Word} (hq : Quiet s) (hp : Placed s o [.sx, .sy]) (hA : noA o = true)
    (hfree : FreeScalar s o.dst.toNat) (hb : HoldsB s o b) : Sends (.ldi o) s 1 (.scalar o.dst.toNat) (wordOf b) := by
  obtain ⟨y, hy, rfl, yr, yf⟩ := srcB_holds hb
  refine congrArg _ (scalar_sends (ok := slotOk s o [.sx, .sy] && noA o) (srcs := [y]) (v := y.v) (res := y.res)
    hq (twin_ne 0x18 o (by decide)) hp.1 ?_ ?_ hfree ?_ yr)
  · simp only [planLdi, hy]
  · simp [hp.2, hA]
  · simp [yf]

section OneOperand

variable {s : State} {o : Fields} {a : Word} (h : OneScalar s o a)

include h

theorem sext_sends {n : Nat} (hn : (shortSext o).toInt = n) (h1 : 1 ≤ n) (h64 : n ≤ 64) :
    Sends (.sext o) s 1 (.scalar o.dst.toNat) (wordOf (sextOf a n)) := by
  refine sends_one (ok := decide (1 ≤ (n : Int) ∧ (n : Int) ≤ 64)) (fun v => sextOf v n) (fun v _ => rho (sextOf v n)) h rfl
    (by decide) (fun x hx => ?_) (decide_eq_true (by omega)) rfl
  simp only [planSext, hx, hn, Int.toNat_natCast]

theorem zext_sends {n : Nat} (hn : (shortSext o).toInt = n) (h1 : 1 ≤ n) (h64 : n ≤ 64) :
    Sends (.zext o) s 1 (.scalar o.dst.toNat) (wordOf (zextOf a n)) := by
  refine sends_one (ok := decide (1 ≤ (n : Int) ∧ (n : Int) ≤ 64)) (fun v => zextOf v n) (fun v _ => rho (zextOf v n)) h rfl
    (by decide) (fun x hx => ?_) (decide_eq_true (by omega)) rfl
  simp only [planZext, hx, hn, Int.toNat_natCast]

theorem aplane_sends {p : Nat} (hp : (shortSext o).toInt = p) (h16 : p < 16) :
    Sends (.aplane o) s 1 (.scalar o.dst.toNat) (wordOf (aplaneOf a p)) := by
  refine sends_one (ok := decide (0 ≤ (p : Int) ∧ (p : Int) ≤ 15)) (fun v => aplaneOf v p) (fun v e => resAplane v e p) h rfl
    (by decide) (fun x hx => ?_) (decide_eq_true (by omega)) (resAplane_rho a p h16)
  simp only [planAplane, hx, hp, Int.toNat_natCast]

theorem sext_traps (hbad : o.short = 0 ∨ 65 ≤ o.short.toNat) :
    exec (.sext o) s = .next (trapHere s { cause := 3, slot := slotNumber o.slot }) :=
  traps_one h rfl (by decide) (fun x hx => by
    simp only [planSext, hx, count_bad hbad, Bool.and_false, scalarPlan_refused])

theorem zext_traps (hbad : o.short = 0 ∨ 65 ≤ o.short.toNat) :
    exec (.zext o) s = .next (trapHere s { cause := 3, slot := slotNumber o.slot }) :=
  traps_one h rfl (by decide) (fun x hx => by
    simp only [planZext, hx, count_bad hbad, Bool.and_false, scalarPlan_refused])

theorem aplane_traps (hbad : 16 ≤ o.short.toNat) :
    exec (.aplane o) s = .next (trapHere s { cause := 3, slot := slotNumber o.slot }) :=
  traps_one h rfl (by decide) (fun x hx => by
    simp only [planAplane, hx, plane_bad hbad, Bool.and_false, scalarPlan_refused])

end OneOperand

/-- Settles O4: each entry and each trap by its own lemma, the values in the words of the statement by `sextOf_eq`, `zextOf_eq` and
`aplaneOf_eq`. -/
theorem scalarMoves : Obligations.ScalarMoves := by
  refine ⟨fun s o a b d h hd => sel_sends h hd, fun s o b hq hp hA hfree hb => ldi_sends hq hp hA hfree hb, ?_, ?_, ?_⟩
  · intro s o a n h h1 h64 hn
    have hshort : (shortSext o).toInt = n := shortSext_toInt_of_lt (by rw [hn, BitVec.toNat_ofNat]; omega) (by omega)
    exact ⟨sextOf_eq a n ▸ sext_sends h hshort h1 h64, zextOf_eq a n ▸ zext_sends h hshort h1 h64⟩
  · intro s o a p h hp
    have hlt := p.isLt
    have hshort : (shortSext o).toInt = p.toNat :=
      shortSext_toInt_of_lt (by rw [hp, BitVec.toNat_setWidth]; omega) (by omega)
    exact aplaneOf_eq a p ▸ aplane_sends h hshort hlt
  · intro s o a h
    exact ⟨fun hbad => ⟨sext_traps h hbad, zext_traps h hbad⟩, aplane_traps h⟩

/-! ### Units that end plainly -/

/-- A unit with no transfer pending moves the pc on, however many cycles it takes. -/
theorem me_moveOn_plain (s : State) (n : Nat) (h : (me s).xfer = none) :
    me (moveOn s n) = { me s with pc := (me s).npc, imm := none, phase := .none } := by
  simp [moveOn, me_advance, stepXfer, h]

/-- A unit that has left its context as c, with neither a transfer pending nor a step trap due, only moves on. -/
theorem me_finishUnit_setMe {c : Ctx} (s : State) (n : Nat) (hx : c.xfer = none) (hst : stepTrapDue c = false) :
    me (finishUnit (setMe s c) n) = { c with pc := c.npc, imm := none, phase := .none } := by
  have hme : me (moveOn (setMe s c) n) = { c with pc := c.npc, imm := none, phase := .none } := by
    rw [me_moveOn_plain _ _ (by rw [me_setMe]; exact hx), me_setMe]
  have hst' : stepTrapDue (me (moveOn (setMe s c) n)) = false :=
    (congrArg stepTrapDue hme).trans ((stepTrapDue_of_kspace rfl).trans hst)
  simp only [finishUnit, hst', Bool.false_eq_true, if_false]
  exact hme

theorem outsideDelay_quiet {s : State} (hq : Quiet s) (f : State → State) : outsideDelay s f = f s := by
  simp [outsideDelay, hq.xfer]

theorem exec_lbeg {s : State} (hq : Quiet s) (k : BitVec 3) : exec (.lbeg k) s = .next (lbegUnit k.toNat s) :=
  congrArg Host.Outcome.next (outsideDelay_quiet hq _)

theorem exec_lend {s : State} (hq : Quiet s) (k : BitVec 3) : exec (.lend k) s = .next (lendUnit k.toNat s) :=
  congrArg Host.Outcome.next (outsideDelay_quiet hq _)

theorem now_goOn (s : State) : now (goOn s) = now s + 1 := by
  simp [goOn, moveOn, advance, now, myCore]

/-- An operation whose plan is its effect alone. -/
theorem issueAlone_effect {o : Fields} {opc : Nat} {plan : Nat → State → Plan} {s : State} {ds : List Dest} {f : State → State}
    (hq : Quiet s) (ho : opc ≠ 0) (hl : o.lmask.getLsbD 0 = true) (hp : plan 0 s = { dests := ds, effect := f })
    (hst : Steady s (f s)) : issueAlone o opc plan s = goOn (f s) := by
  rw [issueAlone_plain o opc plan s hq ho hl]
  · rw [hp]; rfl
  · rw [hp]; constructor <;> simp
  · rw [hp]
  · rw [hp]
  · rw [hp]; exact hst

/-! ### Counts and stride slots (R227, R229) -/

/-- What `lset` does when it issues: the count is in flight, and the cycle is noted for an `lbeg` right behind (R227, R228). -/
def lsetEffect (k : Nat) (v : Word) (t : State) : State :=
  let t1 := sendResult t { due := now t + 1, dest := .loopCount k, val := .word v 0 }
  setMe t1 { me t1 with lsetAt := fset (me t1).lsetAt k (now t1) }

theorem me_lsetEffect (k : Nat) (v : Word) (t : State) (hx : (me t).xfer = none) :
    me (lsetEffect k v t) =
      { me t with
        flight := (me t).flight ++ [{ due := now t + 1, dest := .loopCount k, val := .word v 0 }]
        lsetAt := fset (me t).lsetAt k (now t) } := by
  simp [lsetEffect, me_sendResult, now_sendResult, hx]

theorem now_lsetEffect (k : Nat) (v : Word) (t : State) : now (lsetEffect k v t) = now t := rfl

theorem steady_lsetEffect (k : Nat) (v : Word) {t : State} (hx : (me t).xfer = none) : Steady t (lsetEffect k v t) := by
  constructor <;> rw [me_lsetEffect k v t hx]
  exact stepTrapDue_of_kspace rfl

section LoopRegisters

variable {s : State} {o : Fields} {v : Word} (hq : Quiet s) (hp : Placed s o [.sx, .sy]) (hb : HoldsB s o v)

include hq hp hb

theorem lset_issues (hA : noA o = true) (h1 : 1 ≤ o.dst.toNat) (h6 : o.dst.toNat ≤ 6) (hv : v.toNat < 2 ^ 32) :
    exec (.lset o) s = .next (goOn (lsetEffect o.dst.toNat v s)) := by
  obtain ⟨y, hy, rfl, -, yf⟩ := srcB_holds hb
  obtain ⟨f1, f2, -⟩ := full_sources (srcs := [y]) (by simp [yf])
  refine congrArg _ (issueAlone_effect (ds := [.loopCount o.dst.toNat]) hq (twin_ne 0x20 o (by decide)) hp.1 ?_
    (steady_lsetEffect _ _ hq.xfer))
  have h0 : ¬ o.dst.toNat = 0 := by omega
  simp only [planLset, hy, hp.2, hA, h0, Nat.not_lt.2 h6, Nat.not_le.2 hv, f1, f2, decide_false, Bool.not_true, Bool.or_self,
    Bool.and_false, Bool.false_eq_true, if_false]
  rfl

/-- What an `lset` answers whose count lies from 0 to 2^32 − 1 (R227). -/
theorem lset_answers (hA : noA o = true) (h1 : 1 ≤ o.dst.toNat) (h6 : o.dst.toNat ≤ 6) (hv : v.toNat < 2 ^ 32) :
    Answers (.lset o) s (fun t =>
      (me t).flight = (me s).flight ++ [{ due := now s + 1, dest := .loopCount o.dst.toNat, val := .word v 0 }]
        ∧ (me t).pc = (me s).npc ∧ now t = now s + 1 ∧ (me t).arch = (me s).arch) := by
  refine ⟨_, lset_issues hq hp hb hA h1 h6 hv, ?_⟩
  have hme := me_lsetEffect o.dst.toNat v s hq.xfer
  beta_reduce
  rw [me_goOn_plain _ (by rw [hme]; exact hq.xfer), now_goOn, now_lsetEffect, hme]
  exact ⟨rfl, rfl, rfl, rfl⟩

theorem lset_traps (hv : 2 ^ 32 ≤ v.toNat) :
    exec (.lset o) s = .next (trapHere s { cause := 3, slot := slotNumber o.slot }) := by
  obtain ⟨y, hy, rfl, -, yf⟩ := srcB_holds hb
  refine congrArg _ (issueAlone_illegalPlan hq (twin_ne 0x20 o (by decide)) hp.1 ?_)
  simp only [planLset, hy, yf, decide_eq_true hv, Bool.and_true, Bool.or_true, if_true]

theorem lstr_sends (hbta : o.bta = false) (h32 : o.dst.toNat < 32) (h1 : 1 ≤ o.dst.toNat % 8) (h6 : o.dst.toNat % 8 ≤ 6)
    (ha : o.srca = 0 ∨ 0x40 ≤ o.srca.toNat ∧ o.srca.toNat < 0x50) :
    Sends (.lstr o) s 1 (.stride (o.dst.toNat % 8) (o.dst.toNat / 8))
      (.stride (if o.srca = 0 then none else some (o.srca.toNat, v))) := by
  obtain ⟨y, hy, rfl, -, yf⟩ := srcB_holds hb
  obtain ⟨f1, f2, -⟩ := full_sources (srcs := [y]) (by simp [yf])
  have hk : field o.dst.toNat 0 3 = o.dst.toNat % 8 := by simp [field]
  have hj : field o.dst.toNat 3 2 = o.dst.toNat / 8 := by simp only [field]; omega
  have h0 : ¬ o.dst.toNat % 8 = 0 := by omega
  have hcode : (o.srca.toNat = 0) ↔ o.srca = 0 := (BitVec.toNat_eq (y := 0)).symm
  refine congrArg _ (issueAlone_effect (ds := [.stride (o.dst.toNat % 8) (o.dst.toNat / 8)])
    (f := fun t => sendResult t (inFlightAfter t 1 (.stride (o.dst.toNat % 8) (o.dst.toNat / 8))
      (.stride (if o.srca = 0 then none else some (o.srca.toNat, y.v)))))
    hq (twin_ne 0x21 o (by decide)) hp.1 ?_ (steady_sendResult _ _))
  simp only [planLstr, hy, hp.2, hbta, hk, hj, Nat.not_le.2 h32, h0, Nat.not_lt.2 h6, f1, f2, hcode]
  rcases ha with ha | ⟨ha, ha'⟩
  · simp [ha]
  · simp [ha, ha']

end LoopRegisters

/-! ### The opening and closing of a level (R228, R229) -/

/-- The context in which level k is open with its count, its body at the unit behind (R228). -/
def openLevel (c : Ctx) (k : Nat) : Ctx :=
  { c with arch := { c.arch with
      loops := { level := k, count := (fget c.arch.lcount k 0).toNat, body := c.npc, first := true } :: c.arch.loops } }

theorem lbegUnit_opens {s : State} {k : Nat} (h1 : 1 ≤ k) (h6 : k ≤ 6) (hl : ∀ l ∈ (me s).arch.loops, l.level ≠ k)
    (hn : fget (me s).arch.lcount k 0 ≠ 0) :
    lbegUnit k s = finishUnit (setMe s (openLevel (me s) k)) (lsetHold s k) := by
  have hopen : (me s).arch.loops.any (fun l => l.level == k) = false := by
    simp only [List.any_eq_false, beq_iff_eq]; exact hl
  have hn' : ¬ (fget (me s).arch.lcount k 0).toNat = 0 := fun h => hn (BitVec.eq_of_toNat_eq h)
  have h0 : ¬ k = 0 := by omega
  simp only [lbegUnit, h0, Nat.not_lt.2 h6, hopen, hn', decide_false, Bool.or_self, Bool.false_eq_true, if_false]
  rfl

theorem lbegUnit_skips {s : State} {k : Nat} {va : Word} (h1 : 1 ≤ k) (h6 : k ≤ 6)
    (hl : ∀ l ∈ (me s).arch.loops, l.level ≠ k) (hn : fget (me s).arch.lcount k 0 = 0)
    (hva : afterLend (2 ^ 59) s k (me s).npc = .inl va) :
    lbegUnit k s = finishUnit (continueAt s va) (1 + lsetHold s k) := by
  have hopen : (me s).arch.loops.any (fun l => l.level == k) = false := by
    simp only [List.any_eq_false, beq_iff_eq]; exact hl
  have h0 : ¬ k = 0 := by omega
  have hz : (0 : Word).toNat = 0 := rfl
  unfold lbegUnit
  simp only [h0, Nat.not_lt.2 h6, hopen, hn, hz, decide_false, Bool.or_self, Bool.false_eq_true, if_false, if_true]
  rw [hva]

/-- Adding strides changes the scalar registers alone. -/
theorem addStride_regs (c : Ctx) (e : Nat × Word) :
    addStride c e = { c with arch := { c.arch with regs := (addStride c e).arch.regs } } := by
  unfold addStride writeReg
  split
  · rfl
  · rfl

theorem foldl_addStride_regs (es : List (Nat × Word)) (c : Ctx) :
    es.foldl addStride c = { c with arch := { c.arch with regs := (es.foldl addStride c).arch.regs } } := by
  induction es generalizing c with
  | nil => rfl
  | cons e t ih =>
    rw [List.foldl_cons, ih (addStride c e), addStride_regs c e]

/-- The context in which `lend` of an open level has added its strides and gone back or closed the level. -/
def lendCtx (c : Ctx) (l : Loop) (rest : List Loop) : Ctx :=
  let c1 := (stridesOf c l.level).foldl addStride c
  if l.count ≤ 1 then { c1 with arch := { c1.arch with loops := rest } }
  else { c1 with npc := l.body, arch := { c1.arch with loops := { l with count := l.count - 1, first := false } :: rest } }

theorem lendUnit_full {s : State} {l : Loop} {rest : List Loop} (hl : (me s).arch.loops = l :: rest)
    (hfull : ∀ e ∈ stridesOf (me s) l.level, (readReg (me s) e.1).full = true) :
    lendUnit l.level s = finishUnit (setMe s (lendCtx (me s) l rest)) 0 := by
  have hfind : (stridesOf (me s) l.level).find? (fun e => !(readReg (me s) e.1).full) = none := by
    simp only [List.find?_eq_none]; intro e he; simp [hfull e he]
  simp only [lendUnit, hl, ne_eq, not_true_eq_false, if_false, hfind, lendCtx]
  split
  · rfl
  · rfl

theorem lendCtx_regs (c : Ctx) (l : Loop) (rest : List Loop) :
    (lendCtx c l rest).arch.regs = ((stridesOf c l.level).foldl addStride c).arch.regs := by
  unfold lendCtx
  split
  · rfl
  · rfl

theorem lendCtx_xfer (c : Ctx) (l : Loop) (rest : List Loop) : (lendCtx c l rest).xfer = c.xfer := by
  unfold lendCtx
  rw [foldl_addStride_regs]
  split
  · rfl
  · rfl

theorem lendCtx_kspace (c : Ctx) (l : Loop) (rest : List Loop) : (lendCtx c l rest).arch.kspace = c.arch.kspace := by
  unfold lendCtx
  rw [foldl_addStride_regs]
  split
  · rfl
  · rfl

theorem lendCtx_closes {c : Ctx} {l : Loop} {rest : List Loop} (h : l.count ≤ 1) :
    (lendCtx c l rest).arch.loops = rest ∧ (lendCtx c l rest).npc = c.npc := by
  unfold lendCtx
  rw [foldl_addStride_regs, if_pos h]
  exact ⟨rfl, rfl⟩

theorem lendCtx_repeats {c : Ctx} {l : Loop} {rest : List Loop} (h : 1 < l.count) :
    (lendCtx c l rest).arch.loops = { l with count := l.count - 1, first := false } :: rest
      ∧ (lendCtx c l rest).npc = l.body := by
  unfold lendCtx
  rw [if_neg (Nat.not_le.2 h)]
  exact ⟨rfl, rfl⟩

/-- Settles O9: the loop registers by `lset_answers`, `lset_traps` and `lstr_sends`; a level opens, is skipped, goes back or closes as
`lbegUnit_opens`, `lbegUnit_skips` and `lendUnit_full` say, and the unit then ends plainly. -/
theorem loopLevels : Obligations.LoopLevels := by
  refine ⟨fun s o v hq hp hA h1 h6 hb hv => lset_answers hq hp hb hA h1 h6 hv,
    fun s o v hq hp _ _ _ hb hv => lset_traps hq hp hb hv,
    fun s o v hq hp hbta h32 h1 h6 ha hb => lstr_sends hq hp hb hbta h32 h1 h6 ha, ?_, ?_⟩
  · intro s k hq h1 h6 hl
    refine ⟨fun hn => ⟨_, (exec_lbeg hq k).trans (congrArg _ (lbegUnit_opens h1 h6 hl hn)), ?_⟩,
      fun va hn hva => ⟨_, (exec_lbeg hq k).trans (congrArg _ (lbegUnit_skips h1 h6 hl hn hva)), ?_⟩⟩
    · beta_reduce
      rw [me_finishUnit_setMe (c := openLevel (me s) k.toNat) s _ hq.xfer hq.step]
      exact ⟨rfl, rfl⟩
    · beta_reduce
      rw [continueAt, me_finishUnit_setMe (c := { me s with npc := va }) s _ hq.xfer hq.step]
      exact ⟨rfl, rfl⟩
  · intro s k l rest hq hl hk hfull
    rw [← hk] at hfull ⊢
    refine ⟨_, (exec_lend hq k).trans (congrArg _ (hk ▸ lendUnit_full hl hfull)), ?_⟩
    have hx : (lendCtx (me s) l rest).xfer = none := (lendCtx_xfer _ _ _).trans hq.xfer
    have hst : stepTrapDue (lendCtx (me s) l rest) = false := (stepTrapDue_of_kspace (lendCtx_kspace _ _ _)).trans hq.step
    beta_reduce
    rw [me_finishUnit_setMe s 0 hx hst]
    exact ⟨lendCtx_regs _ _ _, lendCtx_closes, lendCtx_repeats⟩

end Sys2Proof.Machine
end

section
/-! SUPPORT. Votes, fences and drains (R80, R81, R254): when nothing of a context is under way, what the entries that order
memory do then, and the proof of the statement about them. -/

namespace Sys2Proof.Machine

/-! ### What is under way (R79 to R81) -/

theorem loadsOut_eq_false_iff {s : State} : loadsOut s = false ↔ ∀ l ∈ s.loads, l.cid = s.cur → isLocal l.acc = false := by
  simp [loadsOut]

theorem atomsOut_eq_false_iff {s : State} : atomsOut s = false ↔ ∀ l ∈ s.loads, l.cid = s.cur → isAtom l = false := by
  simp [atomsOut]

/-- No store is short of a stage when those in the write buffers are at grp, and that is the stage. -/
theorem storesShort_eq_false_iff {s : State} {cid stage : Nat} :
    storesShort s cid stage = false ↔ ∀ p ∈ s.wbuf, p.cid = cid → stage < 2 ∧ p.grp = true := by
  simp [storesShort]

/-- Outside a segment the stores under way are those in the write buffers. -/
theorem storesOut_quiet {s : State} (stage : Nat) (hq : Quiet s) : storesOut s stage = storesShort s s.cur stage := by
  simp [storesOut, hq.seg]

/-- The scopes ctx, core and grp need the first stage alone (R79). -/
theorem stageOf_lt_two_iff {scope : Nat} : stageOf scope < 2 ↔ scope ≤ 2 := by
  unfold stageOf
  split <;> omega

theorem fenceWaits_eq_nil {s : State} {scope : Nat} (hq : Quiet s) (hl : ∀ l ∈ s.loads, l.cid = s.cur → isLocal l.acc = false)
    (hw : ∀ p ∈ s.wbuf, p.cid = s.cur → scope ≤ 2 ∧ p.grp = true) : fenceWaits s (stageOf scope) = [] := by
  have hstores : storesShort s s.cur (stageOf scope) = false :=
    storesShort_eq_false_iff.2 fun p hp hc => ⟨stageOf_lt_two_iff.2 (hw p hp hc).1, (hw p hp hc).2⟩
  simp [fenceWaits, loadsOut_eq_false_iff.2 hl, storesOut_quiet _ hq, hstores]

/-! ### Fences and drains that wait for nothing -/

/-- An operation that only ends the segment and takes deferred tag faults, where there is neither: the program goes on. -/
theorem issueAlone_barrier {o : Fields} {opc : Nat} {plan : Nat → State → Plan} {s : State} (hq : Quiet s) (ho : opc ≠ 0)
    (hl : o.lmask.getLsbD 0 = true) (htag : (me s).tagFail = none) (hp : plan 0 s = { endsSeg := true, takesTag := true }) :
    issueAlone o opc plan s = goOn s := by
  rw [issueAlone_plain o opc plan s hq ho hl]
  · rw [hp]; rfl
  · rw [hp]; constructor <;> simp [htag]
  · rw [hp]
  · rw [hp]
  · rw [hp]; exact .refl s

section Barriers

variable {s : State} {o : Fields} (hq : Quiet s) (hp : Placed s o [.sy]) (hA : noA o = true) (hB : noB o = true)
  (htag : (me s).tagFail = none)

include hq hp hA hB htag

theorem fence_passes (h4 : o.dst.toNat ≤ 4) (hl : ∀ l ∈ s.loads, l.cid = s.cur → isLocal l.acc = false)
    (hw : ∀ p ∈ s.wbuf, p.cid = s.cur → o.dst.toNat ≤ 2 ∧ p.grp = true) : exec (.fence o) s = .next (goOn s) := by
  refine congrArg _ (issueAlone_barrier hq (twin_ne 0x3F o (by decide)) hp.1 htag ?_)
  simp [planFence, hp.2, hA, hB, Nat.not_lt.2 h4, fenceWaits_eq_nil hq hl hw]

theorem drain_passes (h5 : o.dst = 5) (ha : ∀ l ∈ s.loads, l.cid = s.cur → isAtom l = false)
    (hw : ∀ p ∈ s.wbuf, p.cid ≠ s.cur) : exec (.drain o) s = .next (goOn s) := by
  have hstores : storesShort s s.cur 2 = false := storesShort_eq_false_iff.2 fun p hm hc => absurd hc (hw p hm)
  refine congrArg _ (issueAlone_barrier hq (twin_ne 0x3F o (by decide)) hp.1 htag ?_)
  simp [planDrain, hp.2, hA, hB, h5, atomsOut_eq_false_iff.2 ha, storesOut_quiet _ hq, hstores]

end Barriers

/-! ### Votes (R254) -/

section Votes

variable {s : State} {o : Fields} {a b : Word} (hq : Quiet s) (hp : Placed s o [.sy])
  (ha : Holds s o.srca.toNat a) (hb : HoldsB s o b)

include hq hp ha hb

theorem vote_sends (h0 : o.dst = 0) (hg : (mySgid s).isSome = true) :
    Sends (.vote o) s 1 (.kspace 0x1A) (.orWord ((a ||| b) &&& 0xFFFF_FFFF)) := by
  obtain ⟨x, hx, rfl, -, xf⟩ := srcA_holds ha
  obtain ⟨y, hy, rfl, -, yf⟩ := srcB_holds hb
  obtain ⟨f1, f2, -⟩ := full_sources (srcs := [x, y]) (by simp [xf, yf])
  have hg' : (mySgid s).isNone = false := by simpa using hg
  refine congrArg _ (issueAlone_effect (ds := [.kspace 0x1A])
    (f := fun t => sendResult t (inFlightAfter t 1 (.kspace 0x1A) (.orWord ((x.v ||| y.v) &&& 0xFFFF_FFFF))))
    hq (twin_ne 0x35 o (by decide)) hp.1 ?_ (steady_sendResult _ _))
  simp [planVote, hx, hy, hp.2, h0, hg', f1, f2]

/-- A vote of a task without a step group. -/
theorem vote_traps (hg : mySgid s = none) :
    exec (.vote o) s = .next (trapHere s { cause := 3, slot := slotNumber o.slot }) := by
  obtain ⟨x, hx, -⟩ := srcA_holds ha
  obtain ⟨y, hy, -⟩ := srcB_holds hb
  refine congrArg _ (issueAlone_illegalPlan hq (twin_ne 0x35 o (by decide)) hp.1 ?_)
  simp [planVote, hx, hy, hg]

end Votes

/-- Settles O21: a vote by `vote_sends` and `vote_traps`, a fence and a drain by `fence_passes` and `drain_passes`. -/
theorem fencesAndVotes : Obligations.FencesAndVotes := by
  intro s o hq hp
  refine ⟨fun a b h0 hg ha hb => vote_sends hq hp ha hb h0 hg, fun a b _ hg ha hb => vote_traps hq hp ha hb hg, ?_, ?_⟩
  · exact fun hA hB h4 htag hl hw => fence_passes hq hp hA hB htag h4 hl hw
  · exact fun hA hB h5 htag hl hw => drain_passes hq hp hA hB htag h5 hl hw

end Sys2Proof.Machine
end

section
/-! SUPPORT. The vector entries on bits and predicates (R277, R285 to R288): what an entry with one result does when nothing stops
it, the counts of the shifts, the reductions of a p register, and the proofs of the two statements about them. -/

namespace Sys2Proof.Machine

/-! ### An entry of the vector slots that issues, and one that traps -/

theorem vecPlan_refused (s : State) (us : List RowUse) (lat : Nat) (draws : Bool) (outs : List (Dest × (Unit → Payload))) :
    vecPlan s false us lat draws outs = illegalPlan := rfl

theorem rowPlan_refused (s : State) (o : Fields) (us : List RowUse) (lat : Nat) (draws : Bool) (f : Unit → Row) :
    rowPlan s o false us lat draws f = illegalPlan := by
  rw [rowPlan, Bool.and_false, vecPlan_refused]

/-- The lane width of the slot's cluster (R278). -/
abbrev slotWidth (s : State) (o : Fields) : Nat := etWidth (me s) (vecCluster o)

/-- A row operand that is full reads as the bits it holds. -/
theorem vrow_holds {s : State} {o : Fields} {r : Nat} {v : Row} (h : HoldsRow s (vecCluster o) r v) : vrow s o r = v := by
  simp [vrow, h.2]

/-- A full row is free: no producer will still fill it (R279). -/
theorem freeRow_of_holds {s : State} {cl : Cluster} {r : Nat} {v : Row} (h : HoldsRow s cl r v) : FreeRow s cl r := by
  obtain ⟨ht, hf⟩ := rowFull_holds h
  simp [FreeRow, destWaits, ht, hf]

/-- What `vec_sends` asks of the rows that an entry reads. -/
def RowsFull (s : State) (us : List RowUse) : Prop := ∀ u ∈ us, tileTaken s u.cl = false ∧ rowFull s u.cl u.r = true

theorem rowsFull_nil (s : State) : RowsFull s [] := fun _ h => absurd h List.not_mem_nil

theorem rowsFull_cons {s : State} {u : RowUse} {us : List RowUse} {v : Row} (h : HoldsRow s u.cl u.r v) (hs : RowsFull s us) :
    RowsFull s (u :: us) :=
  List.forall_mem_cons.2 ⟨rowFull_holds h, hs⟩

section Entry

variable {i : Instr} {s : State} {o : Fields} {opc : Nat} {plan : Nat → State → Plan} (hq : Quiet s)
  (hp : Placed s o [.vx, .vy]) (he : exec i s = .next (issueAlone o opc plan s)) (ho : opc ≠ 0)

include hq hp he ho

/-- An entry with one result, which takes no DRAW value and whose own condition `ok` holds, sends it. -/
theorem sends_vec {ok : Bool} {us : List RowUse} {lat : Nat} {d : Dest} {v : Payload}
    (hplan : plan 0 s = vecPlan s (vecOk s o && ok) us lat false [(d, fun _ => v)]) (hok : ok = true) (hu : RowsFull s us)
    (hd : destWaits s d = []) : Sends i s lat d v := by
  have hok' : (vecOk s o && ok) = true := by rw [hok, Bool.and_true]; exact hp.2
  exact he.trans (congrArg _ (vec_sends hq ho hp.1 hplan hok' hu (List.forall_mem_singleton.2 hd)))

/-- The same where the result is a row of the slot's own cluster. -/
theorem sends_row {ok : Bool} {us : List RowUse} {lat : Nat} {v : Row} (hplan : plan 0 s = rowPlan s o ok us lat false (fun _ => v))
    (hok : ok = true) (hu : RowsFull s us) (hfree : FreeRow s (vecCluster o) o.dst.toNat) :
    Sends i s lat (.row (vecCluster o) o.dst.toNat) (.row v) :=
  sends_vec hq hp he ho hplan hok hu hfree

end Entry

/-! ### Bitwise rows, shifts and the merge (R285, R286) -/

/-- A bitwise entry combines the two rows. -/
theorem sends_bits {i : Instr} {s : State} {o : Fields} {opc : Nat} {a b : Row} (f : Row → Row → Row) (h : TwoRows s o a b)
    (he : exec i s = .next (issueAlone o opc (fun _ => (bitsPlan · o f)) s)) (ho : opc ≠ 0) :
    Sends i s 2 (.row (vecCluster o) o.dst.toNat) (.row (f a b)) := by
  refine sends_row h.quiet h.placed he ho ?_ rfl
    (rowsFull_cons (u := useA o) h.srcA (rowsFull_cons (u := useB o) h.srcB (rowsFull_nil s))) h.free
  simp only [bitsPlan, vrow_holds h.srcA, vrow_holds h.srcB]

/-- The opcode of a shift: its I form stands 0x50 above its R form. -/
theorem shiftOpcode_ne {t : Bool} {m n : Nat} (hm : m ≠ 0) (hn : n ≠ 0) : (if t = true then m else n) ≠ 0 := by
  split
  · exact hm
  · exact hn

/-- The counts of the lanes of a shift, as R285 gives them: one short count below the lane width for the I form, the lanes of row B
for the R form. -/
structure ShiftCounts (s : State) (o : Fields) (w : Nat) (k : Nat → Nat) : Prop where
  short : o.twin = true → ∃ n, n < w ∧ n < 128 ∧ o.short = BitVec.ofNat 8 n ∧ ∀ i, k i = n
  rowB : o.twin = false → ∃ b, HoldsRow s (vecCluster o) o.srcb.toNat b ∧ ∀ i, k i = lane b w i % w

section Shifts

variable {i : Instr} {s : State} {o : Fields} {opc : Nat} (f : Nat → Nat → Nat → Nat)
  (he : exec i s = .next (issueAlone o opc (fun _ => (shiftPlan · o f)) s)) (ho : opc ≠ 0)

include he ho

/-- A shift applies f to each lane with the count of its lane. -/
theorem sends_shift {a : Row} {k : Nat → Nat} (h : OneRow s o a) (hk : ShiftCounts s o (slotWidth s o) k) :
    Sends i s 2 (.row (vecCluster o) o.dst.toNat) (.row (mapLanes (slotWidth s o) (fun i =>
      f (slotWidth s o) (lane a (slotWidth s o) i) (k i)))) := by
  cases ht : o.twin with
  | true =>
    obtain ⟨n, hw, hn, hshort, hkn⟩ := hk.short ht
    have hint : (shortSext o).toInt = n := shortSext_toInt_of_lt (by rw [hshort, BitVec.toNat_ofNat]; omega) hn
    have hrange : decide (0 ≤ (n : Int) ∧ (n : Int) < slotWidth s o) = true := decide_eq_true (by omega)
    rw [funext hkn]
    refine sends_row h.quiet h.placed he ho ?_ hrange (rowsFull_cons (u := useA o) h.srcA (rowsFull_nil s)) h.free
    simp only [shiftPlan, ht, if_true, hint, Int.toNat_natCast, vrow_holds h.srcA]
  | false =>
    obtain ⟨b, hb, hkb⟩ := hk.rowB ht
    rw [funext hkb]
    refine sends_row h.quiet h.placed he ho ?_ rfl
      (rowsFull_cons (u := useA o) h.srcA (rowsFull_cons (u := useB o) hb (rowsFull_nil s))) h.free
    simp only [shiftPlan, ht, Bool.false_eq_true, if_false, vrow_holds h.srcA, vrow_holds hb]

/-- A short count outside 0 to w − 1 traps (R285); a negative one reads as 128 or more where the field is unsigned. -/
theorem traps_shift (hq : Quiet s) (hp : Placed s o [.vx, .vy]) (ht : o.twin = true)
    (hw : slotWidth s o ≤ o.short.toNat) :
    exec i s = .next (trapHere s { cause := 3, slot := slotNumber o.slot }) := by
  have hbad : decide (0 ≤ (shortSext o).toInt ∧ (shortSext o).toInt < slotWidth s o) = false := by
    rw [decide_eq_false_iff_not, shortSext_toInt, BitVec.toInt_eq_toNat_cond]
    split <;> omega
  refine he.trans (congrArg _ (issueAlone_illegalPlan hq ho hp.1 ?_))
  simp only [shiftPlan, ht, if_true, hbad, rowPlan_refused]

end Shifts

/-- `vsel` reads its old destination, which is therefore full and free (R279, R286). -/
theorem vsel_sends {s : State} {o : Fields} {b d : Row} (hq : Quiet s) (hp : Placed s o [.vx, .vy]) (ha : o.srca.toNat < 16)
    (hb : HoldsRow s (vecCluster o) o.srcb.toNat b) (hd : HoldsRow s (vecCluster o) o.dst.toNat d) :
    Sends (.vsel o) s 2 (.row (vecCluster o) o.dst.toNat) (.row (mapLanes (slotWidth s o) (fun i =>
      if (readPred (me s) (vecCluster o) o.srca.toNat).getLsbD i then lane b (slotWidth s o) i
      else lane d (slotWidth s o) i))) := by
  refine sends_row hq hp rfl (by decide) ?_ (decide_eq_true ha)
    (rowsFull_cons (u := useB o) hb (rowsFull_cons (u := useD o) hd (rowsFull_nil s))) (freeRow_of_holds hd)
  simp only [planVsel, vrow_holds hb, vrow_holds hd]

/-- Settles O27: the bitwise entries by `sends_bits`, the shifts by `sends_shift` and `traps_shift`, the merge by `vsel_sends`. -/
theorem vectorBits : Obligations.VectorBits := by
  refine ⟨fun s o a b h => ⟨?_, ?_, ?_⟩, fun s o a k h hshort hrow => ?_, fun s o hq hp ht hw => ?_,
    fun s o b d hq hp ha hb hd => vsel_sends hq hp ha hb hd⟩
  · exact sends_bits (· &&& ·) h rfl (by decide)
  · exact sends_bits (· ||| ·) h rfl (by decide)
  · exact sends_bits (· ^^^ ·) h rfl (by decide)
  · have hk : ShiftCounts s o (slotWidth s o) k := ⟨hshort, hrow⟩
    refine ⟨?_, ?_, ?_⟩
    · exact sends_shift (fun w x k => x * 2 ^ k % 2 ^ w) rfl (shiftOpcode_ne (by decide) (by decide)) h hk
    · exact sends_shift (fun _ x k => x / 2 ^ k) rfl (shiftOpcode_ne (by decide) (by decide)) h hk
    · exact sends_shift (fun w x k => intCode w (signedOf w x / (2 ^ k : Nat))) rfl (shiftOpcode_ne (by decide) (by decide)) h hk
  · refine List.forall_mem_cons.2 ⟨?_, List.forall_mem_cons.2 ⟨?_, List.forall_mem_singleton.2 ?_⟩⟩
    · exact traps_shift _ rfl (shiftOpcode_ne (by decide) (by decide)) hq hp ht hw
    · exact traps_shift _ rfl (shiftOpcode_ne (by decide) (by decide)) hq hp ht hw
    · exact traps_shift _ rfl (shiftOpcode_ne (by decide) (by decide)) hq hp ht hw

/-! ### Compares, predicate logic, lane reductions, the element type (R277, R287, R288) -/

/-- The condition code and the p register of a compare stand in DST[6:4] and DST[3:0] (R199). -/
theorem vcmp_fields (d : BitVec 7) : field d.toNat 4 3 = d.toNat / 16 ∧ field d.toNat 0 4 = d.toNat % 16 := by
  have := d.isLt
  simp only [field]
  omega

/-- The bits 0 to n − 1 of p that `pany` and `pall` look at. -/
theorem range_any_iff (n : Nat) (p : PBits) : (List.range n).any p.getLsbD = true ↔ ∃ i, i < n ∧ p.getLsbD i = true := by
  simp only [List.any_eq_true, List.mem_range]

theorem range_all_iff (n : Nat) (p : PBits) : (List.range n).all p.getLsbD = true ↔ ∀ i, i < n → p.getLsbD i = true := by
  simp only [List.all_eq_true, List.mem_range]

section Predicates

variable {i : Instr} {s : State} {o : Fields} (hq : Quiet s) (hp : Placed s o [.vx, .vy])

include hq hp

/-- A compare of a condition that R287 gives writes its bit for each lane, and 0 beyond them. -/
theorem vcmp_sends {a b : Row} (ha : HoldsRow s (vecCluster o) o.srca.toNat a) (hb : HoldsRow s (vecCluster o) o.srcb.toNat b)
    (h6 : o.dst.toNat / 16 < 6) :
    Sends (.vcmp o) s 2 (.pred (vecCluster o) (o.dst.toNat % 16))
      (.pbits (predOf (4096 / slotWidth s o) (fun i => laneCond (etOf (me s) (vecCluster o)) (o.dst.toNat / 16)
        (lane a (slotWidth s o) i) (lane b (slotWidth s o) i)))) := by
  obtain ⟨hcond, hreg⟩ := vcmp_fields o.dst
  refine sends_vec hq hp rfl (by decide) ?_ (decide_eq_true h6)
    (rowsFull_cons (u := useA o) ha (rowsFull_cons (u := useB o) hb (rowsFull_nil s))) rfl
  simp only [planVcmp, vrow_holds ha, vrow_holds hb, hcond, hreg, etWidth]

/-- An entry of two p operands. -/
theorem sends_pred {opc : Nat} (f : PBits → PBits → PBits) (hd : o.dst.toNat < 16) (ha : o.srca.toNat < 16) (hb : o.srcb.toNat < 16)
    (he : exec i s = .next (issueAlone o opc (fun _ => (predPlan · o f)) s)) (ho : opc ≠ 0) :
    Sends i s 1 (.pred (vecCluster o) o.dst.toNat)
      (.pbits (f (readPred (me s) (vecCluster o) o.srca.toNat) (readPred (me s) (vecCluster o) o.srcb.toNat))) :=
  sends_vec hq hp he ho rfl (by simp [hd, ha, hb]) (rowsFull_nil s) rfl

section OnePredicate

variable (hd : o.dst.toNat < 16) (ha : o.srca.toNat < 16) (hB : noB o = true)

include hd ha hB

theorem pnot_sends :
    Sends (.pnot o) s 1 (.pred (vecCluster o) o.dst.toNat) (.pbits (~~~(readPred (me s) (vecCluster o) o.srca.toNat))) :=
  sends_vec (ok := noB o && o.dst.toNat < 16 && o.srca.toNat < 16) hq hp rfl (by decide)
    (by simp only [planPnot, Bool.and_assoc]) (by simp [hB, hd, ha]) (rowsFull_nil s) rfl

/-- A reduction of a p register by g writes whether the fact P that g decides holds. -/
theorem sends_any {opc : Nat} {P : Prop} [Decidable P] (g : Nat → PBits → Bool) (hfree : FreeScalar s (0x58 + o.dst.toNat))
    (he : exec i s = .next (issueAlone o opc (fun _ => (anyPlan · o g)) s)) (ho : opc ≠ 0)
    (hP : g (4096 / slotWidth s o) (readPred (me s) (vecCluster o) o.srca.toNat) = true ↔ P) :
    Sends i s 1 (.scalar (0x58 + o.dst.toNat)) (wordOf (if P then 1 else 0)) := by
  rw [← if_congr hP (rfl : (1 : Word) = 1) (rfl : (0 : Word) = 0)]
  exact sends_vec (ok := noB o && o.dst.toNat < 16 && o.srca.toNat < 16) hq hp he ho
    (by simp only [anyPlan, Bool.and_assoc, wordOf]) (by simp [hB, hd, ha]) (rowsFull_nil s) hfree.2

end OnePredicate

/-- An element type that R277 accepts lands in ETX or ETY. -/
theorem vtype_sends (hd : o.dst = 0) (hA : noA o = true) (ht : clusterType o.short.toNat = true) :
    Sends (.vtype o) s 1 (.kspace (if vecCluster o = .x then 2 else 3)) (.word (o.short.setWidth 64) 0) :=
  sends_vec (ok := o.dst == 0 && noA o && clusterType o.short.toNat) hq hp rfl (by decide)
    (by simp only [planVtype, shortK, BitVec.ofNat_toNat, Bool.and_assoc]) (by simp [hd, hA, ht]) (rowsFull_nil s) rfl

theorem vtype_traps (ht : clusterType o.short.toNat = false) :
    exec (.vtype o) s = .next (trapHere s { cause := 3, slot := slotNumber o.slot }) := by
  refine congrArg _ (issueAlone_illegalPlan hq (by decide) hp.1 ?_)
  simp only [planVtype, shortK, ht, Bool.and_false, vecPlan_refused]

end Predicates

/-- Settles O28: the compare by `vcmp_sends`, predicate logic by `sends_pred` and `pnot_sends`, the reductions by `sends_any`, the
element type by `vtype_sends` and `vtype_traps`. -/
theorem lanePredicates : Obligations.LanePredicates := by
  intro s o hq hp
  refine ⟨fun a b ha hb h6 => vcmp_sends hq hp ha hb h6, fun hd ha hb => ⟨?_, ?_, ?_⟩,
    fun hd ha hB => ⟨pnot_sends hq hp hd ha hB, fun hfree => ⟨?_, ?_⟩⟩,
    fun hd hA => ⟨vtype_sends hq hp hd hA, vtype_traps hq hp⟩⟩
  · exact sends_pred hq hp (· &&& ·) hd ha hb rfl (by decide)
  · exact sends_pred hq hp (· ||| ·) hd ha hb rfl (by decide)
  · exact sends_pred hq hp (· ^^^ ·) hd ha hb rfl (by decide)
  · exact sends_any hq hp hd ha hB _ hfree rfl (by decide) (range_any_iff _ _)
  · exact sends_any hq hp hd ha hB _ hfree rfl (by decide) (range_all_iff _ _)

end Sys2Proof.Machine
end
